-- ==== Sys2Proof/Word.lean ====
section
/-!
DEFINITION. The word and byte types of the module's registers, packets and memory, and their plainest
arithmetic (R3: bit 0 is the least significant bit; multi-byte values are little-endian).
-/

namespace Sys2Proof

/-- A register, address or packet field of 64 bits (R5). -/
abbrev Word := BitVec 64

/-- One byte of memory or of a packet. -/
abbrev Byte := BitVec 8

/-- A byte sequence, lowest address first. -/
abbrev Bytes := List Byte

end Sys2Proof
end

