-- ==== Sys2Proof/Syntax.lean ====
section
/-!
DEFINITION. The commands of the module: one constructor of `Instr` for each row of spec/opcode_table.json,
with the row's operands, and the small operand types they use.

An operand `dt` is the engine time, in ns, that passes before the event happens; the rows whose moment matters
carry it. An operand `val` is the 64-bit value of a register write. `ring` and `pos` name a command by its ring
and the position of its header slot (R78).
-/

namespace Sys2Proof

/-- Who writes a register: the host through BAR0, or a node core of a partition (R27). -/
inductive Who where
  | host
  | core (part : Nat)
deriving DecidableEq, Repr

/-- The fields of an instruction word that every class shares (Table 4-4), with its literal. -/
structure IWord where
  d : Nat
  a : Nat
  b : Nat
  c : Nat
  pred : Nat
  pneg : Bool
  fmt : Nat
  rnd : Nat
  mod : Nat
  lit : Option Word
deriving DecidableEq, Repr

/-- Scalar operations (class 0, "scalar arithmetic" of R112; the spec gives no list). -/
inductive ScalarOp where
  | mov | add | sub | mul | band | bor | bxor | shl | shr | sar | cmpEq | cmpNe | cmpLt | cmpLtu | reserved
deriving DecidableEq, Repr

/-- Vector integer operations (class 1; Table 4-5 names add, multiply, shift and compare to p). -/
inductive VIntOp where
  | mov | add | sub | mul | shl | shr | band | bor | bxor | minimum | maximum
  | cmpEq | cmpNe | cmpLt | cmpLe | reserved
deriving DecidableEq, Repr

/-- Vector floating operations (class 2; Table 4-5 names fused multiply-add, min, max and compare to p; R174
names addition, subtraction, multiplication and division by its examples). -/
inductive VFloatOp where
  | add | sub | mul | div | fma | minimum | maximum | cmpEq | cmpNe | cmpLt | cmpLe | reserved
deriving DecidableEq, Repr

/-- Special functions (Table 6-6). -/
inductive SfuOp where
  | rcp | sqrt | rsqrt | exp2 | log2 | sin | cos | reserved
deriving DecidableEq, Repr

/-- Shuffle operations (Table 4-7). -/
inductive ShflOp where
  | idx | up | down | xor | bcast | reserved
deriving DecidableEq, Repr

/-- Vote operations (Table 4-8). -/
inductive VoteOp where
  | all | any | ballot | count | first | matchMask | reserved
deriving DecidableEq, Repr

/-- Atomic operations in the OP order of Table 4-10. -/
inductive AtomOp where
  | add | smin | smax | umin | umax | band | bor | bxor | exch | cas | fadd | reserved
deriving DecidableEq, Repr

/-- One lane's atomic operation on a word of a granule: byte offset, width in bytes, operands B and C. -/
structure AtomLane where
  op : AtomOp
  off : Nat
  width : Nat
  b : Word
  c : Word
deriving DecidableEq, Repr

/-- The requester of a stack access, as the agent kind and index of Table 11-11, with the ring and position of the
command it works for, when there is one. -/
structure MemReq where
  kind : Nat
  index : Nat
  cmd : Option (Nat × Nat)
deriving DecidableEq, Repr

/-- What a time beacon says (Table 14-3). -/
structure Beacon where
  txTime : Nat
  txFrac : Nat
  rxTime : Option Nat
  rxFrac : Nat
  dealer : Word
  depth : Nat
  noTime : Bool
  node : Nat
  nodeValid : Bool
deriving DecidableEq, Repr

/-- A beacon frame that arrives: its payload of 768 bytes, and how many later beacons of this module the partner had not yet answered, of those
sent since the one whose arrival it answers: 0 on a link whose round trip stays below 1 us (notes/assumptions/19). -/
structure BeaconFrame where
  body : Bytes
  behind : Nat := 0
deriving DecidableEq, Repr

/-- What a TABLE_CTL packet says (Table 14-5: join, start, loss, leave; R59, R68). A join carries the values the root
compares. -/
inductive TableMsg where
  | join (index members waitLimit firstDeal policy period anchor : Nat)
  | start
  | loss (status : Nat)
  | leave
deriving DecidableEq, Repr

/-- A combined arrival marker (R63): members arrived on time, members late, and the lowest six late indices; `isLate`
tells a LATE marker forwarded at once, with its cause bits (Table 2-6), from a whole subtree's arrival. -/
structure MarkerMsg where
  step : Nat
  arrived : Nat
  lateCount : Nat
  lateIdx : List Nat
  isLate : Bool
  cause : Nat
deriving DecidableEq, Repr

/-- A step record as the root sends it down the tree (R64, Table 2-8). -/
structure StepRec where
  step : Nat
  deal : Nat
  doneTime : Nat
  arrived : Nat
  lateCount : Nat
  lateIdx : List Nat
  status : Nat
  slipped : Bool
deriving DecidableEq, Repr

/-- The Tilus packet header fields that a receiving module acts on (Table 14-4), with its data units. -/
structure TPacket where
  vc : Nat
  last : Bool
  masked : Bool
  op : Nat
  hops : Nat
  dest : Nat
  src : Nat
  window : Nat
  offset : Nat
  tag : Nat
  flow : Nat
  info : Nat
  data : Bytes
  pooled : Bool := false
deriving DecidableEq, Repr

/-- What a node core does in the physical space (R262, R265); FENCE.I orders its fetches after its stores. -/
inductive CoreOp where
  | load (addr size : Nat)
  | fetch (addr size : Nat)
  | store (addr size : Nat) (val : Word)
  | amo (addr size : Nat) (op : AtomOp) (val : Word)
  | fenceI
  | lr (addr size : Nat)
  | sc (addr size : Nat) (val : Word)
  | rdtime
  | mhartid
deriving DecidableEq, Repr

/-- Test access instructions act on one device of the chain: a hub or a compute die (R478). -/
inductive TapDev where
  | hub (h : Nat)
  | die (n : Nat)
deriving DecidableEq, Repr

/-- A dword of a function's configuration space: dword `n` of the type 0 header, the low or high dword of the serial number in the Device Serial
Number capability, the capability and the control register of the Resizable BAR, the control and status register of Power Management, or dword
`n` of the rest of the space, whose places Table 12-3 does not give. -/
inductive CfgReg where
  | header (n : Nat)
  | serial (high : Bool)
  | rebarSizes
  | rebarControl
  | power
  | other (n : Nat)
deriving DecidableEq, Repr

/-- A configuration request: its port and the dword. -/
structure CfgRead where
  port : Nat
  reg : CfgReg
  /-- the value that a configuration write carries -/
  write : Option Nat := none
deriving DecidableEq, Repr

/-- ID_PART and ID_SERIAL of a peer, as read at one place. -/
structure PeerIdent where
  part : Word
  serial : Word
  /-- a read failed: Unsupported Request, Completer Abort, or a poisoned completion -/
  failed : Bool := false
deriving DecidableEq, Repr

/-- A Corox flit as it was sent, and the bits that the link disturbed. -/
structure SentFlit where
  sent : Bytes
  errs : List Nat
deriving DecidableEq, Repr

/-- What a guest answers to a training attempt (R351): whether it trains in Corox native mode, the width code that the working lanes from the
hub to it then allow (Table 13-1; 0 none), and the UCIe rates it supports (bit 0: 16 GT/s, bit 1: 32 GT/s). -/
structure GuestOffer where
  native : Bool
  width : Nat
  rates : Nat
deriving DecidableEq, Repr

/-- A Tilus frame after the lane code, and how many codewords of that code were corrected on the way (R383). -/
structure RecvFrame where
  fixed : Nat
  bytes : Bytes
deriving DecidableEq, Repr

/-- The commands: one constructor for each row of spec/opcode_table.json, in the table's order. -/
inductive Instr where
  -- register writes
  | registerWrite (who : Who) (off size : Nat) (val : Word)
  | ringEnable (who : Who) (ring : Nat) (val : Word)
  | ringDisable (who : Who) (ring : Nat) (val : Word)
  | ringResume (who : Who) (ring : Nat) (val : Word)
  | ringDiscard (who : Who) (ring : Nat) (val : Word)
  | dealerRoleSet (who : Who) (val : Word)
  | dealerRoleClear (who : Who) (val : Word)
  | timeDealerSet (who : Who) (val : Word)
  | clrEnable (who : Who) (stack : Nat) (val : Word)
  | clrDisable (who : Who) (stack : Nat) (val : Word)
  | memPmapWrite (who : Who) (part : Nat) (val : Word)
  | memRetrain (who : Who) (stack : Nat) (val : Word)
  | memPeakClr (who : Who) (stack : Nat) (val : Word)
  | faultQueueEnable (who : Who) (queue : Nat) (val : Word)
  | svcQueueEnable (who : Who) (die : Nat) (val : Word)
  | svcReplyRetry (who : Who) (die : Nat) (val : Word)
  | svcReplyFault (who : Who) (die : Nat) (val : Word)
  | svcConsWrite (who : Who) (die : Nat) (val : Word)
  | peerEnable (who : Who) (port peer : Nat) (val : Word)
  | peerDisable (who : Who) (port peer : Nat) (val : Word)
  | chkClear (who : Who) (hub unit : Nat) (val : Word)
  | coroxRetrain (who : Who) (lend : Nat) (val : Word)
  | coroxDisableSet (who : Who) (lend : Nat) (val : Word)
  | coroxDisableClear (who : Who) (lend : Nat) (val : Word)
  | tlsNodeWrite (who : Who) (val : Word)
  | tilusPortEnable (who : Who) (port : Nat) (val : Word)
  | napEnter (who : Who) (part : Nat) (val : Word)
  | napExit (who : Who) (part : Nat) (val : Word)
  -- ring commands: the start of an accepted command
  | nop (ring pos : Nat)
  | fence (ring pos : Nat)
  | signal (ring pos : Nat)
  | waitFlag (ring pos : Nat)
  | waitTime (ring pos : Nat)
  | launch (ring pos : Nat)
  | launchAt (ring pos : Nat)
  | copy (ring pos : Nat)
  | copyInline (ring pos : Nat)
  | fill (ring pos : Nat)
  | copyStrided (ring pos : Nat)
  | caskAlloc (ring pos : Nat)
  | caskRack (ring pos : Nat)
  | caskFree (ring pos : Nat)
  | caskMove (ring pos : Nat)
  | tap (ring pos : Nat)
  | xlatePrime (ring pos : Nat)
  | xlateInval (ring pos : Nat)
  | windowSet (ring pos : Nat)
  | checkBind (ring pos : Nat)
  | counterSet (ring pos : Nat)
  | counterSnap (ring pos : Nat)
  | dealSet (ring pos : Nat)
  | slotReserve (ring pos : Nat)
  | tableJoin (ring pos : Nat)
  | modeSet (ring pos : Nat)
  | pwrLimit (ring pos : Nat)
  | partitionSet (ring pos : Nat)
  | keyInstall (ring pos : Nat)
  | keyRetire (ring pos : Nat)
  | domainReset (ring pos : Nat)
  | firewallSet (ring pos : Nat)
  | guestAdmit (ring pos : Nat)
  | attest (ring pos : Nat)
  | bootRelease (ring pos : Nat)
  -- ring processing
  | ringScan (ring dt : Nat)
  | producerRead (ring dt : Nat)
  | packetFetch (ring dt : Nat)
  | tallyAck (ring pos dt : Nat)
  | commandFinish (ring pos dt : Nat)
  | recordDeliver (ring dt : Nat)
  | waitFlagPoll (ring pos dt : Nat)
  | waitFlagTimeout (ring pos dt : Nat)
  | waitTimeResume (ring pos dt : Nat)
  -- kernel instructions: issued by group `g`
  | scalarArithmetic (g : Nat) (op : ScalarOp) (w : IWord)
  | branch (g : Nat) (w : IWord)
  | jumpIndirect (g : Nat) (w : IWord)
  | endInstr (g : Nat) (w : IWord)
  | vectorInteger (g : Nat) (op : VIntOp) (w : IWord)
  | vectorFloating (g : Nat) (op : VFloatOp) (w : IWord)
  | specialFunction (g : Nat) (op : SfuOp) (w : IWord)
  | cvt (g : Nat) (op : Nat) (w : IWord)
  | shfl (g : Nat) (op : ShflOp) (w : IWord)
  | vote (g : Nat) (op : VoteOp) (w : IWord)
  | ld (g : Nat) (width : Nat) (w : IWord)
  | st (g : Nat) (width : Nat) (w : IWord)
  | lds (g : Nat) (width : Nat) (w : IWord)
  | sts (g : Nat) (width : Nat) (w : IWord)
  | atom (g : Nat) (op : AtomOp) (width : Nat) (w : IWord)
  | atoms (g : Nat) (op : AtomOp) (width : Nat) (w : IWord)
  | mma (g : Nat) (w : IWord)
  | mld (g : Nat) (w : IWord)
  | mst (g : Nat) (w : IWord)
  | bar (g : Nat) (w : IWord)
  | barRelease (kernel team : Nat)
  | membar (g : Nat) (w : IWord)
  | trap (g : Nat) (w : IWord)
  | timerd (g : Nat) (w : IWord)
  | laneid (g : Nat) (w : IWord)
  | unitid (g : Nat) (w : IWord)
  | counterRead (g : Nat) (w : IWord)
  | sectorDelivery (slice line sector : Nat)
  | forcedYield (g : Nat)
  | stalemate (g : Nat)
  -- kernels
  | kernelStart (kernel dt : Nat)
  | teamDispatch (kernel dt : Nat)
  | kernelEnd (kernel dt : Nat)
  | kernelFault (kernel dt : Nat)
  | kernelTimeLimit (kernel dt : Nat)
  | launchAtRelease (ring pos dt : Nat)
  | epochApply (unit dt : Nat)
  -- time
  | beaconSend (hub dt : Nat)
  | beaconReceive (port : Nat) (f : BeaconFrame) (dt : Nat)
  | beaconTimeout (port dt : Nat)
  | holdoverExpiry (dt : Nat)
  -- tables
  | tableCtl (part tableId : Nat) (src : Nat) (m : TableMsg) (dt : Nat)
  | tableJoinDeadline (part tableId dt : Nat)
  | stepEvaluate (part tableId dt : Nat)
  | readyReread (part tableId dt : Nat)
  | marker (part tableId src : Nat) (m : MarkerMsg) (dt : Nat)
  | stepWaitLimit (part tableId dt : Nat)
  | record (part tableId : Nat) (r : StepRec) (dt : Nat)
  -- cellar
  | caskTake (ring pos : Nat)
  | pinsZero (ring pos : Nat)
  | clrFormatDone (stack dt : Nat)
  | clrRegionDrop (stack : Nat)
  -- taps
  | tapResolve (ring pos : Nat)
  | tapPassDispatch (ring pos stack : Nat)
  | tapPassStart (stack : Nat)
  | tapPassEnd (stack : Nat)
  -- stacks
  | bulkRead (req : MemReq) (stack off : Nat)
  | bulkWrite (req : MemReq) (stack off : Nat) (data : Bytes)
  | narrowRead (req : MemReq) (stack off len : Nat)
  | narrowWrite (req : MemReq) (stack off : Nat) (data : Bytes)
  | scrubRead (stack off : Nat)
  | refresh (stack channel bank dt : Nat)
  | stackTempSample (stack temp hotDie dt : Nat)
  | memLaneStuck (stack channel lane : Nat)
  | memRetrainWindow (stack dt : Nat)
  | memWindowEnd (stack dt : Nat)
  -- coherence
  | readShared (agent gran : Nat)
  | readOwn (agent gran : Nat) (full : Bool)
  | upgrade (agent gran : Nat)
  | noAllocRead (req : Nat) (gran : Nat)
  | writeInv (req : Nat) (gran : Nat) (mask : Word) (data : Bytes)
  | atomic (req : Nat) (gran : Nat) (lanes : List AtomLane)
  | writeBack (agent gran : Nat)
  | evictClean (agent gran : Nat)
  | fwdShared (owner req gran : Nat)
  | fwdOwn (owner req gran : Nat)
  | fwdSnoop (owner req gran : Nat)
  | inv (agent gran : Nat)
  | recall (agent gran : Nat)
  | data (agent gran grant : Nat) (bytes : Bytes)
  | invAck (agent gran : Nat)
  | wbAck (agent gran : Nat) (superseded : Bool)
  | done (req gran : Nat)
  | nak (agent gran : Nat)
  | nakRetry (agent gran dt : Nat)
  -- translation
  | translationWalk (cache part asid : Nat) (va : Word) (access : Nat)
  | svcTimeout (die tag dt : Nat)
  | faultWaitExpiry (ring pos dt : Nat)
  | translationInv (ring pos cache : Nat)
  | translationAck (ring pos : Nat)
  | faultQueuePoll (queue dt : Nat)
  -- remote windows
  | wRead (hub : Nat) (p : TPacket)
  | wWrite (hub : Nat) (p : TPacket)
  | wAtomic (hub : Nat) (p : TPacket)
  | wData (hub : Nat) (p : TPacket)
  | wDone (hub : Nat) (p : TPacket)
  | wDeny (hub : Nat) (p : TPacket)
  | routeFail (hub : Nat) (p : TPacket)
  | remoteTimeout (hub tag dt : Nat)
  -- PCIe
  | inboundRead (port rid bar off len : Nat)
  | inboundWrite (port rid bar off : Nat) (data : Bytes) (poisoned : Bool)
  | configRequest (request : CfgRead)
  | pcieLinkDown (port : Nat)
  | pcieHotReset (port : Nat)
  | pcieFlr (port : Nat)
  | busMasterEnableCleared (port : Nat)
  | busMasterEnableSet (port : Nat)
  | pcieRetrain (port : Nat)
  | perstDeassert (port : Nat)
  | pcieCompletion (port tag addr : Nat) (data : Bytes)
  | completionTimeout (port ring pos dt : Nat)
  | completionUr (port ring pos : Nat)
  | completionCa (port ring pos : Nat)
  | poisonedCompletion (port ring pos : Nat)
  | peerVerifyDone (port peer : Nat) (first second : PeerIdent)
  | peerVerifyTimeout (port peer dt : Nat)
  | copyEngineStart (engine : Nat)
  | copySpan (engine : Nat)
  | checkMessage (hub unit kind key tag : Nat)
  -- Corox
  | flit (lend : Nat) (f : SentFlit)
  | coroxForcedWindow (lend : Nat)
  | coroxModuleFail (lend dt : Nat)
  | transactionMemoryExpiry (dt : Nat)
  | coroxLaneStuck (lend lane : Nat)
  | coroxWindow (lend dt : Nat)
  | coroxWindowEnd (lend dt : Nat)
  -- guests
  | gRead (site : Nat) (b : Bytes)
  | gWrite (site : Nat) (b : Bytes)
  | gAtomic (site : Nat) (b : Bytes)
  | guestTrainRetry (site : Nat) (g : GuestOffer) (dt : Nat)
  | guestIdentity (site : Nat) (lo hi : Word)
  | guestLinkDown (site : Nat)
  | guestExpelDone (site : Nat)
  -- Tilus
  | tilusFrame (port : Nat) (f : RecvFrame)
  | tilusTransit (hub : Nat) (p : TPacket)
  | tilusRetrain (port : Nat)
  | tilusRetrainEnd (port dt : Nat)
  | tilusRetrainTimeout (port dt : Nat)
  | tilusPortTrain (port lanesUp dt : Nat)
  | tilusPortLost (port dt : Nat)
  | tilusPortFail (port : Nat)
  | reservedSlotOpen (port res dt : Nat)
  | reservedSlotClose (port res dt : Nat)
  | prioInterval (port dt : Nat)
  -- power
  | powerWindow (dt : Nat)
  | regulatorAlertAssert (input dt : Nat)
  | regulatorAlertRelease (input : Nat)
  | alertHoldExpiry (input dt : Nat)
  | droopDetect (die : Nat)
  | droopClear (die : Nat)
  | stretchEnd (die dt : Nat)
  | stepHoldExpiry (die dt : Nat)
  | pstateStep (die dt : Nat)
  | dieTempSample (dev : TapDev) (temp dt : Nat)
  | dieIdleEntry (die : Nat)
  | napEntryDone (part dt : Nat)
  | napExitDone (part dt : Nat)
  | napStackIdle (stack dt : Nat)
  | coolOkDeassert
  | coolOkAssert
  | coolStopTimeout (dt : Nat)
  -- start-up and reset
  | powerGood (dt : Nat)
  | coolQualified (dt : Nat)
  | hubTestDone (hubsPass : Nat) (keeperOk : Bool) (dt : Nat)
  | trainDone (diesPass guests : Nat) (memLanes crxLanes : List (Nat × Nat)) (dt : Nat)
  | clearDone (dt : Nat)
  | mresetNAssert (dt : Nat)
  | railFault (rail dt : Nat)
  | refclkLoss (dt : Nat)
  | refclkReturn (dt : Nat)
  | hubResetDone (hub : Nat) (pass : Bool) (dt : Nat)
  | heartbeatSend (dt : Nat)
  | heartbeatTimeout (dev : TapDev) (dt : Nat)
  | hubFail (hub : Nat)
  | dieFail (die : Nat)
  | stackFail (stack : Nat)
  | tallyCopyDone (hub : Nat) (dt : Nat)
  | keeperCommitDone (dt : Nat)
  | signatureDone (hub dt : Nat)
  -- counters
  | counterAction (ring pos dt : Nat)
  | counterLatch (ring pos dt : Nat)
  | counterWrap (counter : Nat) (add : Nat)
  -- management and test ports
  | read64 (off : Nat)
  | moduleReset
  | getstatus
  | bypass (dev : TapDev)
  | idcode (dev : TapDev)
  | samplePreload (dev : TapDev) (preload : Option (List Bool))
  | extest (dev : TapDev)
  | clamp (dev : TapDev)
  | auxiliaryPowerApplied
  | vauxLoss
  | nodeCoreAccess (core : Nat) (op : CoreOp)
  | pcieLinkUp (port speed width : Nat) (flitMode : Bool)
  | tilusPortDisable (who : Who) (port : Nat) (val : Word)
  | conflictExpiry (dt : Nat)
  | tableAckTimeout (part tableId neighbour dt : Nat)
  | entdaa (addr : Nat)
  | setdasa (staticAddr addr : Nat)
  | reservedOpcode (ring pos : Nat)
  | reservedClass (g : Nat) (cls : Nat)
deriving DecidableEq, Repr

end Sys2Proof
end

