-- ==== Sys2Proof/Decode.lean ====
section
/-!
DEFINITION. Decoding of table words. No row of spec/opcode_table.json gives bits: the block takes commands, not words, and the opcodes of
ring packets (Table 3-2) are read from packets in memory by the ring commands themselves.
-/

namespace Sys2Proof

/-- The command that a table word spells: none, since no row of the table has a word. -/
def decodeTableWord (_nbits _w : Nat) : Option Instr := none

end Sys2Proof
end

