-- ==== Sys2Proof/Config.lean ====
section
/-!
DEFINITION. What the spec leaves open, as constants without a body: no proof can learn a value of them. `State.free` counts how many
free values have been taken; a meaning that needs one applies `freeBits` to that count and advances it (notes/assumptions/3).
-/

namespace Sys2Proof.Config

/-- The n-th free value: bits that the spec does not fix. -/
opaque freeBits : Nat → BitVec 64

/-- The generation-specific, fixed hash of source, destination and flow that chooses a port (R371). -/
opaque routeHash : Nat → Nat → Nat → Nat

/-- The hash of a stack offset that gives a directory set (R274: "a hash of the stack offset, like that of R263"). -/
opaque dirHash : Nat → Nat

/-- The set of a translation cache (cache, address space, page) that holds a translation (Table 11-3 gives the organisation alone). -/
opaque tlbSet : Nat → Nat → Nat → Nat

/-- Byte `i` of the identity signature made with leaf `n` over the given report bytes (R447, R448): its seeds never leave the keeper. -/
opaque identitySig : Nat → Bytes → Nat → Byte

/-- The fixed scrambled pattern, the self tests and the other parts of a device whose outcome the spec leaves to the part: the
boundary-scan cells of a device when sampled (R478). -/
opaque pinSample : Nat → Nat → Bool

/-- Whether an unreplaced flagged or carried lane (key) reads wrong bits in a codeword, at the n-th free value (R256, R259). -/
opaque laneWrong : Nat → Nat → Nat → Bool

/-- The wrong data that a codeword of three or more bad symbols is corrected to, in the rare case R249 names; `none`: reported
uncorrectable. -/
opaque miscorrect : Nat → Nat → Option Bytes

/-- The result of a shift by the width or more, which the spec does not state: the kind of shift (0 left, 1 right with zeros, 2 right with
the sign), the format and the two operands. One value for given inputs (R188). -/
opaque wideShift : Nat → Nat → Nat → Nat → Nat

end Sys2Proof.Config
end

