-- ==== Sys2Proof/Machine/RegMap.lean ====
section
/-!
DEFINITION. The register map of control space: every register of the manual's register tables, where it lies (R309), and every
field of its field maps with bits, access type (R6) and reset value. A field whose Reset column says "fuse" or "hw" has here
the value the model gives it before the part itself sets it.
-/

namespace Sys2Proof.Machine

/-- The registers, each under the manual's name without its index letters. -/
inductive Reg where
  | ID_PART | ID_SERIAL | ID_PRESENT | ID_DIE_STEP | ID_HUB_STEP | ID_CONTRACT | ID_CAP_UNIT | ID_CAP_TILE
  | ID_CAP_MEM | ID_CAP_PORT | ID_FEAT | ID_DIE_FEAT | ID_PART_MAP | ID_PART_VALID | ID_PART_HUB | ID_DIST_GEN
  | TIME_NOW | TIME_STATUS | TIME_CTRL | TIME_DEALER_SET | TIME_OFFSET | TIME_HOLD | TIME_EVENTS | TIME_PORT
  | TIME_ASYM | TIME_EPOCH | RING_HUB | RING_CTRL | RING_BASE | RING_PROD | RING_CONS | RING_CPL | RING_STATUS
  | RING_ACCEPT | RING_DONE | CLR_CTRL | CLR_BASE | CLR_COUNT | CLR_STATUS | CLR_USE | CLR_EVENTS | CLR_FIRST
  | TAP_CTRL | TAP_STATUS | TAP_PASSES | TAP_BYTES | TAP_EVENTS | TAP_CAP | MEM_CTRL | MEM_STATUS | MEM_THERM
  | MEM_ERR | MEM_LANESEL | MEM_LANE | MEM_RETIRED | MEM_CHAN | MEM_PMAP | XL_AST | XL_FQ_BASE | XL_FQ_CTRL
  | XL_FQ_WORDS | XL_FQ_STATUS | XL_SVC_BASE | XL_SVC_CTRL | XL_SVC_PROD | XL_SVC_CONS | XL_SVC_REPLY | XL_SVC_STATUS
  | XL_TC_STATS | PCI_LINK | PCI_HOST | PCI_APER | PCI_EVENTS | PCI_INBOUND | PCI_LOST | PCI_CPY | PCI_PEER
  | PCI_PEER_BAR0 | PCI_PEER_SERIAL | PCI_PEER_WIN | CHK_BIND | CHK_MSGS | CHK_SEQ | CHK_LAST | CHK_CRC | CHK_CTRL
  | CRX_CTRL | CRX_STATUS | CRX_ERR | CRX_LANESEL | CRX_LANE | CRX_GSTAT | CRX_GID_LO | CRX_GID_HI | CRX_GDENY
  | CRX_GLAST | CRX_GRULE_BASE | CRX_GRULE_SIZE | TLS_NODE | TLS_CTRL | TLS_STATUS | TLS_PCTRL | TLS_PSTAT | TLS_PERR
  | TLS_PFRAME | TLS_PRESV | TLS_RES | TLS_RES_FLOW | TLS_GROUTE | TLS_LROUTE | PWR_CAP | PWR_MODULE | PWR_CLASS
  | PWR_STATUS | PWR_HUB | PWR_IDLE | PWR_DIE | PWR_DIE_EVT | PWR_STRETCH | PWR_TEMP | PWR_FUSE | PWR_STACK
  | RST_STATUS | RST_FAILED | RST_COUNTS | RST_HUB | RST_PART | RST_DIE | SEC_STATUS | SEC_EVENTS | SEC_XMSS_IDX
  | SEC_IDPK | SEC_ROOT | SEC_SLOT | SEC_SLOT_CTR | SEC_BOOT | SEC_BOOTMIN | CTR_USEL | CTR_SEL | CTR_VAL | CTR_UVAL
  | CTR_STATUS
deriving DecidableEq, Repr

/-- Every field that is not reserved, as `<register>_<field>`. -/
inductive Fld where
  | ID_PART_CODE | ID_PART_MODREV | ID_SERIAL_SERIAL | ID_PRESENT_DIES | ID_PRESENT_HUBS | ID_PRESENT_GUESTS
  | ID_DIE_STEP_STEP | ID_HUB_STEP_STEP | ID_CONTRACT_LEVEL | ID_CAP_UNIT_UNITS | ID_CAP_UNIT_GROUP
  | ID_CAP_UNIT_LANES | ID_CAP_UNIT_ISSUE | ID_CAP_UNIT_PER_CLUSTER | ID_CAP_UNIT_PER_REGION | ID_CAP_UNIT_PER_DIE
  | ID_CAP_TILE_M | ID_CAP_TILE_N | ID_CAP_TILE_K64 | ID_CAP_TILE_K32 | ID_CAP_TILE_K16 | ID_CAP_TILE_K8
  | ID_CAP_TILE_K4 | ID_CAP_TILE_FORMATS | ID_CAP_MEM_STACKS | ID_CAP_MEM_CHANNELS | ID_CAP_MEM_STACK_GIB
  | ID_CAP_MEM_TAPS | ID_CAP_MEM_CASK_KIB | ID_CAP_PORT_TILUS | ID_CAP_PORT_PCIE | ID_CAP_PORT_CORES
  | ID_CAP_PORT_COPY_PER_HUB | ID_CAP_PORT_GUEST_SITES | ID_FEAT_FEAT | ID_DIE_FEAT_FEAT | ID_PART_MAP_PART
  | ID_PART_VALID_DIES | ID_PART_HUB_PRIMARY | ID_PART_HUB_SECONDARY | ID_PART_HUB_ACTING | ID_PART_HUB_VALID
  | ID_DIST_GEN_GEN | TIME_NOW_NOW | TIME_STATUS_STATE | TIME_STATUS_ACTING | TIME_STATUS_UPPORT | TIME_STATUS_DEPTH
  | TIME_STATUS_CONFLICT | TIME_STATUS_DEALER | TIME_CTRL_ROLE | TIME_CTRL_BEACON_EN | TIME_CTRL_SLEW_ONLY
  | TIME_DEALER_SET_TIME | TIME_OFFSET_OFFSET | TIME_HOLD_HOLD_MS | TIME_EVENTS_STEPS | TIME_EVENTS_REPARENTS
  | TIME_EVENTS_LOSSES | TIME_EVENTS_CONFLICTS | TIME_PORT_DELAY | TIME_PORT_VALID | TIME_PORT_LOST
  | TIME_PORT_PDEPTH | TIME_ASYM_ASYM | TIME_EPOCH_EPOCH | TIME_EPOCH_MODE | RING_HUB_TALLY_USED
  | RING_HUB_TALLY_FULL | RING_CTRL_ENABLE | RING_CTRL_RESUME | RING_CTRL_DISCARD | RING_CTRL_LOC
  | RING_CTRL_SLOTS_LOG2 | RING_CTRL_SCAN | RING_CTRL_SCHEDULE | RING_CTRL_MODULE | RING_CTRL_PART | RING_CTRL_GAP
  | RING_CTRL_ASID | RING_BASE_ADDR | RING_PROD_ADDR | RING_CONS_ADDR | RING_CPL_ADDR | RING_STATUS_DRAINED
  | RING_STATUS_HOST_STOPPED | RING_STATUS_CFG_ERR | RING_STATUS_PROD_ERR | RING_STATUS_TALLY_WAIT | RING_STATUS_OPEN
  | RING_STATUS_SCANS | RING_ACCEPT_POS | RING_DONE_POS | CLR_CTRL_ENABLE | CLR_BASE_ADDR | CLR_COUNT_CASKS
  | CLR_STATUS_READY | CLR_STATUS_CFG_ERR | CLR_STATUS_FORMATTING | CLR_STATUS_FREE | CLR_USE_ALLOCATED
  | CLR_USE_RETIRED | CLR_EVENTS_ALLOCS | CLR_EVENTS_FREES | CLR_EVENTS_MOVES_IN | CLR_EVENTS_HOLD_WAITS
  | CLR_FIRST_FIRST | TAP_CTRL_SHARE | TAP_STATUS_BUSY | TAP_STATUS_QUEUED | TAP_PASSES_PASSES | TAP_PASSES_CASKS
  | TAP_BYTES_BYTES | TAP_EVENTS_HOLD_RESTARTS | TAP_EVENTS_UNCORRECTABLE | TAP_EVENTS_QUEUE_FULL
  | TAP_CAP_ROWS_PER_PASS | TAP_CAP_MAX_TOPK | TAP_CAP_MAX_ROWS | TAP_CAP_MAC8 | TAP_CAP_MAC16 | MEM_CTRL_RETRAIN
  | MEM_CTRL_WIN_SCHED | MEM_CTRL_SCHEDULE | MEM_CTRL_LANE_LIMIT | MEM_CTRL_SCRUB_EN | MEM_CTRL_SCRUB_HOURS
  | MEM_CTRL_PEAK_CLR | MEM_STATUS_TRAINED | MEM_STATUS_PENDING | MEM_STATUS_WINDOW | MEM_STATUS_SELF_REFRESH
  | MEM_STATUS_RATE | MEM_STATUS_THROTTLED | MEM_STATUS_STOPPED | MEM_STATUS_CONTENTS_LOST | MEM_STATUS_WINDOWS
  | MEM_THERM_TEMP | MEM_THERM_PEAK | MEM_THERM_HOT_DIE | MEM_ERR_CORRECTED | MEM_ERR_UNCORRECTABLE
  | MEM_ERR_SCRUB_FIXED | MEM_LANESEL_CHANNEL | MEM_LANESEL_LANE | MEM_LANE_ERRORS | MEM_LANE_FLAGGED
  | MEM_LANE_SPARED | MEM_LANE_CARRIED | MEM_LANE_SPARE | MEM_LANE_SPARE_IN_USE | MEM_RETIRED_CHANNELS
  | MEM_CHAN_SPARES_USED | MEM_CHAN_CARRIED | MEM_CHAN_RETIRED | MEM_CHAN_CORRECTED | MEM_PMAP_DI_GIB
  | MEM_PMAP_MI_GIB | MEM_PMAP_CFG_ERR | XL_AST_LOG2 | XL_AST_ENABLE | XL_AST_BASE | XL_FQ_BASE_ADDR
  | XL_FQ_CTRL_ENABLE | XL_FQ_CTRL_LOC | XL_FQ_CTRL_SIZE_LOG2 | XL_FQ_CTRL_WAIT_US | XL_FQ_WORDS_ADDR
  | XL_FQ_STATUS_PROD | XL_FQ_STATUS_FULL | XL_FQ_STATUS_CFG_ERR | XL_FQ_STATUS_CONS_ERR | XL_FQ_STATUS_PENDING
  | XL_FQ_STATUS_ACCESS_ERR | XL_FQ_STATUS_STALLS | XL_SVC_BASE_ADDR | XL_SVC_CTRL_ENABLE | XL_SVC_CTRL_SIZE_LOG2
  | XL_SVC_CTRL_LIMIT_US | XL_SVC_PROD_PROD | XL_SVC_CONS_CONS | XL_SVC_REPLY_TAG | XL_SVC_REPLY_ACTION
  | XL_SVC_STATUS_OPEN | XL_SVC_STATUS_FULL | XL_SVC_STATUS_CFG_ERR | XL_SVC_STATUS_CONS_ERR | XL_SVC_STATUS_TIMEOUTS
  | XL_SVC_STATUS_BAD_REPLY | XL_TC_STATS_MISSES | XL_TC_STATS_INVALS | XL_TC_STATS_DISCARDS | PCI_LINK_UP
  | PCI_LINK_SPEED | PCI_LINK_WIDTH | PCI_LINK_FLIT | PCI_LINK_BME | PCI_LINK_STOPPED | PCI_HOST_RID
  | PCI_HOST_RID_MASK | PCI_APER_BASE | PCI_EVENTS_RETRAINS | PCI_EVENTS_LINK_DOWNS | PCI_EVENTS_HOT_RESETS
  | PCI_EVENTS_FLRS | PCI_INBOUND_UR | PCI_INBOUND_HOLES | PCI_INBOUND_CELLAR | PCI_INBOUND_UNCORRECTABLE
  | PCI_LOST_COMMANDS | PCI_CPY_BUSY | PCI_CPY_QUEUED | PCI_CPY_COMMANDS | PCI_PEER_RID | PCI_PEER_ENABLE
  | PCI_PEER_READ | PCI_PEER_WRITE | PCI_PEER_STATE | PCI_PEER_BAR0_ADDR | PCI_PEER_SERIAL_SERIAL
  | PCI_PEER_WIN_BASE_GIB | PCI_PEER_WIN_SIZE_GIB | CHK_BIND_BOUND | CHK_BIND_KIND | CHK_BIND_CRC64 | CHK_BIND_PART
  | CHK_BIND_MODULE | CHK_BIND_SOURCE | CHK_MSGS_MESSAGES | CHK_MSGS_CRC_BAD | CHK_MSGS_SHORT | CHK_MSGS_LOST_ENTRIES
  | CHK_SEQ_SKIPS | CHK_SEQ_REPEATS | CHK_SEQ_NOT_SEEN | CHK_LAST_LAST | CHK_CRC_CRC | CHK_CTRL_CLEAR
  | CRX_CTRL_RETRAIN | CRX_CTRL_WIN_SCHED | CRX_CTRL_SCHEDULE | CRX_CTRL_LANE_LIMIT | CRX_CTRL_DISABLE
  | CRX_STATUS_STATE | CRX_STATUS_WIDTH_TX | CRX_STATUS_WIDTH_RX | CRX_STATUS_SPARES_RX | CRX_STATUS_PENDING
  | CRX_STATUS_LINK | CRX_STATUS_WINDOWS | CRX_ERR_CRC_ERRORS | CRX_ERR_REPLAYS | CRX_ERR_FORCED | CRX_LANESEL_LANE
  | CRX_LANE_ERRORS | CRX_LANE_FLAGGED | CRX_LANE_SPARED | CRX_LANE_FAILED | CRX_LANE_SPARE | CRX_LANE_SPARE_IN_USE
  | CRX_GSTAT_STATE | CRX_GSTAT_OUTSTANDING | CRX_GSTAT_MAX_OUT | CRX_GSTAT_RATE | CRX_GID_LO_ID | CRX_GID_HI_ID
  | CRX_GDENY_DENIED | CRX_GDENY_LAST_REASON | CRX_GLAST_ADDR | CRX_GRULE_BASE_BASE | CRX_GRULE_SIZE_VALID
  | CRX_GRULE_SIZE_RIGHTS | CRX_GRULE_SIZE_PART | CRX_GRULE_SIZE_SIZE | TLS_NODE_NODE | TLS_NODE_VALID
  | TLS_CTRL_HOPS | TLS_CTRL_REMOTE_US | TLS_STATUS_CFG_ERR | TLS_STATUS_DUP_NODE | TLS_STATUS_ROUTE_FAILS
  | TLS_STATUS_LATE_RESP | TLS_PCTRL_ENABLE | TLS_PSTAT_STATE | TLS_PSTAT_WIDTH | TLS_PSTAT_PARTNER_VALID
  | TLS_PSTAT_PARTNER | TLS_PSTAT_LOSSES | TLS_PSTAT_RETRAINS | TLS_PERR_CRC_ERRORS | TLS_PERR_REPLAYS
  | TLS_PERR_FEC_FIXED | TLS_PFRAME_PRIO_FRAMES | TLS_PFRAME_RESV_OVER | TLS_PFRAME_RESV_MISS | TLS_PRESV_USED
  | TLS_PRESV_SUM_NS | TLS_RES_OFFSET_NS | TLS_RES_SLOT_NS | TLS_RES_FLOW_FLOW_ID | TLS_RES_FLOW_KIND
  | TLS_RES_FLOW_PART | TLS_RES_FLOW_SCHEDULE | TLS_RES_FLOW_VALID | TLS_GROUTE_MASK | TLS_LROUTE_MASK
  | PWR_CAP_MODULE_W | PWR_CAP_DIE_W | PWR_CAP_TRUMP | PWR_MODULE_EST_W | PWR_MODULE_AVG_W | PWR_MODULE_EFFECTIVE_W
  | PWR_CLASS_LINKS_W | PWR_CLASS_MEMORY_W | PWR_CLASS_COMPUTE_W | PWR_STATUS_COOL_OK | PWR_STATUS_COOL_LOST
  | PWR_STATUS_COOL_STOP | PWR_STATUS_ALERT_C | PWR_STATUS_ALERT_M | PWR_STATUS_ALERT_H | PWR_STATUS_GUARD
  | PWR_STATUS_GUARD_WINDOWS | PWR_STATUS_THROTTLE_MARKERS | PWR_HUB_EST_W | PWR_HUB_TEMP | PWR_HUB_PEAK
  | PWR_IDLE_LEVEL | PWR_IDLE_STATE | PWR_IDLE_CFG_ERR | PWR_DIE_EST_W | PWR_DIE_BUBBLE | PWR_DIE_PSTATE
  | PWR_DIE_REQ | PWR_DIE_FORCED | PWR_DIE_STRETCH | PWR_DIE_CAUSE | PWR_DIE_EVT_CAP_WINDOWS | PWR_DIE_EVT_DROOPS
  | PWR_DIE_EVT_FORCED_WINDOWS | PWR_DIE_EVT_HELD_STEPS | PWR_STRETCH_CYCLES | PWR_TEMP_TEMP | PWR_TEMP_PEAK
  | PWR_FUSE_VCORE_MV | PWR_FUSE_LEAK85_W | PWR_STACK_EST_DW | PWR_STACK_SLOTS | RST_STATUS_PHASE | RST_STATUS_CAUSE
  | RST_STATUS_HALT | RST_STATUS_START_MS | RST_FAILED_DIES | RST_FAILED_HUBS | RST_FAILED_STACKS
  | RST_COUNTS_PART_FAILED | RST_COUNTS_REPLAYED | RST_COUNTS_ABORTED | RST_COUNTS_TAKEOVERS | RST_HUB_STATE
  | RST_HUB_ACTING | RST_HUB_MIRROR | RST_PART_STATE | RST_PART_MIRRORED | RST_PART_MIRROR | RST_PART_RESETS
  | RST_PART_FAILED_DIES | RST_DIE_STATE | RST_DIE_CORES_HELD | RST_DIE_FAIL_CAUSE | SEC_STATUS_CLAIMED
  | SEC_STATUS_ROOT_SET | SEC_STATUS_KEEPER_OK | SEC_STATUS_KEEPER_WEAR | SEC_STATUS_CLAIMS | SEC_EVENTS_TAG_FAILS
  | SEC_EVENTS_COUNTER_FAILS | SEC_EVENTS_SLOT_FAILS | SEC_EVENTS_BOOT_FAILS | SEC_XMSS_IDX_NEXT
  | SEC_XMSS_IDX_EXHAUSTED | SEC_IDPK_PK | SEC_ROOT_HASH | SEC_SLOT_STATE | SEC_SLOT_RIGHTS | SEC_SLOT_SCOPE
  | SEC_SLOT_CTR_LAST | SEC_BOOT_STATE | SEC_BOOT_VERSION | SEC_BOOTMIN_MIN | CTR_USEL_SEL | CTR_SEL_SEL
  | CTR_USEL_ENABLE | CTR_SEL_ENABLE | CTR_USEL_WRAPPED | CTR_SEL_WRAPPED | CTR_USEL_CFG_ERR | CTR_SEL_CFG_ERR
  | CTR_VAL_VALUE | CTR_UVAL_VALUE | CTR_STATUS_SNAPS | CTR_STATUS_SETS
deriving DecidableEq, Repr

/-- Register field access types (Table 0-3). Reserved fields read zero and ignore writes, and are not listed. -/
inductive Access where
  | ro | rw | w1c | wo
deriving DecidableEq, Repr

/-- A field's place: register, lowest bit, width, access type, reset value, and, where the map writes one field for several
places of the word, how many places there are and how far apart. -/
structure FldInfo where
  reg : Reg
  lo : Nat
  width : Nat
  acc : Access
  rst : Nat
  reps : Nat
  stride : Nat
deriving DecidableEq, Repr

/-- The field maps (Tables 1-8, 2-11, 3-11, 7-12, 8-7, 9-9, 11-14, 12-15, 13-12, 14-11, 15-9, 16-10, 17-8, 18-6). -/
def Fld.info : Fld → FldInfo
  | .ID_PART_CODE => ⟨.ID_PART, 0, 32, .ro, 595506, 1, 0⟩
  | .ID_PART_MODREV => ⟨.ID_PART, 32, 16, .ro, 0, 1, 0⟩
  | .ID_SERIAL_SERIAL => ⟨.ID_SERIAL, 0, 64, .ro, 0, 1, 0⟩
  | .ID_PRESENT_DIES => ⟨.ID_PRESENT, 0, 16, .ro, 0, 1, 0⟩
  | .ID_PRESENT_HUBS => ⟨.ID_PRESENT, 16, 4, .ro, 0, 1, 0⟩
  | .ID_PRESENT_GUESTS => ⟨.ID_PRESENT, 20, 2, .ro, 0, 1, 0⟩
  | .ID_DIE_STEP_STEP => ⟨.ID_DIE_STEP, 0, 4, .ro, 0, 16, 4⟩
  | .ID_HUB_STEP_STEP => ⟨.ID_HUB_STEP, 0, 4, .ro, 0, 4, 4⟩
  | .ID_CONTRACT_LEVEL => ⟨.ID_CONTRACT, 0, 8, .ro, 1, 1, 0⟩
  | .ID_CAP_UNIT_UNITS => ⟨.ID_CAP_UNIT, 0, 16, .ro, 0, 1, 0⟩
  | .ID_CAP_UNIT_GROUP => ⟨.ID_CAP_UNIT, 16, 8, .ro, 64, 1, 0⟩
  | .ID_CAP_UNIT_LANES => ⟨.ID_CAP_UNIT, 24, 8, .ro, 16, 1, 0⟩
  | .ID_CAP_UNIT_ISSUE => ⟨.ID_CAP_UNIT, 32, 8, .ro, 4, 1, 0⟩
  | .ID_CAP_UNIT_PER_CLUSTER => ⟨.ID_CAP_UNIT, 40, 8, .ro, 4, 1, 0⟩
  | .ID_CAP_UNIT_PER_REGION => ⟨.ID_CAP_UNIT, 48, 8, .ro, 8, 1, 0⟩
  | .ID_CAP_UNIT_PER_DIE => ⟨.ID_CAP_UNIT, 56, 8, .ro, 4, 1, 0⟩
  | .ID_CAP_TILE_M => ⟨.ID_CAP_TILE, 0, 8, .ro, 32, 1, 0⟩
  | .ID_CAP_TILE_N => ⟨.ID_CAP_TILE, 8, 8, .ro, 32, 1, 0⟩
  | .ID_CAP_TILE_K64 => ⟨.ID_CAP_TILE, 16, 8, .ro, 4, 1, 0⟩
  | .ID_CAP_TILE_K32 => ⟨.ID_CAP_TILE, 24, 8, .ro, 8, 1, 0⟩
  | .ID_CAP_TILE_K16 => ⟨.ID_CAP_TILE, 32, 8, .ro, 32, 1, 0⟩
  | .ID_CAP_TILE_K8 => ⟨.ID_CAP_TILE, 40, 8, .ro, 64, 1, 0⟩
  | .ID_CAP_TILE_K4 => ⟨.ID_CAP_TILE, 48, 8, .ro, 128, 1, 0⟩
  | .ID_CAP_TILE_FORMATS => ⟨.ID_CAP_TILE, 56, 8, .ro, 255, 1, 0⟩
  | .ID_CAP_MEM_STACKS => ⟨.ID_CAP_MEM, 0, 8, .ro, 0, 1, 0⟩
  | .ID_CAP_MEM_CHANNELS => ⟨.ID_CAP_MEM, 8, 8, .ro, 32, 1, 0⟩
  | .ID_CAP_MEM_STACK_GIB => ⟨.ID_CAP_MEM, 16, 16, .ro, 128, 1, 0⟩
  | .ID_CAP_MEM_TAPS => ⟨.ID_CAP_MEM, 32, 8, .ro, 0, 1, 0⟩
  | .ID_CAP_MEM_CASK_KIB => ⟨.ID_CAP_MEM, 40, 8, .ro, 64, 1, 0⟩
  | .ID_CAP_PORT_TILUS => ⟨.ID_CAP_PORT, 0, 8, .ro, 0, 1, 0⟩
  | .ID_CAP_PORT_PCIE => ⟨.ID_CAP_PORT, 8, 8, .ro, 0, 1, 0⟩
  | .ID_CAP_PORT_CORES => ⟨.ID_CAP_PORT, 16, 16, .ro, 0, 1, 0⟩
  | .ID_CAP_PORT_COPY_PER_HUB => ⟨.ID_CAP_PORT, 32, 8, .ro, 8, 1, 0⟩
  | .ID_CAP_PORT_GUEST_SITES => ⟨.ID_CAP_PORT, 40, 8, .ro, 2, 1, 0⟩
  | .ID_FEAT_FEAT => ⟨.ID_FEAT, 0, 3, .ro, 0, 1, 0⟩
  | .ID_DIE_FEAT_FEAT => ⟨.ID_DIE_FEAT, 0, 3, .ro, 0, 1, 0⟩
  | .ID_PART_MAP_PART => ⟨.ID_PART_MAP, 0, 4, .ro, 0, 16, 4⟩
  | .ID_PART_VALID_DIES => ⟨.ID_PART_VALID, 0, 16, .ro, 0, 1, 0⟩
  | .ID_PART_HUB_PRIMARY => ⟨.ID_PART_HUB, 0, 2, .ro, 0, 1, 0⟩
  | .ID_PART_HUB_SECONDARY => ⟨.ID_PART_HUB, 2, 2, .ro, 0, 1, 0⟩
  | .ID_PART_HUB_ACTING => ⟨.ID_PART_HUB, 4, 2, .ro, 0, 1, 0⟩
  | .ID_PART_HUB_VALID => ⟨.ID_PART_HUB, 6, 1, .ro, 0, 1, 0⟩
  | .ID_DIST_GEN_GEN => ⟨.ID_DIST_GEN, 0, 32, .ro, 0, 1, 0⟩
  | .TIME_NOW_NOW => ⟨.TIME_NOW, 0, 64, .ro, 0, 1, 0⟩
  | .TIME_STATUS_STATE => ⟨.TIME_STATUS, 0, 3, .ro, 0, 1, 0⟩
  | .TIME_STATUS_ACTING => ⟨.TIME_STATUS, 3, 1, .ro, 0, 1, 0⟩
  | .TIME_STATUS_UPPORT => ⟨.TIME_STATUS, 4, 5, .ro, 31, 1, 0⟩
  | .TIME_STATUS_DEPTH => ⟨.TIME_STATUS, 9, 5, .ro, 31, 1, 0⟩
  | .TIME_STATUS_CONFLICT => ⟨.TIME_STATUS, 14, 1, .ro, 0, 1, 0⟩
  | .TIME_STATUS_DEALER => ⟨.TIME_STATUS, 32, 32, .ro, 0, 1, 0⟩
  | .TIME_CTRL_ROLE => ⟨.TIME_CTRL, 0, 1, .rw, 0, 1, 0⟩
  | .TIME_CTRL_BEACON_EN => ⟨.TIME_CTRL, 1, 1, .rw, 1, 1, 0⟩
  | .TIME_CTRL_SLEW_ONLY => ⟨.TIME_CTRL, 2, 1, .rw, 0, 1, 0⟩
  | .TIME_DEALER_SET_TIME => ⟨.TIME_DEALER_SET, 0, 64, .wo, 0, 1, 0⟩
  | .TIME_OFFSET_OFFSET => ⟨.TIME_OFFSET, 0, 32, .ro, 0, 1, 0⟩
  | .TIME_HOLD_HOLD_MS => ⟨.TIME_HOLD, 0, 32, .ro, 0, 1, 0⟩
  | .TIME_EVENTS_STEPS => ⟨.TIME_EVENTS, 0, 16, .ro, 0, 1, 0⟩
  | .TIME_EVENTS_REPARENTS => ⟨.TIME_EVENTS, 16, 16, .ro, 0, 1, 0⟩
  | .TIME_EVENTS_LOSSES => ⟨.TIME_EVENTS, 32, 16, .ro, 0, 1, 0⟩
  | .TIME_EVENTS_CONFLICTS => ⟨.TIME_EVENTS, 48, 16, .ro, 0, 1, 0⟩
  | .TIME_PORT_DELAY => ⟨.TIME_PORT, 0, 32, .ro, 0, 1, 0⟩
  | .TIME_PORT_VALID => ⟨.TIME_PORT, 32, 1, .ro, 0, 1, 0⟩
  | .TIME_PORT_LOST => ⟨.TIME_PORT, 33, 1, .ro, 0, 1, 0⟩
  | .TIME_PORT_PDEPTH => ⟨.TIME_PORT, 34, 5, .ro, 31, 1, 0⟩
  | .TIME_ASYM_ASYM => ⟨.TIME_ASYM, 0, 32, .rw, 0, 1, 0⟩
  | .TIME_EPOCH_EPOCH => ⟨.TIME_EPOCH, 0, 32, .ro, 0, 1, 0⟩
  | .TIME_EPOCH_MODE => ⟨.TIME_EPOCH, 32, 6, .ro, 0, 1, 0⟩
  | .RING_HUB_TALLY_USED => ⟨.RING_HUB, 0, 17, .ro, 0, 1, 0⟩
  | .RING_HUB_TALLY_FULL => ⟨.RING_HUB, 32, 16, .ro, 0, 1, 0⟩
  | .RING_CTRL_ENABLE => ⟨.RING_CTRL, 0, 1, .rw, 0, 1, 0⟩
  | .RING_CTRL_RESUME => ⟨.RING_CTRL, 1, 1, .wo, 0, 1, 0⟩
  | .RING_CTRL_DISCARD => ⟨.RING_CTRL, 2, 1, .wo, 0, 1, 0⟩
  | .RING_CTRL_LOC => ⟨.RING_CTRL, 4, 2, .rw, 0, 1, 0⟩
  | .RING_CTRL_SLOTS_LOG2 => ⟨.RING_CTRL, 6, 5, .rw, 0, 1, 0⟩
  | .RING_CTRL_SCAN => ⟨.RING_CTRL, 11, 2, .rw, 0, 1, 0⟩
  | .RING_CTRL_SCHEDULE => ⟨.RING_CTRL, 13, 4, .rw, 0, 1, 0⟩
  | .RING_CTRL_MODULE => ⟨.RING_CTRL, 17, 1, .rw, 0, 1, 0⟩
  | .RING_CTRL_PART => ⟨.RING_CTRL, 18, 4, .rw, 0, 1, 0⟩
  | .RING_CTRL_GAP => ⟨.RING_CTRL, 22, 16, .rw, 0, 1, 0⟩
  | .RING_CTRL_ASID => ⟨.RING_CTRL, 38, 16, .rw, 0, 1, 0⟩
  | .RING_BASE_ADDR => ⟨.RING_BASE, 6, 58, .rw, 0, 1, 0⟩
  | .RING_PROD_ADDR => ⟨.RING_PROD, 3, 61, .rw, 0, 1, 0⟩
  | .RING_CONS_ADDR => ⟨.RING_CONS, 3, 61, .rw, 0, 1, 0⟩
  | .RING_CPL_ADDR => ⟨.RING_CPL, 6, 58, .rw, 0, 1, 0⟩
  | .RING_STATUS_DRAINED => ⟨.RING_STATUS, 0, 1, .ro, 1, 1, 0⟩
  | .RING_STATUS_HOST_STOPPED => ⟨.RING_STATUS, 1, 1, .ro, 0, 1, 0⟩
  | .RING_STATUS_CFG_ERR => ⟨.RING_STATUS, 2, 1, .w1c, 0, 1, 0⟩
  | .RING_STATUS_PROD_ERR => ⟨.RING_STATUS, 3, 1, .w1c, 0, 1, 0⟩
  | .RING_STATUS_TALLY_WAIT => ⟨.RING_STATUS, 4, 1, .ro, 0, 1, 0⟩
  | .RING_STATUS_OPEN => ⟨.RING_STATUS, 16, 13, .ro, 0, 1, 0⟩
  | .RING_STATUS_SCANS => ⟨.RING_STATUS, 32, 16, .ro, 0, 1, 0⟩
  | .RING_ACCEPT_POS => ⟨.RING_ACCEPT, 0, 64, .rw, 0, 1, 0⟩
  | .RING_DONE_POS => ⟨.RING_DONE, 0, 64, .ro, 0, 1, 0⟩
  | .CLR_CTRL_ENABLE => ⟨.CLR_CTRL, 0, 1, .rw, 0, 1, 0⟩
  | .CLR_BASE_ADDR => ⟨.CLR_BASE, 16, 36, .rw, 0, 1, 0⟩
  | .CLR_COUNT_CASKS => ⟨.CLR_COUNT, 0, 22, .rw, 0, 1, 0⟩
  | .CLR_STATUS_READY => ⟨.CLR_STATUS, 0, 1, .ro, 0, 1, 0⟩
  | .CLR_STATUS_CFG_ERR => ⟨.CLR_STATUS, 1, 1, .w1c, 0, 1, 0⟩
  | .CLR_STATUS_FORMATTING => ⟨.CLR_STATUS, 2, 1, .ro, 0, 1, 0⟩
  | .CLR_STATUS_FREE => ⟨.CLR_STATUS, 32, 22, .ro, 0, 1, 0⟩
  | .CLR_USE_ALLOCATED => ⟨.CLR_USE, 0, 22, .ro, 0, 1, 0⟩
  | .CLR_USE_RETIRED => ⟨.CLR_USE, 32, 22, .ro, 0, 1, 0⟩
  | .CLR_EVENTS_ALLOCS => ⟨.CLR_EVENTS, 0, 16, .ro, 0, 1, 0⟩
  | .CLR_EVENTS_FREES => ⟨.CLR_EVENTS, 16, 16, .ro, 0, 1, 0⟩
  | .CLR_EVENTS_MOVES_IN => ⟨.CLR_EVENTS, 32, 16, .ro, 0, 1, 0⟩
  | .CLR_EVENTS_HOLD_WAITS => ⟨.CLR_EVENTS, 48, 16, .ro, 0, 1, 0⟩
  | .CLR_FIRST_FIRST => ⟨.CLR_FIRST, 0, 22, .ro, 0, 1, 0⟩
  | .TAP_CTRL_SHARE => ⟨.TAP_CTRL, 0, 4, .rw, 0, 1, 0⟩
  | .TAP_STATUS_BUSY => ⟨.TAP_STATUS, 0, 1, .ro, 0, 1, 0⟩
  | .TAP_STATUS_QUEUED => ⟨.TAP_STATUS, 8, 7, .ro, 0, 1, 0⟩
  | .TAP_PASSES_PASSES => ⟨.TAP_PASSES, 0, 32, .ro, 0, 1, 0⟩
  | .TAP_PASSES_CASKS => ⟨.TAP_PASSES, 32, 32, .ro, 0, 1, 0⟩
  | .TAP_BYTES_BYTES => ⟨.TAP_BYTES, 0, 64, .ro, 0, 1, 0⟩
  | .TAP_EVENTS_HOLD_RESTARTS => ⟨.TAP_EVENTS, 0, 16, .ro, 0, 1, 0⟩
  | .TAP_EVENTS_UNCORRECTABLE => ⟨.TAP_EVENTS, 16, 16, .ro, 0, 1, 0⟩
  | .TAP_EVENTS_QUEUE_FULL => ⟨.TAP_EVENTS, 32, 16, .ro, 0, 1, 0⟩
  | .TAP_CAP_ROWS_PER_PASS => ⟨.TAP_CAP, 0, 8, .ro, 16, 1, 0⟩
  | .TAP_CAP_MAX_TOPK => ⟨.TAP_CAP, 8, 8, .ro, 64, 1, 0⟩
  | .TAP_CAP_MAX_ROWS => ⟨.TAP_CAP, 16, 16, .ro, 256, 1, 0⟩
  | .TAP_CAP_MAC8 => ⟨.TAP_CAP, 32, 16, .ro, 16384, 1, 0⟩
  | .TAP_CAP_MAC16 => ⟨.TAP_CAP, 48, 16, .ro, 8192, 1, 0⟩
  | .MEM_CTRL_RETRAIN => ⟨.MEM_CTRL, 0, 1, .wo, 0, 1, 0⟩
  | .MEM_CTRL_WIN_SCHED => ⟨.MEM_CTRL, 1, 1, .rw, 0, 1, 0⟩
  | .MEM_CTRL_SCHEDULE => ⟨.MEM_CTRL, 2, 4, .rw, 0, 1, 0⟩
  | .MEM_CTRL_LANE_LIMIT => ⟨.MEM_CTRL, 8, 16, .rw, 256, 1, 0⟩
  | .MEM_CTRL_SCRUB_EN => ⟨.MEM_CTRL, 24, 1, .rw, 1, 1, 0⟩
  | .MEM_CTRL_SCRUB_HOURS => ⟨.MEM_CTRL, 32, 8, .rw, 24, 1, 0⟩
  | .MEM_CTRL_PEAK_CLR => ⟨.MEM_CTRL, 40, 1, .wo, 0, 1, 0⟩
  | .MEM_STATUS_TRAINED => ⟨.MEM_STATUS, 0, 1, .ro, 0, 1, 0⟩
  | .MEM_STATUS_PENDING => ⟨.MEM_STATUS, 1, 1, .ro, 0, 1, 0⟩
  | .MEM_STATUS_WINDOW => ⟨.MEM_STATUS, 2, 1, .ro, 0, 1, 0⟩
  | .MEM_STATUS_SELF_REFRESH => ⟨.MEM_STATUS, 3, 1, .ro, 0, 1, 0⟩
  | .MEM_STATUS_RATE => ⟨.MEM_STATUS, 4, 2, .ro, 0, 1, 0⟩
  | .MEM_STATUS_THROTTLED => ⟨.MEM_STATUS, 6, 1, .ro, 0, 1, 0⟩
  | .MEM_STATUS_STOPPED => ⟨.MEM_STATUS, 7, 1, .ro, 0, 1, 0⟩
  | .MEM_STATUS_CONTENTS_LOST => ⟨.MEM_STATUS, 8, 1, .ro, 0, 1, 0⟩
  | .MEM_STATUS_WINDOWS => ⟨.MEM_STATUS, 16, 16, .ro, 0, 1, 0⟩
  | .MEM_THERM_TEMP => ⟨.MEM_THERM, 0, 8, .ro, 0, 1, 0⟩
  | .MEM_THERM_PEAK => ⟨.MEM_THERM, 8, 8, .ro, 0, 1, 0⟩
  | .MEM_THERM_HOT_DIE => ⟨.MEM_THERM, 16, 4, .ro, 0, 1, 0⟩
  | .MEM_ERR_CORRECTED => ⟨.MEM_ERR, 0, 32, .ro, 0, 1, 0⟩
  | .MEM_ERR_UNCORRECTABLE => ⟨.MEM_ERR, 32, 16, .ro, 0, 1, 0⟩
  | .MEM_ERR_SCRUB_FIXED => ⟨.MEM_ERR, 48, 16, .ro, 0, 1, 0⟩
  | .MEM_LANESEL_CHANNEL => ⟨.MEM_LANESEL, 0, 5, .rw, 0, 1, 0⟩
  | .MEM_LANESEL_LANE => ⟨.MEM_LANESEL, 8, 9, .rw, 0, 1, 0⟩
  | .MEM_LANE_ERRORS => ⟨.MEM_LANE, 0, 16, .ro, 0, 1, 0⟩
  | .MEM_LANE_FLAGGED => ⟨.MEM_LANE, 16, 1, .ro, 0, 1, 0⟩
  | .MEM_LANE_SPARED => ⟨.MEM_LANE, 17, 1, .ro, 0, 1, 0⟩
  | .MEM_LANE_CARRIED => ⟨.MEM_LANE, 18, 1, .ro, 0, 1, 0⟩
  | .MEM_LANE_SPARE => ⟨.MEM_LANE, 19, 2, .ro, 0, 1, 0⟩
  | .MEM_LANE_SPARE_IN_USE => ⟨.MEM_LANE, 21, 1, .ro, 0, 1, 0⟩
  | .MEM_RETIRED_CHANNELS => ⟨.MEM_RETIRED, 0, 32, .ro, 0, 1, 0⟩
  | .MEM_CHAN_SPARES_USED => ⟨.MEM_CHAN, 0, 3, .ro, 0, 1, 0⟩
  | .MEM_CHAN_CARRIED => ⟨.MEM_CHAN, 3, 2, .ro, 0, 1, 0⟩
  | .MEM_CHAN_RETIRED => ⟨.MEM_CHAN, 5, 1, .ro, 0, 1, 0⟩
  | .MEM_CHAN_CORRECTED => ⟨.MEM_CHAN, 16, 32, .ro, 0, 1, 0⟩
  | .MEM_PMAP_DI_GIB => ⟨.MEM_PMAP, 0, 8, .rw, 0, 1, 0⟩
  | .MEM_PMAP_MI_GIB => ⟨.MEM_PMAP, 8, 8, .rw, 0, 1, 0⟩
  | .MEM_PMAP_CFG_ERR => ⟨.MEM_PMAP, 16, 1, .w1c, 0, 1, 0⟩
  | .XL_AST_LOG2 => ⟨.XL_AST, 0, 5, .rw, 0, 1, 0⟩
  | .XL_AST_ENABLE => ⟨.XL_AST, 5, 1, .rw, 0, 1, 0⟩
  | .XL_AST_BASE => ⟨.XL_AST, 16, 36, .rw, 0, 1, 0⟩
  | .XL_FQ_BASE_ADDR => ⟨.XL_FQ_BASE, 6, 58, .rw, 0, 1, 0⟩
  | .XL_FQ_CTRL_ENABLE => ⟨.XL_FQ_CTRL, 0, 1, .rw, 0, 1, 0⟩
  | .XL_FQ_CTRL_LOC => ⟨.XL_FQ_CTRL, 1, 2, .rw, 0, 1, 0⟩
  | .XL_FQ_CTRL_SIZE_LOG2 => ⟨.XL_FQ_CTRL, 3, 5, .rw, 0, 1, 0⟩
  | .XL_FQ_CTRL_WAIT_US => ⟨.XL_FQ_CTRL, 8, 20, .rw, 0, 1, 0⟩
  | .XL_FQ_WORDS_ADDR => ⟨.XL_FQ_WORDS, 4, 60, .rw, 0, 1, 0⟩
  | .XL_FQ_STATUS_PROD => ⟨.XL_FQ_STATUS, 0, 32, .ro, 0, 1, 0⟩
  | .XL_FQ_STATUS_FULL => ⟨.XL_FQ_STATUS, 32, 1, .ro, 0, 1, 0⟩
  | .XL_FQ_STATUS_CFG_ERR => ⟨.XL_FQ_STATUS, 33, 1, .w1c, 0, 1, 0⟩
  | .XL_FQ_STATUS_CONS_ERR => ⟨.XL_FQ_STATUS, 34, 1, .w1c, 0, 1, 0⟩
  | .XL_FQ_STATUS_PENDING => ⟨.XL_FQ_STATUS, 35, 7, .ro, 0, 1, 0⟩
  | .XL_FQ_STATUS_ACCESS_ERR => ⟨.XL_FQ_STATUS, 42, 1, .w1c, 0, 1, 0⟩
  | .XL_FQ_STATUS_STALLS => ⟨.XL_FQ_STATUS, 48, 16, .ro, 0, 1, 0⟩
  | .XL_SVC_BASE_ADDR => ⟨.XL_SVC_BASE, 6, 46, .rw, 0, 1, 0⟩
  | .XL_SVC_CTRL_ENABLE => ⟨.XL_SVC_CTRL, 0, 1, .rw, 0, 1, 0⟩
  | .XL_SVC_CTRL_SIZE_LOG2 => ⟨.XL_SVC_CTRL, 1, 5, .rw, 0, 1, 0⟩
  | .XL_SVC_CTRL_LIMIT_US => ⟨.XL_SVC_CTRL, 6, 20, .rw, 0, 1, 0⟩
  | .XL_SVC_PROD_PROD => ⟨.XL_SVC_PROD, 0, 32, .ro, 0, 1, 0⟩
  | .XL_SVC_CONS_CONS => ⟨.XL_SVC_CONS, 0, 32, .rw, 0, 1, 0⟩
  | .XL_SVC_REPLY_TAG => ⟨.XL_SVC_REPLY, 0, 16, .wo, 0, 1, 0⟩
  | .XL_SVC_REPLY_ACTION => ⟨.XL_SVC_REPLY, 16, 1, .wo, 0, 1, 0⟩
  | .XL_SVC_STATUS_OPEN => ⟨.XL_SVC_STATUS, 0, 11, .ro, 0, 1, 0⟩
  | .XL_SVC_STATUS_FULL => ⟨.XL_SVC_STATUS, 11, 1, .ro, 0, 1, 0⟩
  | .XL_SVC_STATUS_CFG_ERR => ⟨.XL_SVC_STATUS, 12, 1, .w1c, 0, 1, 0⟩
  | .XL_SVC_STATUS_CONS_ERR => ⟨.XL_SVC_STATUS, 13, 1, .w1c, 0, 1, 0⟩
  | .XL_SVC_STATUS_TIMEOUTS => ⟨.XL_SVC_STATUS, 16, 16, .ro, 0, 1, 0⟩
  | .XL_SVC_STATUS_BAD_REPLY => ⟨.XL_SVC_STATUS, 32, 16, .ro, 0, 1, 0⟩
  | .XL_TC_STATS_MISSES => ⟨.XL_TC_STATS, 0, 32, .ro, 0, 1, 0⟩
  | .XL_TC_STATS_INVALS => ⟨.XL_TC_STATS, 32, 16, .ro, 0, 1, 0⟩
  | .XL_TC_STATS_DISCARDS => ⟨.XL_TC_STATS, 48, 16, .ro, 0, 1, 0⟩
  | .PCI_LINK_UP => ⟨.PCI_LINK, 0, 1, .ro, 0, 1, 0⟩
  | .PCI_LINK_SPEED => ⟨.PCI_LINK, 1, 3, .ro, 0, 1, 0⟩
  | .PCI_LINK_WIDTH => ⟨.PCI_LINK, 4, 5, .ro, 0, 1, 0⟩
  | .PCI_LINK_FLIT => ⟨.PCI_LINK, 9, 1, .ro, 0, 1, 0⟩
  | .PCI_LINK_BME => ⟨.PCI_LINK, 10, 1, .ro, 0, 1, 0⟩
  | .PCI_LINK_STOPPED => ⟨.PCI_LINK, 11, 1, .ro, 0, 1, 0⟩
  | .PCI_HOST_RID => ⟨.PCI_HOST, 0, 16, .rw, 0, 1, 0⟩
  | .PCI_HOST_RID_MASK => ⟨.PCI_HOST, 16, 16, .rw, 0, 1, 0⟩
  | .PCI_APER_BASE => ⟨.PCI_APER, 30, 22, .rw, 0, 1, 0⟩
  | .PCI_EVENTS_RETRAINS => ⟨.PCI_EVENTS, 0, 16, .ro, 0, 1, 0⟩
  | .PCI_EVENTS_LINK_DOWNS => ⟨.PCI_EVENTS, 16, 16, .ro, 0, 1, 0⟩
  | .PCI_EVENTS_HOT_RESETS => ⟨.PCI_EVENTS, 32, 16, .ro, 0, 1, 0⟩
  | .PCI_EVENTS_FLRS => ⟨.PCI_EVENTS, 48, 16, .ro, 0, 1, 0⟩
  | .PCI_INBOUND_UR => ⟨.PCI_INBOUND, 0, 16, .ro, 0, 1, 0⟩
  | .PCI_INBOUND_HOLES => ⟨.PCI_INBOUND, 16, 16, .ro, 0, 1, 0⟩
  | .PCI_INBOUND_CELLAR => ⟨.PCI_INBOUND, 32, 16, .ro, 0, 1, 0⟩
  | .PCI_INBOUND_UNCORRECTABLE => ⟨.PCI_INBOUND, 48, 16, .ro, 0, 1, 0⟩
  | .PCI_LOST_COMMANDS => ⟨.PCI_LOST, 0, 32, .ro, 0, 1, 0⟩
  | .PCI_CPY_BUSY => ⟨.PCI_CPY, 0, 1, .ro, 0, 1, 0⟩
  | .PCI_CPY_QUEUED => ⟨.PCI_CPY, 1, 7, .ro, 0, 1, 0⟩
  | .PCI_CPY_COMMANDS => ⟨.PCI_CPY, 32, 32, .ro, 0, 1, 0⟩
  | .PCI_PEER_RID => ⟨.PCI_PEER, 0, 16, .rw, 0, 1, 0⟩
  | .PCI_PEER_ENABLE => ⟨.PCI_PEER, 16, 1, .rw, 0, 1, 0⟩
  | .PCI_PEER_READ => ⟨.PCI_PEER, 17, 1, .rw, 0, 1, 0⟩
  | .PCI_PEER_WRITE => ⟨.PCI_PEER, 18, 1, .rw, 0, 1, 0⟩
  | .PCI_PEER_STATE => ⟨.PCI_PEER, 20, 2, .ro, 0, 1, 0⟩
  | .PCI_PEER_BAR0_ADDR => ⟨.PCI_PEER_BAR0, 12, 52, .rw, 0, 1, 0⟩
  | .PCI_PEER_SERIAL_SERIAL => ⟨.PCI_PEER_SERIAL, 0, 64, .rw, 0, 1, 0⟩
  | .PCI_PEER_WIN_BASE_GIB => ⟨.PCI_PEER_WIN, 0, 16, .rw, 0, 1, 0⟩
  | .PCI_PEER_WIN_SIZE_GIB => ⟨.PCI_PEER_WIN, 16, 16, .rw, 0, 1, 0⟩
  | .CHK_BIND_BOUND => ⟨.CHK_BIND, 0, 1, .ro, 0, 1, 0⟩
  | .CHK_BIND_KIND => ⟨.CHK_BIND, 1, 2, .ro, 0, 1, 0⟩
  | .CHK_BIND_CRC64 => ⟨.CHK_BIND, 3, 1, .ro, 0, 1, 0⟩
  | .CHK_BIND_PART => ⟨.CHK_BIND, 4, 4, .ro, 0, 1, 0⟩
  | .CHK_BIND_MODULE => ⟨.CHK_BIND, 8, 1, .ro, 0, 1, 0⟩
  | .CHK_BIND_SOURCE => ⟨.CHK_BIND, 16, 16, .ro, 0, 1, 0⟩
  | .CHK_MSGS_MESSAGES => ⟨.CHK_MSGS, 0, 32, .ro, 0, 1, 0⟩
  | .CHK_MSGS_CRC_BAD => ⟨.CHK_MSGS, 32, 16, .ro, 0, 1, 0⟩
  | .CHK_MSGS_SHORT => ⟨.CHK_MSGS, 48, 8, .ro, 0, 1, 0⟩
  | .CHK_MSGS_LOST_ENTRIES => ⟨.CHK_MSGS, 56, 8, .ro, 0, 1, 0⟩
  | .CHK_SEQ_SKIPS => ⟨.CHK_SEQ, 0, 32, .ro, 0, 1, 0⟩
  | .CHK_SEQ_REPEATS => ⟨.CHK_SEQ, 32, 16, .ro, 0, 1, 0⟩
  | .CHK_SEQ_NOT_SEEN => ⟨.CHK_SEQ, 48, 16, .ro, 0, 1, 0⟩
  | .CHK_LAST_LAST => ⟨.CHK_LAST, 0, 64, .ro, 0, 1, 0⟩
  | .CHK_CRC_CRC => ⟨.CHK_CRC, 0, 64, .ro, 0, 1, 0⟩
  | .CHK_CTRL_CLEAR => ⟨.CHK_CTRL, 0, 1, .wo, 0, 1, 0⟩
  | .CRX_CTRL_RETRAIN => ⟨.CRX_CTRL, 0, 1, .wo, 0, 1, 0⟩
  | .CRX_CTRL_WIN_SCHED => ⟨.CRX_CTRL, 1, 1, .rw, 0, 1, 0⟩
  | .CRX_CTRL_SCHEDULE => ⟨.CRX_CTRL, 2, 4, .rw, 0, 1, 0⟩
  | .CRX_CTRL_LANE_LIMIT => ⟨.CRX_CTRL, 8, 16, .rw, 64, 1, 0⟩
  | .CRX_CTRL_DISABLE => ⟨.CRX_CTRL, 24, 1, .rw, 0, 1, 0⟩
  | .CRX_STATUS_STATE => ⟨.CRX_STATUS, 0, 3, .ro, 0, 1, 0⟩
  | .CRX_STATUS_WIDTH_TX => ⟨.CRX_STATUS, 3, 2, .ro, 0, 1, 0⟩
  | .CRX_STATUS_WIDTH_RX => ⟨.CRX_STATUS, 5, 2, .ro, 0, 1, 0⟩
  | .CRX_STATUS_SPARES_RX => ⟨.CRX_STATUS, 7, 3, .ro, 0, 1, 0⟩
  | .CRX_STATUS_PENDING => ⟨.CRX_STATUS, 10, 1, .ro, 0, 1, 0⟩
  | .CRX_STATUS_LINK => ⟨.CRX_STATUS, 11, 2, .ro, 0, 1, 0⟩
  | .CRX_STATUS_WINDOWS => ⟨.CRX_STATUS, 16, 16, .ro, 0, 1, 0⟩
  | .CRX_ERR_CRC_ERRORS => ⟨.CRX_ERR, 0, 32, .ro, 0, 1, 0⟩
  | .CRX_ERR_REPLAYS => ⟨.CRX_ERR, 32, 16, .ro, 0, 1, 0⟩
  | .CRX_ERR_FORCED => ⟨.CRX_ERR, 48, 16, .ro, 0, 1, 0⟩
  | .CRX_LANESEL_LANE => ⟨.CRX_LANESEL, 0, 7, .rw, 0, 1, 0⟩
  | .CRX_LANE_ERRORS => ⟨.CRX_LANE, 0, 16, .ro, 0, 1, 0⟩
  | .CRX_LANE_FLAGGED => ⟨.CRX_LANE, 16, 1, .ro, 0, 1, 0⟩
  | .CRX_LANE_SPARED => ⟨.CRX_LANE, 17, 1, .ro, 0, 1, 0⟩
  | .CRX_LANE_FAILED => ⟨.CRX_LANE, 18, 1, .ro, 0, 1, 0⟩
  | .CRX_LANE_SPARE => ⟨.CRX_LANE, 19, 2, .ro, 0, 1, 0⟩
  | .CRX_LANE_SPARE_IN_USE => ⟨.CRX_LANE, 21, 1, .ro, 0, 1, 0⟩
  | .CRX_GSTAT_STATE => ⟨.CRX_GSTAT, 0, 3, .ro, 0, 1, 0⟩
  | .CRX_GSTAT_OUTSTANDING => ⟨.CRX_GSTAT, 3, 9, .ro, 0, 1, 0⟩
  | .CRX_GSTAT_MAX_OUT => ⟨.CRX_GSTAT, 16, 9, .ro, 0, 1, 0⟩
  | .CRX_GSTAT_RATE => ⟨.CRX_GSTAT, 25, 9, .ro, 0, 1, 0⟩
  | .CRX_GID_LO_ID => ⟨.CRX_GID_LO, 0, 64, .ro, 0, 1, 0⟩
  | .CRX_GID_HI_ID => ⟨.CRX_GID_HI, 0, 64, .ro, 0, 1, 0⟩
  | .CRX_GDENY_DENIED => ⟨.CRX_GDENY, 0, 32, .ro, 0, 1, 0⟩
  | .CRX_GDENY_LAST_REASON => ⟨.CRX_GDENY, 32, 4, .ro, 0, 1, 0⟩
  | .CRX_GLAST_ADDR => ⟨.CRX_GLAST, 0, 52, .ro, 0, 1, 0⟩
  | .CRX_GRULE_BASE_BASE => ⟨.CRX_GRULE_BASE, 16, 36, .ro, 0, 1, 0⟩
  | .CRX_GRULE_SIZE_VALID => ⟨.CRX_GRULE_SIZE, 0, 1, .ro, 0, 1, 0⟩
  | .CRX_GRULE_SIZE_RIGHTS => ⟨.CRX_GRULE_SIZE, 1, 3, .ro, 0, 1, 0⟩
  | .CRX_GRULE_SIZE_PART => ⟨.CRX_GRULE_SIZE, 4, 4, .ro, 0, 1, 0⟩
  | .CRX_GRULE_SIZE_SIZE => ⟨.CRX_GRULE_SIZE, 16, 25, .ro, 0, 1, 0⟩
  | .TLS_NODE_NODE => ⟨.TLS_NODE, 0, 20, .rw, 0, 1, 0⟩
  | .TLS_NODE_VALID => ⟨.TLS_NODE, 20, 1, .rw, 0, 1, 0⟩
  | .TLS_CTRL_HOPS => ⟨.TLS_CTRL, 0, 5, .rw, 24, 1, 0⟩
  | .TLS_CTRL_REMOTE_US => ⟨.TLS_CTRL, 8, 20, .rw, 0, 1, 0⟩
  | .TLS_STATUS_CFG_ERR => ⟨.TLS_STATUS, 0, 1, .w1c, 0, 1, 0⟩
  | .TLS_STATUS_DUP_NODE => ⟨.TLS_STATUS, 1, 1, .w1c, 0, 1, 0⟩
  | .TLS_STATUS_ROUTE_FAILS => ⟨.TLS_STATUS, 16, 16, .ro, 0, 1, 0⟩
  | .TLS_STATUS_LATE_RESP => ⟨.TLS_STATUS, 32, 16, .ro, 0, 1, 0⟩
  | .TLS_PCTRL_ENABLE => ⟨.TLS_PCTRL, 0, 1, .rw, 0, 1, 0⟩
  | .TLS_PSTAT_STATE => ⟨.TLS_PSTAT, 0, 3, .ro, 0, 1, 0⟩
  | .TLS_PSTAT_WIDTH => ⟨.TLS_PSTAT, 3, 2, .ro, 0, 1, 0⟩
  | .TLS_PSTAT_PARTNER_VALID => ⟨.TLS_PSTAT, 5, 1, .ro, 0, 1, 0⟩
  | .TLS_PSTAT_PARTNER => ⟨.TLS_PSTAT, 6, 20, .ro, 0, 1, 0⟩
  | .TLS_PSTAT_LOSSES => ⟨.TLS_PSTAT, 32, 16, .ro, 0, 1, 0⟩
  | .TLS_PSTAT_RETRAINS => ⟨.TLS_PSTAT, 48, 16, .ro, 0, 1, 0⟩
  | .TLS_PERR_CRC_ERRORS => ⟨.TLS_PERR, 0, 32, .ro, 0, 1, 0⟩
  | .TLS_PERR_REPLAYS => ⟨.TLS_PERR, 32, 16, .ro, 0, 1, 0⟩
  | .TLS_PERR_FEC_FIXED => ⟨.TLS_PERR, 48, 16, .ro, 0, 1, 0⟩
  | .TLS_PFRAME_PRIO_FRAMES => ⟨.TLS_PFRAME, 0, 32, .ro, 0, 1, 0⟩
  | .TLS_PFRAME_RESV_OVER => ⟨.TLS_PFRAME, 32, 16, .ro, 0, 1, 0⟩
  | .TLS_PFRAME_RESV_MISS => ⟨.TLS_PFRAME, 48, 16, .ro, 0, 1, 0⟩
  | .TLS_PRESV_USED => ⟨.TLS_PRESV, 0, 16, .ro, 0, 1, 0⟩
  | .TLS_PRESV_SUM_NS => ⟨.TLS_PRESV, 16, 32, .ro, 0, 1, 0⟩
  | .TLS_RES_OFFSET_NS => ⟨.TLS_RES, 0, 32, .ro, 0, 1, 0⟩
  | .TLS_RES_SLOT_NS => ⟨.TLS_RES, 32, 32, .ro, 0, 1, 0⟩
  | .TLS_RES_FLOW_FLOW_ID => ⟨.TLS_RES_FLOW, 0, 32, .ro, 0, 1, 0⟩
  | .TLS_RES_FLOW_KIND => ⟨.TLS_RES_FLOW, 32, 2, .ro, 0, 1, 0⟩
  | .TLS_RES_FLOW_PART => ⟨.TLS_RES_FLOW, 34, 4, .ro, 0, 1, 0⟩
  | .TLS_RES_FLOW_SCHEDULE => ⟨.TLS_RES_FLOW, 38, 4, .ro, 0, 1, 0⟩
  | .TLS_RES_FLOW_VALID => ⟨.TLS_RES_FLOW, 42, 1, .ro, 0, 1, 0⟩
  | .TLS_GROUTE_MASK => ⟨.TLS_GROUTE, 0, 16, .rw, 0, 4, 16⟩
  | .TLS_LROUTE_MASK => ⟨.TLS_LROUTE, 0, 16, .rw, 0, 4, 16⟩
  | .PWR_CAP_MODULE_W => ⟨.PWR_CAP, 0, 16, .ro, 13000, 1, 0⟩
  | .PWR_CAP_DIE_W => ⟨.PWR_CAP, 16, 16, .ro, 800, 1, 0⟩
  | .PWR_CAP_TRUMP => ⟨.PWR_CAP, 32, 6, .ro, 36, 1, 0⟩
  | .PWR_MODULE_EST_W => ⟨.PWR_MODULE, 0, 16, .ro, 0, 1, 0⟩
  | .PWR_MODULE_AVG_W => ⟨.PWR_MODULE, 16, 16, .ro, 0, 1, 0⟩
  | .PWR_MODULE_EFFECTIVE_W => ⟨.PWR_MODULE, 32, 16, .ro, 13000, 1, 0⟩
  | .PWR_CLASS_LINKS_W => ⟨.PWR_CLASS, 0, 16, .ro, 0, 1, 0⟩
  | .PWR_CLASS_MEMORY_W => ⟨.PWR_CLASS, 16, 16, .ro, 0, 1, 0⟩
  | .PWR_CLASS_COMPUTE_W => ⟨.PWR_CLASS, 32, 16, .ro, 0, 1, 0⟩
  | .PWR_STATUS_COOL_OK => ⟨.PWR_STATUS, 0, 1, .ro, 0, 1, 0⟩
  | .PWR_STATUS_COOL_LOST => ⟨.PWR_STATUS, 1, 1, .w1c, 0, 1, 0⟩
  | .PWR_STATUS_COOL_STOP => ⟨.PWR_STATUS, 2, 1, .ro, 0, 1, 0⟩
  | .PWR_STATUS_ALERT_C => ⟨.PWR_STATUS, 3, 8, .ro, 0, 1, 0⟩
  | .PWR_STATUS_ALERT_M => ⟨.PWR_STATUS, 11, 1, .ro, 0, 1, 0⟩
  | .PWR_STATUS_ALERT_H => ⟨.PWR_STATUS, 12, 1, .ro, 0, 1, 0⟩
  | .PWR_STATUS_GUARD => ⟨.PWR_STATUS, 13, 1, .ro, 0, 1, 0⟩
  | .PWR_STATUS_GUARD_WINDOWS => ⟨.PWR_STATUS, 32, 16, .ro, 0, 1, 0⟩
  | .PWR_STATUS_THROTTLE_MARKERS => ⟨.PWR_STATUS, 48, 16, .ro, 0, 1, 0⟩
  | .PWR_HUB_EST_W => ⟨.PWR_HUB, 0, 16, .ro, 0, 1, 0⟩
  | .PWR_HUB_TEMP => ⟨.PWR_HUB, 16, 8, .ro, 0, 1, 0⟩
  | .PWR_HUB_PEAK => ⟨.PWR_HUB, 24, 8, .ro, 0, 1, 0⟩
  | .PWR_IDLE_LEVEL => ⟨.PWR_IDLE, 0, 1, .rw, 0, 1, 0⟩
  | .PWR_IDLE_STATE => ⟨.PWR_IDLE, 1, 2, .ro, 0, 1, 0⟩
  | .PWR_IDLE_CFG_ERR => ⟨.PWR_IDLE, 3, 1, .w1c, 0, 1, 0⟩
  | .PWR_DIE_EST_W => ⟨.PWR_DIE, 0, 16, .ro, 0, 1, 0⟩
  | .PWR_DIE_BUBBLE => ⟨.PWR_DIE, 16, 6, .ro, 0, 1, 0⟩
  | .PWR_DIE_PSTATE => ⟨.PWR_DIE, 24, 3, .ro, 0, 1, 0⟩
  | .PWR_DIE_REQ => ⟨.PWR_DIE, 27, 3, .ro, 0, 1, 0⟩
  | .PWR_DIE_FORCED => ⟨.PWR_DIE, 30, 1, .ro, 0, 1, 0⟩
  | .PWR_DIE_STRETCH => ⟨.PWR_DIE, 31, 1, .ro, 0, 1, 0⟩
  | .PWR_DIE_CAUSE => ⟨.PWR_DIE, 32, 3, .ro, 0, 1, 0⟩
  | .PWR_DIE_EVT_CAP_WINDOWS => ⟨.PWR_DIE_EVT, 0, 16, .ro, 0, 1, 0⟩
  | .PWR_DIE_EVT_DROOPS => ⟨.PWR_DIE_EVT, 16, 16, .ro, 0, 1, 0⟩
  | .PWR_DIE_EVT_FORCED_WINDOWS => ⟨.PWR_DIE_EVT, 32, 16, .ro, 0, 1, 0⟩
  | .PWR_DIE_EVT_HELD_STEPS => ⟨.PWR_DIE_EVT, 48, 16, .ro, 0, 1, 0⟩
  | .PWR_STRETCH_CYCLES => ⟨.PWR_STRETCH, 0, 64, .ro, 0, 1, 0⟩
  | .PWR_TEMP_TEMP => ⟨.PWR_TEMP, 0, 8, .ro, 0, 1, 0⟩
  | .PWR_TEMP_PEAK => ⟨.PWR_TEMP, 8, 8, .ro, 0, 1, 0⟩
  | .PWR_FUSE_VCORE_MV => ⟨.PWR_FUSE, 0, 12, .ro, 750, 1, 0⟩
  | .PWR_FUSE_LEAK85_W => ⟨.PWR_FUSE, 16, 12, .ro, 90, 1, 0⟩
  | .PWR_STACK_EST_DW => ⟨.PWR_STACK, 0, 16, .ro, 0, 1, 0⟩
  | .PWR_STACK_SLOTS => ⟨.PWR_STACK, 16, 5, .ro, 16, 1, 0⟩
  | .RST_STATUS_PHASE => ⟨.RST_STATUS, 0, 3, .ro, 0, 1, 0⟩
  | .RST_STATUS_CAUSE => ⟨.RST_STATUS, 4, 3, .ro, 0, 1, 0⟩
  | .RST_STATUS_HALT => ⟨.RST_STATUS, 8, 3, .ro, 0, 1, 0⟩
  | .RST_STATUS_START_MS => ⟨.RST_STATUS, 32, 16, .ro, 0, 1, 0⟩
  | .RST_FAILED_DIES => ⟨.RST_FAILED, 0, 16, .ro, 0, 1, 0⟩
  | .RST_FAILED_HUBS => ⟨.RST_FAILED, 16, 4, .ro, 0, 1, 0⟩
  | .RST_FAILED_STACKS => ⟨.RST_FAILED, 32, 32, .ro, 0, 1, 0⟩
  | .RST_COUNTS_PART_FAILED => ⟨.RST_COUNTS, 0, 16, .ro, 0, 1, 0⟩
  | .RST_COUNTS_REPLAYED => ⟨.RST_COUNTS, 16, 16, .ro, 0, 1, 0⟩
  | .RST_COUNTS_ABORTED => ⟨.RST_COUNTS, 32, 16, .ro, 0, 1, 0⟩
  | .RST_COUNTS_TAKEOVERS => ⟨.RST_COUNTS, 48, 16, .ro, 0, 1, 0⟩
  | .RST_HUB_STATE => ⟨.RST_HUB, 0, 3, .ro, 0, 1, 0⟩
  | .RST_HUB_ACTING => ⟨.RST_HUB, 16, 17, .ro, 0, 1, 0⟩
  | .RST_HUB_MIRROR => ⟨.RST_HUB, 48, 16, .ro, 0, 1, 0⟩
  | .RST_PART_STATE => ⟨.RST_PART, 0, 3, .ro, 0, 1, 0⟩
  | .RST_PART_MIRRORED => ⟨.RST_PART, 3, 1, .ro, 0, 1, 0⟩
  | .RST_PART_MIRROR => ⟨.RST_PART, 4, 2, .ro, 0, 1, 0⟩
  | .RST_PART_RESETS => ⟨.RST_PART, 8, 8, .ro, 0, 1, 0⟩
  | .RST_PART_FAILED_DIES => ⟨.RST_PART, 16, 16, .ro, 0, 1, 0⟩
  | .RST_DIE_STATE => ⟨.RST_DIE, 0, 3, .ro, 0, 1, 0⟩
  | .RST_DIE_CORES_HELD => ⟨.RST_DIE, 3, 1, .ro, 0, 1, 0⟩
  | .RST_DIE_FAIL_CAUSE => ⟨.RST_DIE, 4, 3, .ro, 0, 1, 0⟩
  | .SEC_STATUS_CLAIMED => ⟨.SEC_STATUS, 0, 1, .ro, 0, 1, 0⟩
  | .SEC_STATUS_ROOT_SET => ⟨.SEC_STATUS, 1, 1, .ro, 0, 1, 0⟩
  | .SEC_STATUS_KEEPER_OK => ⟨.SEC_STATUS, 2, 1, .ro, 0, 1, 0⟩
  | .SEC_STATUS_KEEPER_WEAR => ⟨.SEC_STATUS, 8, 8, .ro, 0, 1, 0⟩
  | .SEC_STATUS_CLAIMS => ⟨.SEC_STATUS, 32, 32, .ro, 0, 1, 0⟩
  | .SEC_EVENTS_TAG_FAILS => ⟨.SEC_EVENTS, 0, 16, .ro, 0, 1, 0⟩
  | .SEC_EVENTS_COUNTER_FAILS => ⟨.SEC_EVENTS, 16, 16, .ro, 0, 1, 0⟩
  | .SEC_EVENTS_SLOT_FAILS => ⟨.SEC_EVENTS, 32, 16, .ro, 0, 1, 0⟩
  | .SEC_EVENTS_BOOT_FAILS => ⟨.SEC_EVENTS, 48, 16, .ro, 0, 1, 0⟩
  | .SEC_XMSS_IDX_NEXT => ⟨.SEC_XMSS_IDX, 0, 40, .ro, 0, 1, 0⟩
  | .SEC_XMSS_IDX_EXHAUSTED => ⟨.SEC_XMSS_IDX, 40, 1, .ro, 0, 1, 0⟩
  | .SEC_IDPK_PK => ⟨.SEC_IDPK, 0, 64, .ro, 0, 1, 0⟩
  | .SEC_ROOT_HASH => ⟨.SEC_ROOT, 0, 64, .ro, 0, 1, 0⟩
  | .SEC_SLOT_STATE => ⟨.SEC_SLOT, 0, 2, .ro, 0, 1, 0⟩
  | .SEC_SLOT_RIGHTS => ⟨.SEC_SLOT, 8, 9, .ro, 0, 1, 0⟩
  | .SEC_SLOT_SCOPE => ⟨.SEC_SLOT, 24, 5, .ro, 0, 1, 0⟩
  | .SEC_SLOT_CTR_LAST => ⟨.SEC_SLOT_CTR, 0, 64, .ro, 0, 1, 0⟩
  | .SEC_BOOT_STATE => ⟨.SEC_BOOT, 0, 2, .ro, 0, 1, 0⟩
  | .SEC_BOOT_VERSION => ⟨.SEC_BOOT, 8, 32, .ro, 0, 1, 0⟩
  | .SEC_BOOTMIN_MIN => ⟨.SEC_BOOTMIN, 0, 32, .ro, 0, 1, 0⟩
  | .CTR_USEL_SEL => ⟨.CTR_USEL, 0, 32, .rw, 0, 1, 0⟩
  | .CTR_SEL_SEL => ⟨.CTR_SEL, 0, 32, .rw, 0, 1, 0⟩
  | .CTR_USEL_ENABLE => ⟨.CTR_USEL, 32, 1, .rw, 0, 1, 0⟩
  | .CTR_SEL_ENABLE => ⟨.CTR_SEL, 32, 1, .rw, 0, 1, 0⟩
  | .CTR_USEL_WRAPPED => ⟨.CTR_USEL, 33, 1, .w1c, 0, 1, 0⟩
  | .CTR_SEL_WRAPPED => ⟨.CTR_SEL, 33, 1, .w1c, 0, 1, 0⟩
  | .CTR_USEL_CFG_ERR => ⟨.CTR_USEL, 34, 1, .w1c, 0, 1, 0⟩
  | .CTR_SEL_CFG_ERR => ⟨.CTR_SEL, 34, 1, .w1c, 0, 1, 0⟩
  | .CTR_VAL_VALUE => ⟨.CTR_VAL, 0, 64, .rw, 0, 1, 0⟩
  | .CTR_UVAL_VALUE => ⟨.CTR_UVAL, 0, 64, .rw, 0, 1, 0⟩
  | .CTR_STATUS_SNAPS => ⟨.CTR_STATUS, 0, 16, .ro, 0, 1, 0⟩
  | .CTR_STATUS_SETS => ⟨.CTR_STATUS, 16, 16, .ro, 0, 1, 0⟩

/-- The fields of a register, lowest bit first as the maps list them. -/
def Reg.flds : Reg → List Fld
  | .ID_PART => [.ID_PART_CODE, .ID_PART_MODREV]
  | .ID_SERIAL => [.ID_SERIAL_SERIAL]
  | .ID_PRESENT => [.ID_PRESENT_DIES, .ID_PRESENT_HUBS, .ID_PRESENT_GUESTS]
  | .ID_DIE_STEP => [.ID_DIE_STEP_STEP]
  | .ID_HUB_STEP => [.ID_HUB_STEP_STEP]
  | .ID_CONTRACT => [.ID_CONTRACT_LEVEL]
  | .ID_CAP_UNIT => [.ID_CAP_UNIT_UNITS, .ID_CAP_UNIT_GROUP, .ID_CAP_UNIT_LANES, .ID_CAP_UNIT_ISSUE, .ID_CAP_UNIT_PER_CLUSTER, .ID_CAP_UNIT_PER_REGION, .ID_CAP_UNIT_PER_DIE]
  | .ID_CAP_TILE => [.ID_CAP_TILE_M, .ID_CAP_TILE_N, .ID_CAP_TILE_K64, .ID_CAP_TILE_K32, .ID_CAP_TILE_K16, .ID_CAP_TILE_K8, .ID_CAP_TILE_K4, .ID_CAP_TILE_FORMATS]
  | .ID_CAP_MEM => [.ID_CAP_MEM_STACKS, .ID_CAP_MEM_CHANNELS, .ID_CAP_MEM_STACK_GIB, .ID_CAP_MEM_TAPS, .ID_CAP_MEM_CASK_KIB]
  | .ID_CAP_PORT => [.ID_CAP_PORT_TILUS, .ID_CAP_PORT_PCIE, .ID_CAP_PORT_CORES, .ID_CAP_PORT_COPY_PER_HUB, .ID_CAP_PORT_GUEST_SITES]
  | .ID_FEAT => [.ID_FEAT_FEAT]
  | .ID_DIE_FEAT => [.ID_DIE_FEAT_FEAT]
  | .ID_PART_MAP => [.ID_PART_MAP_PART]
  | .ID_PART_VALID => [.ID_PART_VALID_DIES]
  | .ID_PART_HUB => [.ID_PART_HUB_PRIMARY, .ID_PART_HUB_SECONDARY, .ID_PART_HUB_ACTING, .ID_PART_HUB_VALID]
  | .ID_DIST_GEN => [.ID_DIST_GEN_GEN]
  | .TIME_NOW => [.TIME_NOW_NOW]
  | .TIME_STATUS => [.TIME_STATUS_STATE, .TIME_STATUS_ACTING, .TIME_STATUS_UPPORT, .TIME_STATUS_DEPTH, .TIME_STATUS_CONFLICT, .TIME_STATUS_DEALER]
  | .TIME_CTRL => [.TIME_CTRL_ROLE, .TIME_CTRL_BEACON_EN, .TIME_CTRL_SLEW_ONLY]
  | .TIME_DEALER_SET => [.TIME_DEALER_SET_TIME]
  | .TIME_OFFSET => [.TIME_OFFSET_OFFSET]
  | .TIME_HOLD => [.TIME_HOLD_HOLD_MS]
  | .TIME_EVENTS => [.TIME_EVENTS_STEPS, .TIME_EVENTS_REPARENTS, .TIME_EVENTS_LOSSES, .TIME_EVENTS_CONFLICTS]
  | .TIME_PORT => [.TIME_PORT_DELAY, .TIME_PORT_VALID, .TIME_PORT_LOST, .TIME_PORT_PDEPTH]
  | .TIME_ASYM => [.TIME_ASYM_ASYM]
  | .TIME_EPOCH => [.TIME_EPOCH_EPOCH, .TIME_EPOCH_MODE]
  | .RING_HUB => [.RING_HUB_TALLY_USED, .RING_HUB_TALLY_FULL]
  | .RING_CTRL => [.RING_CTRL_ENABLE, .RING_CTRL_RESUME, .RING_CTRL_DISCARD, .RING_CTRL_LOC, .RING_CTRL_SLOTS_LOG2, .RING_CTRL_SCAN, .RING_CTRL_SCHEDULE, .RING_CTRL_MODULE, .RING_CTRL_PART, .RING_CTRL_GAP, .RING_CTRL_ASID]
  | .RING_BASE => [.RING_BASE_ADDR]
  | .RING_PROD => [.RING_PROD_ADDR]
  | .RING_CONS => [.RING_CONS_ADDR]
  | .RING_CPL => [.RING_CPL_ADDR]
  | .RING_STATUS => [.RING_STATUS_DRAINED, .RING_STATUS_HOST_STOPPED, .RING_STATUS_CFG_ERR, .RING_STATUS_PROD_ERR, .RING_STATUS_TALLY_WAIT, .RING_STATUS_OPEN, .RING_STATUS_SCANS]
  | .RING_ACCEPT => [.RING_ACCEPT_POS]
  | .RING_DONE => [.RING_DONE_POS]
  | .CLR_CTRL => [.CLR_CTRL_ENABLE]
  | .CLR_BASE => [.CLR_BASE_ADDR]
  | .CLR_COUNT => [.CLR_COUNT_CASKS]
  | .CLR_STATUS => [.CLR_STATUS_READY, .CLR_STATUS_CFG_ERR, .CLR_STATUS_FORMATTING, .CLR_STATUS_FREE]
  | .CLR_USE => [.CLR_USE_ALLOCATED, .CLR_USE_RETIRED]
  | .CLR_EVENTS => [.CLR_EVENTS_ALLOCS, .CLR_EVENTS_FREES, .CLR_EVENTS_MOVES_IN, .CLR_EVENTS_HOLD_WAITS]
  | .CLR_FIRST => [.CLR_FIRST_FIRST]
  | .TAP_CTRL => [.TAP_CTRL_SHARE]
  | .TAP_STATUS => [.TAP_STATUS_BUSY, .TAP_STATUS_QUEUED]
  | .TAP_PASSES => [.TAP_PASSES_PASSES, .TAP_PASSES_CASKS]
  | .TAP_BYTES => [.TAP_BYTES_BYTES]
  | .TAP_EVENTS => [.TAP_EVENTS_HOLD_RESTARTS, .TAP_EVENTS_UNCORRECTABLE, .TAP_EVENTS_QUEUE_FULL]
  | .TAP_CAP => [.TAP_CAP_ROWS_PER_PASS, .TAP_CAP_MAX_TOPK, .TAP_CAP_MAX_ROWS, .TAP_CAP_MAC8, .TAP_CAP_MAC16]
  | .MEM_CTRL => [.MEM_CTRL_RETRAIN, .MEM_CTRL_WIN_SCHED, .MEM_CTRL_SCHEDULE, .MEM_CTRL_LANE_LIMIT, .MEM_CTRL_SCRUB_EN, .MEM_CTRL_SCRUB_HOURS, .MEM_CTRL_PEAK_CLR]
  | .MEM_STATUS => [.MEM_STATUS_TRAINED, .MEM_STATUS_PENDING, .MEM_STATUS_WINDOW, .MEM_STATUS_SELF_REFRESH, .MEM_STATUS_RATE, .MEM_STATUS_THROTTLED, .MEM_STATUS_STOPPED, .MEM_STATUS_CONTENTS_LOST, .MEM_STATUS_WINDOWS]
  | .MEM_THERM => [.MEM_THERM_TEMP, .MEM_THERM_PEAK, .MEM_THERM_HOT_DIE]
  | .MEM_ERR => [.MEM_ERR_CORRECTED, .MEM_ERR_UNCORRECTABLE, .MEM_ERR_SCRUB_FIXED]
  | .MEM_LANESEL => [.MEM_LANESEL_CHANNEL, .MEM_LANESEL_LANE]
  | .MEM_LANE => [.MEM_LANE_ERRORS, .MEM_LANE_FLAGGED, .MEM_LANE_SPARED, .MEM_LANE_CARRIED, .MEM_LANE_SPARE, .MEM_LANE_SPARE_IN_USE]
  | .MEM_RETIRED => [.MEM_RETIRED_CHANNELS]
  | .MEM_CHAN => [.MEM_CHAN_SPARES_USED, .MEM_CHAN_CARRIED, .MEM_CHAN_RETIRED, .MEM_CHAN_CORRECTED]
  | .MEM_PMAP => [.MEM_PMAP_DI_GIB, .MEM_PMAP_MI_GIB, .MEM_PMAP_CFG_ERR]
  | .XL_AST => [.XL_AST_LOG2, .XL_AST_ENABLE, .XL_AST_BASE]
  | .XL_FQ_BASE => [.XL_FQ_BASE_ADDR]
  | .XL_FQ_CTRL => [.XL_FQ_CTRL_ENABLE, .XL_FQ_CTRL_LOC, .XL_FQ_CTRL_SIZE_LOG2, .XL_FQ_CTRL_WAIT_US]
  | .XL_FQ_WORDS => [.XL_FQ_WORDS_ADDR]
  | .XL_FQ_STATUS => [.XL_FQ_STATUS_PROD, .XL_FQ_STATUS_FULL, .XL_FQ_STATUS_CFG_ERR, .XL_FQ_STATUS_CONS_ERR, .XL_FQ_STATUS_PENDING, .XL_FQ_STATUS_ACCESS_ERR, .XL_FQ_STATUS_STALLS]
  | .XL_SVC_BASE => [.XL_SVC_BASE_ADDR]
  | .XL_SVC_CTRL => [.XL_SVC_CTRL_ENABLE, .XL_SVC_CTRL_SIZE_LOG2, .XL_SVC_CTRL_LIMIT_US]
  | .XL_SVC_PROD => [.XL_SVC_PROD_PROD]
  | .XL_SVC_CONS => [.XL_SVC_CONS_CONS]
  | .XL_SVC_REPLY => [.XL_SVC_REPLY_TAG, .XL_SVC_REPLY_ACTION]
  | .XL_SVC_STATUS => [.XL_SVC_STATUS_OPEN, .XL_SVC_STATUS_FULL, .XL_SVC_STATUS_CFG_ERR, .XL_SVC_STATUS_CONS_ERR, .XL_SVC_STATUS_TIMEOUTS, .XL_SVC_STATUS_BAD_REPLY]
  | .XL_TC_STATS => [.XL_TC_STATS_MISSES, .XL_TC_STATS_INVALS, .XL_TC_STATS_DISCARDS]
  | .PCI_LINK => [.PCI_LINK_UP, .PCI_LINK_SPEED, .PCI_LINK_WIDTH, .PCI_LINK_FLIT, .PCI_LINK_BME, .PCI_LINK_STOPPED]
  | .PCI_HOST => [.PCI_HOST_RID, .PCI_HOST_RID_MASK]
  | .PCI_APER => [.PCI_APER_BASE]
  | .PCI_EVENTS => [.PCI_EVENTS_RETRAINS, .PCI_EVENTS_LINK_DOWNS, .PCI_EVENTS_HOT_RESETS, .PCI_EVENTS_FLRS]
  | .PCI_INBOUND => [.PCI_INBOUND_UR, .PCI_INBOUND_HOLES, .PCI_INBOUND_CELLAR, .PCI_INBOUND_UNCORRECTABLE]
  | .PCI_LOST => [.PCI_LOST_COMMANDS]
  | .PCI_CPY => [.PCI_CPY_BUSY, .PCI_CPY_QUEUED, .PCI_CPY_COMMANDS]
  | .PCI_PEER => [.PCI_PEER_RID, .PCI_PEER_ENABLE, .PCI_PEER_READ, .PCI_PEER_WRITE, .PCI_PEER_STATE]
  | .PCI_PEER_BAR0 => [.PCI_PEER_BAR0_ADDR]
  | .PCI_PEER_SERIAL => [.PCI_PEER_SERIAL_SERIAL]
  | .PCI_PEER_WIN => [.PCI_PEER_WIN_BASE_GIB, .PCI_PEER_WIN_SIZE_GIB]
  | .CHK_BIND => [.CHK_BIND_BOUND, .CHK_BIND_KIND, .CHK_BIND_CRC64, .CHK_BIND_PART, .CHK_BIND_MODULE, .CHK_BIND_SOURCE]
  | .CHK_MSGS => [.CHK_MSGS_MESSAGES, .CHK_MSGS_CRC_BAD, .CHK_MSGS_SHORT, .CHK_MSGS_LOST_ENTRIES]
  | .CHK_SEQ => [.CHK_SEQ_SKIPS, .CHK_SEQ_REPEATS, .CHK_SEQ_NOT_SEEN]
  | .CHK_LAST => [.CHK_LAST_LAST]
  | .CHK_CRC => [.CHK_CRC_CRC]
  | .CHK_CTRL => [.CHK_CTRL_CLEAR]
  | .CRX_CTRL => [.CRX_CTRL_RETRAIN, .CRX_CTRL_WIN_SCHED, .CRX_CTRL_SCHEDULE, .CRX_CTRL_LANE_LIMIT, .CRX_CTRL_DISABLE]
  | .CRX_STATUS => [.CRX_STATUS_STATE, .CRX_STATUS_WIDTH_TX, .CRX_STATUS_WIDTH_RX, .CRX_STATUS_SPARES_RX, .CRX_STATUS_PENDING, .CRX_STATUS_LINK, .CRX_STATUS_WINDOWS]
  | .CRX_ERR => [.CRX_ERR_CRC_ERRORS, .CRX_ERR_REPLAYS, .CRX_ERR_FORCED]
  | .CRX_LANESEL => [.CRX_LANESEL_LANE]
  | .CRX_LANE => [.CRX_LANE_ERRORS, .CRX_LANE_FLAGGED, .CRX_LANE_SPARED, .CRX_LANE_FAILED, .CRX_LANE_SPARE, .CRX_LANE_SPARE_IN_USE]
  | .CRX_GSTAT => [.CRX_GSTAT_STATE, .CRX_GSTAT_OUTSTANDING, .CRX_GSTAT_MAX_OUT, .CRX_GSTAT_RATE]
  | .CRX_GID_LO => [.CRX_GID_LO_ID]
  | .CRX_GID_HI => [.CRX_GID_HI_ID]
  | .CRX_GDENY => [.CRX_GDENY_DENIED, .CRX_GDENY_LAST_REASON]
  | .CRX_GLAST => [.CRX_GLAST_ADDR]
  | .CRX_GRULE_BASE => [.CRX_GRULE_BASE_BASE]
  | .CRX_GRULE_SIZE => [.CRX_GRULE_SIZE_VALID, .CRX_GRULE_SIZE_RIGHTS, .CRX_GRULE_SIZE_PART, .CRX_GRULE_SIZE_SIZE]
  | .TLS_NODE => [.TLS_NODE_NODE, .TLS_NODE_VALID]
  | .TLS_CTRL => [.TLS_CTRL_HOPS, .TLS_CTRL_REMOTE_US]
  | .TLS_STATUS => [.TLS_STATUS_CFG_ERR, .TLS_STATUS_DUP_NODE, .TLS_STATUS_ROUTE_FAILS, .TLS_STATUS_LATE_RESP]
  | .TLS_PCTRL => [.TLS_PCTRL_ENABLE]
  | .TLS_PSTAT => [.TLS_PSTAT_STATE, .TLS_PSTAT_WIDTH, .TLS_PSTAT_PARTNER_VALID, .TLS_PSTAT_PARTNER, .TLS_PSTAT_LOSSES, .TLS_PSTAT_RETRAINS]
  | .TLS_PERR => [.TLS_PERR_CRC_ERRORS, .TLS_PERR_REPLAYS, .TLS_PERR_FEC_FIXED]
  | .TLS_PFRAME => [.TLS_PFRAME_PRIO_FRAMES, .TLS_PFRAME_RESV_OVER, .TLS_PFRAME_RESV_MISS]
  | .TLS_PRESV => [.TLS_PRESV_USED, .TLS_PRESV_SUM_NS]
  | .TLS_RES => [.TLS_RES_OFFSET_NS, .TLS_RES_SLOT_NS]
  | .TLS_RES_FLOW => [.TLS_RES_FLOW_FLOW_ID, .TLS_RES_FLOW_KIND, .TLS_RES_FLOW_PART, .TLS_RES_FLOW_SCHEDULE, .TLS_RES_FLOW_VALID]
  | .TLS_GROUTE => [.TLS_GROUTE_MASK]
  | .TLS_LROUTE => [.TLS_LROUTE_MASK]
  | .PWR_CAP => [.PWR_CAP_MODULE_W, .PWR_CAP_DIE_W, .PWR_CAP_TRUMP]
  | .PWR_MODULE => [.PWR_MODULE_EST_W, .PWR_MODULE_AVG_W, .PWR_MODULE_EFFECTIVE_W]
  | .PWR_CLASS => [.PWR_CLASS_LINKS_W, .PWR_CLASS_MEMORY_W, .PWR_CLASS_COMPUTE_W]
  | .PWR_STATUS => [.PWR_STATUS_COOL_OK, .PWR_STATUS_COOL_LOST, .PWR_STATUS_COOL_STOP, .PWR_STATUS_ALERT_C, .PWR_STATUS_ALERT_M, .PWR_STATUS_ALERT_H, .PWR_STATUS_GUARD, .PWR_STATUS_GUARD_WINDOWS, .PWR_STATUS_THROTTLE_MARKERS]
  | .PWR_HUB => [.PWR_HUB_EST_W, .PWR_HUB_TEMP, .PWR_HUB_PEAK]
  | .PWR_IDLE => [.PWR_IDLE_LEVEL, .PWR_IDLE_STATE, .PWR_IDLE_CFG_ERR]
  | .PWR_DIE => [.PWR_DIE_EST_W, .PWR_DIE_BUBBLE, .PWR_DIE_PSTATE, .PWR_DIE_REQ, .PWR_DIE_FORCED, .PWR_DIE_STRETCH, .PWR_DIE_CAUSE]
  | .PWR_DIE_EVT => [.PWR_DIE_EVT_CAP_WINDOWS, .PWR_DIE_EVT_DROOPS, .PWR_DIE_EVT_FORCED_WINDOWS, .PWR_DIE_EVT_HELD_STEPS]
  | .PWR_STRETCH => [.PWR_STRETCH_CYCLES]
  | .PWR_TEMP => [.PWR_TEMP_TEMP, .PWR_TEMP_PEAK]
  | .PWR_FUSE => [.PWR_FUSE_VCORE_MV, .PWR_FUSE_LEAK85_W]
  | .PWR_STACK => [.PWR_STACK_EST_DW, .PWR_STACK_SLOTS]
  | .RST_STATUS => [.RST_STATUS_PHASE, .RST_STATUS_CAUSE, .RST_STATUS_HALT, .RST_STATUS_START_MS]
  | .RST_FAILED => [.RST_FAILED_DIES, .RST_FAILED_HUBS, .RST_FAILED_STACKS]
  | .RST_COUNTS => [.RST_COUNTS_PART_FAILED, .RST_COUNTS_REPLAYED, .RST_COUNTS_ABORTED, .RST_COUNTS_TAKEOVERS]
  | .RST_HUB => [.RST_HUB_STATE, .RST_HUB_ACTING, .RST_HUB_MIRROR]
  | .RST_PART => [.RST_PART_STATE, .RST_PART_MIRRORED, .RST_PART_MIRROR, .RST_PART_RESETS, .RST_PART_FAILED_DIES]
  | .RST_DIE => [.RST_DIE_STATE, .RST_DIE_CORES_HELD, .RST_DIE_FAIL_CAUSE]
  | .SEC_STATUS => [.SEC_STATUS_CLAIMED, .SEC_STATUS_ROOT_SET, .SEC_STATUS_KEEPER_OK, .SEC_STATUS_KEEPER_WEAR, .SEC_STATUS_CLAIMS]
  | .SEC_EVENTS => [.SEC_EVENTS_TAG_FAILS, .SEC_EVENTS_COUNTER_FAILS, .SEC_EVENTS_SLOT_FAILS, .SEC_EVENTS_BOOT_FAILS]
  | .SEC_XMSS_IDX => [.SEC_XMSS_IDX_NEXT, .SEC_XMSS_IDX_EXHAUSTED]
  | .SEC_IDPK => [.SEC_IDPK_PK]
  | .SEC_ROOT => [.SEC_ROOT_HASH]
  | .SEC_SLOT => [.SEC_SLOT_STATE, .SEC_SLOT_RIGHTS, .SEC_SLOT_SCOPE]
  | .SEC_SLOT_CTR => [.SEC_SLOT_CTR_LAST]
  | .SEC_BOOT => [.SEC_BOOT_STATE, .SEC_BOOT_VERSION]
  | .SEC_BOOTMIN => [.SEC_BOOTMIN_MIN]
  | .CTR_USEL => [.CTR_USEL_SEL, .CTR_USEL_ENABLE, .CTR_USEL_WRAPPED, .CTR_USEL_CFG_ERR]
  | .CTR_SEL => [.CTR_SEL_SEL, .CTR_SEL_ENABLE, .CTR_SEL_WRAPPED, .CTR_SEL_CFG_ERR]
  | .CTR_VAL => [.CTR_VAL_VALUE]
  | .CTR_UVAL => [.CTR_UVAL_VALUE]
  | .CTR_STATUS => [.CTR_STATUS_SNAPS, .CTR_STATUS_SETS]

/-- A number of its own for each field, for the sparse register store. -/
def Fld.code (f : Fld) : Nat := f.ctorIdx

/-- In which blocks a register lies. -/
inductive Blk where
  | die | hub
deriving DecidableEq, Repr

/-- How a register is replicated over blocks: one for the module, one for each die, one for each hub, or one for the hubs
that hold a PCIe port (H0, H1) or a guest site (H2, H3). -/
inductive RegScope where
  | modl | die | hub | pcie | guest
deriving DecidableEq, Repr

/-- Where a register lies in a block: offset of instance (0, 0), two strides and counts, and the index of its first
instance in the register store. -/
structure Place where
  reg : Reg
  blk : Blk
  scope : RegScope
  base : Nat
  s1 : Nat
  n1 : Nat
  s2 : Nat
  n2 : Nat
  ixBase : Nat
deriving DecidableEq, Repr

/-- Register places, part 1 (Table 12-2 and the register tables of the chapters). -/
def places1 : List Place :=
  [⟨.ID_PART, .die, .modl, 0x0, 0x8, 1, 8, 1, 0⟩,
   ⟨.ID_PART, .hub, .modl, 0x0, 0x8, 1, 8, 1, 0⟩,
   ⟨.ID_SERIAL, .die, .modl, 0x8, 0x8, 1, 8, 1, 0⟩,
   ⟨.ID_SERIAL, .hub, .modl, 0x8, 0x8, 1, 8, 1, 0⟩,
   ⟨.ID_PRESENT, .die, .modl, 0x10, 0x8, 1, 8, 1, 0⟩,
   ⟨.ID_PRESENT, .hub, .modl, 0x10, 0x8, 1, 8, 1, 0⟩,
   ⟨.ID_DIE_STEP, .die, .modl, 0x18, 0x8, 1, 8, 1, 0⟩,
   ⟨.ID_DIE_STEP, .hub, .modl, 0x18, 0x8, 1, 8, 1, 0⟩,
   ⟨.ID_HUB_STEP, .die, .modl, 0x20, 0x8, 1, 8, 1, 0⟩,
   ⟨.ID_HUB_STEP, .hub, .modl, 0x20, 0x8, 1, 8, 1, 0⟩,
   ⟨.ID_CONTRACT, .die, .modl, 0x28, 0x8, 1, 8, 1, 0⟩,
   ⟨.ID_CONTRACT, .hub, .modl, 0x28, 0x8, 1, 8, 1, 0⟩,
   ⟨.ID_CAP_UNIT, .die, .modl, 0x30, 0x8, 1, 8, 1, 0⟩,
   ⟨.ID_CAP_UNIT, .hub, .modl, 0x30, 0x8, 1, 8, 1, 0⟩,
   ⟨.ID_CAP_TILE, .die, .modl, 0x38, 0x8, 1, 8, 1, 0⟩,
   ⟨.ID_CAP_TILE, .hub, .modl, 0x38, 0x8, 1, 8, 1, 0⟩,
   ⟨.ID_CAP_MEM, .die, .modl, 0x40, 0x8, 1, 8, 1, 0⟩,
   ⟨.ID_CAP_MEM, .hub, .modl, 0x40, 0x8, 1, 8, 1, 0⟩,
   ⟨.ID_CAP_PORT, .die, .modl, 0x48, 0x8, 1, 8, 1, 0⟩,
   ⟨.ID_CAP_PORT, .hub, .modl, 0x48, 0x8, 1, 8, 1, 0⟩,
   ⟨.ID_FEAT, .die, .modl, 0x50, 0x8, 1, 8, 1, 0⟩,
   ⟨.ID_FEAT, .hub, .modl, 0x50, 0x8, 1, 8, 1, 0⟩,
   ⟨.ID_DIE_FEAT, .die, .modl, 0x80, 0x8, 16, 8, 1, 0⟩,
   ⟨.ID_DIE_FEAT, .hub, .modl, 0x80, 0x8, 16, 8, 1, 0⟩,
   ⟨.ID_PART_MAP, .die, .modl, 0x58, 0x8, 1, 8, 1, 0⟩,
   ⟨.ID_PART_MAP, .hub, .modl, 0x58, 0x8, 1, 8, 1, 0⟩,
   ⟨.ID_PART_VALID, .die, .modl, 0x60, 0x8, 1, 8, 1, 0⟩,
   ⟨.ID_PART_VALID, .hub, .modl, 0x60, 0x8, 1, 8, 1, 0⟩,
   ⟨.ID_PART_HUB, .die, .modl, 0x100, 0x8, 16, 8, 1, 0⟩,
   ⟨.ID_PART_HUB, .hub, .modl, 0x100, 0x8, 16, 8, 1, 0⟩,
   ⟨.ID_DIST_GEN, .die, .modl, 0x180, 0x8, 1, 8, 1, 0⟩,
   ⟨.ID_DIST_GEN, .hub, .modl, 0x180, 0x8, 1, 8, 1, 0⟩,
   ⟨.TIME_NOW, .die, .modl, 0x2000, 0x8, 1, 8, 1, 0⟩,
   ⟨.TIME_NOW, .hub, .modl, 0x2000, 0x8, 1, 8, 1, 0⟩,
   ⟨.TIME_STATUS, .hub, .modl, 0x2008, 0x8, 1, 8, 1, 0⟩,
   ⟨.TIME_CTRL, .hub, .modl, 0x2010, 0x8, 1, 8, 1, 0⟩,
   ⟨.TIME_DEALER_SET, .hub, .modl, 0x2018, 0x8, 1, 8, 1, 0⟩,
   ⟨.TIME_OFFSET, .hub, .modl, 0x2020, 0x8, 1, 8, 1, 0⟩,
   ⟨.TIME_HOLD, .hub, .modl, 0x2028, 0x8, 1, 8, 1, 0⟩,
   ⟨.TIME_EVENTS, .hub, .modl, 0x2030, 0x8, 1, 8, 1, 0⟩,
   ⟨.TIME_PORT, .hub, .hub, 0x2040, 0x8, 4, 8, 1, 0⟩,
   ⟨.TIME_ASYM, .hub, .hub, 0x2060, 0x8, 4, 8, 1, 0⟩,
   ⟨.TIME_EPOCH, .die, .die, 0x2400, 0x8, 128, 8, 1, 0⟩,
   ⟨.RING_HUB, .hub, .hub, 0x3FF8, 0x8, 1, 8, 1, 0⟩,
   ⟨.RING_CTRL, .hub, .modl, 0x4000, 0x40, 256, 8, 1, 0⟩,
   ⟨.RING_BASE, .hub, .modl, 0x4008, 0x40, 256, 8, 1, 0⟩,
   ⟨.RING_PROD, .hub, .modl, 0x4010, 0x40, 256, 8, 1, 0⟩,
   ⟨.RING_CONS, .hub, .modl, 0x4018, 0x40, 256, 8, 1, 0⟩,
   ⟨.RING_CPL, .hub, .modl, 0x4020, 0x40, 256, 8, 1, 0⟩,
   ⟨.RING_STATUS, .hub, .modl, 0x4028, 0x40, 256, 8, 1, 0⟩,
   ⟨.RING_ACCEPT, .hub, .modl, 0x4030, 0x40, 256, 8, 1, 0⟩,
   ⟨.RING_DONE, .hub, .modl, 0x4038, 0x40, 256, 8, 1, 0⟩,
   ⟨.CLR_CTRL, .die, .die, 0x6000, 0x40, 2, 8, 1, 0⟩,
   ⟨.CLR_BASE, .die, .die, 0x6008, 0x40, 2, 8, 1, 0⟩,
   ⟨.CLR_COUNT, .die, .die, 0x6010, 0x40, 2, 8, 1, 0⟩,
   ⟨.CLR_STATUS, .die, .die, 0x6018, 0x40, 2, 8, 1, 0⟩,
   ⟨.CLR_USE, .die, .die, 0x6020, 0x40, 2, 8, 1, 0⟩,
   ⟨.CLR_EVENTS, .die, .die, 0x6028, 0x40, 2, 8, 1, 0⟩,
   ⟨.CLR_FIRST, .die, .die, 0x6030, 0x40, 2, 8, 1, 0⟩,
   ⟨.TAP_CTRL, .die, .die, 0x7000, 0x40, 2, 8, 1, 0⟩]

/-- Register places, part 2 (Table 12-2 and the register tables of the chapters). -/
def places2 : List Place :=
  [⟨.TAP_STATUS, .die, .die, 0x7008, 0x40, 2, 8, 1, 0⟩,
   ⟨.TAP_PASSES, .die, .die, 0x7010, 0x40, 2, 8, 1, 0⟩,
   ⟨.TAP_BYTES, .die, .die, 0x7018, 0x40, 2, 8, 1, 0⟩,
   ⟨.TAP_EVENTS, .die, .die, 0x7020, 0x40, 2, 8, 1, 0⟩,
   ⟨.TAP_CAP, .die, .modl, 0x7080, 0x8, 1, 8, 1, 0⟩,
   ⟨.MEM_CTRL, .die, .die, 0x8000, 0x400, 2, 8, 1, 0⟩,
   ⟨.MEM_STATUS, .die, .die, 0x8008, 0x400, 2, 8, 1, 0⟩,
   ⟨.MEM_THERM, .die, .die, 0x8010, 0x400, 2, 8, 1, 0⟩,
   ⟨.MEM_ERR, .die, .die, 0x8018, 0x400, 2, 8, 1, 0⟩,
   ⟨.MEM_LANESEL, .die, .die, 0x8020, 0x400, 2, 8, 1, 0⟩,
   ⟨.MEM_LANE, .die, .die, 0x8028, 0x400, 2, 8, 1, 0⟩,
   ⟨.MEM_RETIRED, .die, .die, 0x8030, 0x400, 2, 8, 1, 0⟩,
   ⟨.MEM_CHAN, .die, .die, 0x8100, 0x400, 2, 8, 32, 0⟩,
   ⟨.MEM_PMAP, .hub, .modl, 0x8000, 0x8, 16, 8, 1, 0⟩,
   ⟨.XL_AST, .hub, .modl, 0x9000, 0x8, 16, 8, 1, 0⟩,
   ⟨.XL_FQ_BASE, .hub, .modl, 0x9080, 0x20, 17, 8, 1, 0⟩,
   ⟨.XL_FQ_CTRL, .hub, .modl, 0x9088, 0x20, 17, 8, 1, 0⟩,
   ⟨.XL_FQ_WORDS, .hub, .modl, 0x9090, 0x20, 17, 8, 1, 0⟩,
   ⟨.XL_FQ_STATUS, .hub, .modl, 0x9098, 0x20, 17, 8, 1, 0⟩,
   ⟨.XL_SVC_BASE, .die, .die, 0x9000, 0x8, 1, 8, 1, 0⟩,
   ⟨.XL_SVC_CTRL, .die, .die, 0x9008, 0x8, 1, 8, 1, 0⟩,
   ⟨.XL_SVC_PROD, .die, .die, 0x9010, 0x8, 1, 8, 1, 0⟩,
   ⟨.XL_SVC_CONS, .die, .die, 0x9018, 0x8, 1, 8, 1, 0⟩,
   ⟨.XL_SVC_REPLY, .die, .die, 0x9020, 0x8, 1, 8, 1, 0⟩,
   ⟨.XL_SVC_STATUS, .die, .die, 0x9028, 0x8, 1, 8, 1, 0⟩,
   ⟨.XL_TC_STATS, .die, .die, 0x9030, 0x8, 1, 8, 1, 0⟩,
   ⟨.PCI_LINK, .hub, .pcie, 0xA000, 0x8, 1, 8, 1, 0⟩,
   ⟨.PCI_HOST, .hub, .pcie, 0xA008, 0x8, 1, 8, 1, 0⟩,
   ⟨.PCI_APER, .hub, .pcie, 0xA010, 0x8, 1, 8, 1, 0⟩,
   ⟨.PCI_EVENTS, .hub, .pcie, 0xA018, 0x8, 1, 8, 1, 0⟩,
   ⟨.PCI_INBOUND, .hub, .pcie, 0xA020, 0x8, 1, 8, 1, 0⟩,
   ⟨.PCI_LOST, .hub, .pcie, 0xA028, 0x8, 1, 8, 1, 0⟩,
   ⟨.PCI_CPY, .hub, .hub, 0xA040, 0x8, 8, 8, 1, 0⟩,
   ⟨.PCI_PEER, .hub, .pcie, 0xA100, 0x20, 16, 8, 1, 0⟩,
   ⟨.PCI_PEER_BAR0, .hub, .pcie, 0xA108, 0x20, 16, 8, 1, 0⟩,
   ⟨.PCI_PEER_SERIAL, .hub, .pcie, 0xA110, 0x20, 16, 8, 1, 0⟩,
   ⟨.PCI_PEER_WIN, .hub, .pcie, 0xA118, 0x20, 16, 8, 1, 0⟩,
   ⟨.CHK_BIND, .hub, .hub, 0xB000, 0x40, 8, 8, 1, 0⟩,
   ⟨.CHK_MSGS, .hub, .hub, 0xB008, 0x40, 8, 8, 1, 0⟩,
   ⟨.CHK_SEQ, .hub, .hub, 0xB010, 0x40, 8, 8, 1, 0⟩,
   ⟨.CHK_LAST, .hub, .hub, 0xB018, 0x40, 8, 8, 1, 0⟩,
   ⟨.CHK_CRC, .hub, .hub, 0xB020, 0x40, 8, 8, 1, 0⟩,
   ⟨.CHK_CTRL, .hub, .hub, 0xB028, 0x40, 8, 8, 1, 0⟩,
   ⟨.CRX_CTRL, .die, .die, 0xC000, 0x40, 9, 8, 1, 0⟩,
   ⟨.CRX_CTRL, .hub, .hub, 0xC000, 0x40, 8, 8, 1, 144⟩,
   ⟨.CRX_STATUS, .die, .die, 0xC008, 0x40, 9, 8, 1, 0⟩,
   ⟨.CRX_STATUS, .hub, .hub, 0xC008, 0x40, 8, 8, 1, 144⟩,
   ⟨.CRX_ERR, .die, .die, 0xC010, 0x40, 9, 8, 1, 0⟩,
   ⟨.CRX_ERR, .hub, .hub, 0xC010, 0x40, 8, 8, 1, 144⟩,
   ⟨.CRX_LANESEL, .die, .die, 0xC018, 0x40, 9, 8, 1, 0⟩,
   ⟨.CRX_LANESEL, .hub, .hub, 0xC018, 0x40, 8, 8, 1, 144⟩,
   ⟨.CRX_LANE, .die, .die, 0xC020, 0x40, 9, 8, 1, 0⟩,
   ⟨.CRX_LANE, .hub, .hub, 0xC020, 0x40, 8, 8, 1, 144⟩,
   ⟨.CRX_GSTAT, .hub, .guest, 0xC400, 0x8, 1, 8, 1, 0⟩,
   ⟨.CRX_GID_LO, .hub, .guest, 0xC408, 0x8, 1, 8, 1, 0⟩,
   ⟨.CRX_GID_HI, .hub, .guest, 0xC410, 0x8, 1, 8, 1, 0⟩,
   ⟨.CRX_GDENY, .hub, .guest, 0xC418, 0x8, 1, 8, 1, 0⟩,
   ⟨.CRX_GLAST, .hub, .guest, 0xC420, 0x8, 1, 8, 1, 0⟩,
   ⟨.CRX_GRULE_BASE, .hub, .guest, 0xC440, 0x10, 16, 8, 1, 0⟩,
   ⟨.CRX_GRULE_SIZE, .hub, .guest, 0xC448, 0x10, 16, 8, 1, 0⟩]

/-- Register places, part 3 (Table 12-2 and the register tables of the chapters). -/
def places3 : List Place :=
  [⟨.TLS_NODE, .hub, .modl, 0xD000, 0x8, 1, 8, 1, 0⟩,
   ⟨.TLS_CTRL, .hub, .modl, 0xD008, 0x8, 1, 8, 1, 0⟩,
   ⟨.TLS_STATUS, .hub, .modl, 0xD010, 0x8, 1, 8, 1, 0⟩,
   ⟨.TLS_PCTRL, .hub, .hub, 0xD100, 0x40, 4, 8, 1, 0⟩,
   ⟨.TLS_PSTAT, .hub, .hub, 0xD108, 0x40, 4, 8, 1, 0⟩,
   ⟨.TLS_PERR, .hub, .hub, 0xD110, 0x40, 4, 8, 1, 0⟩,
   ⟨.TLS_PFRAME, .hub, .hub, 0xD118, 0x40, 4, 8, 1, 0⟩,
   ⟨.TLS_PRESV, .hub, .hub, 0xD120, 0x40, 4, 8, 1, 0⟩,
   ⟨.TLS_RES, .hub, .hub, 0xD200, 0x100, 4, 16, 16, 0⟩,
   ⟨.TLS_RES_FLOW, .hub, .hub, 0xD208, 0x100, 4, 16, 16, 0⟩,
   ⟨.TLS_GROUTE, .hub, .modl, 0xD600, 0x8, 64, 8, 1, 0⟩,
   ⟨.TLS_LROUTE, .hub, .modl, 0xD800, 0x8, 128, 8, 1, 0⟩,
   ⟨.PWR_CAP, .hub, .modl, 0xE000, 0x8, 1, 8, 1, 0⟩,
   ⟨.PWR_MODULE, .hub, .modl, 0xE008, 0x8, 1, 8, 1, 0⟩,
   ⟨.PWR_CLASS, .hub, .modl, 0xE010, 0x8, 1, 8, 1, 0⟩,
   ⟨.PWR_STATUS, .hub, .modl, 0xE018, 0x8, 1, 8, 1, 0⟩,
   ⟨.PWR_HUB, .hub, .hub, 0xE020, 0x8, 1, 8, 1, 0⟩,
   ⟨.PWR_IDLE, .hub, .modl, 0xE040, 0x8, 16, 8, 1, 0⟩,
   ⟨.PWR_DIE, .die, .die, 0xE000, 0x8, 1, 8, 1, 0⟩,
   ⟨.PWR_DIE_EVT, .die, .die, 0xE008, 0x8, 1, 8, 1, 0⟩,
   ⟨.PWR_STRETCH, .die, .die, 0xE010, 0x8, 1, 8, 1, 0⟩,
   ⟨.PWR_TEMP, .die, .die, 0xE018, 0x8, 1, 8, 1, 0⟩,
   ⟨.PWR_FUSE, .die, .die, 0xE020, 0x8, 1, 8, 1, 0⟩,
   ⟨.PWR_STACK, .die, .die, 0xE028, 0x8, 2, 8, 1, 0⟩,
   ⟨.RST_STATUS, .hub, .modl, 0x10000, 0x8, 1, 8, 1, 0⟩,
   ⟨.RST_FAILED, .hub, .modl, 0x10008, 0x8, 1, 8, 1, 0⟩,
   ⟨.RST_COUNTS, .hub, .modl, 0x10010, 0x8, 1, 8, 1, 0⟩,
   ⟨.RST_HUB, .hub, .hub, 0x10018, 0x8, 1, 8, 1, 0⟩,
   ⟨.RST_PART, .hub, .modl, 0x10100, 0x8, 16, 8, 1, 0⟩,
   ⟨.RST_DIE, .die, .die, 0x10000, 0x8, 1, 8, 1, 0⟩,
   ⟨.SEC_STATUS, .hub, .modl, 0xF000, 0x8, 1, 8, 1, 0⟩,
   ⟨.SEC_EVENTS, .hub, .modl, 0xF008, 0x8, 1, 8, 1, 0⟩,
   ⟨.SEC_XMSS_IDX, .hub, .modl, 0xF010, 0x8, 1, 8, 1, 0⟩,
   ⟨.SEC_IDPK, .hub, .modl, 0xF040, 0x8, 9, 8, 1, 0⟩,
   ⟨.SEC_ROOT, .hub, .modl, 0xF090, 0x8, 4, 8, 1, 0⟩,
   ⟨.SEC_SLOT, .hub, .modl, 0xF100, 0x10, 16, 8, 1, 0⟩,
   ⟨.SEC_SLOT_CTR, .hub, .modl, 0xF108, 0x10, 16, 8, 1, 0⟩,
   ⟨.SEC_BOOT, .hub, .modl, 0xF200, 0x8, 16, 8, 1, 0⟩,
   ⟨.SEC_BOOTMIN, .hub, .modl, 0xF280, 0x8, 16, 8, 1, 0⟩,
   ⟨.CTR_USEL, .die, .die, 0x20000, 0x8, 4, 8, 1, 0⟩,
   ⟨.CTR_SEL, .die, .die, 0x20040, 0x8, 16, 8, 1, 0⟩,
   ⟨.CTR_SEL, .hub, .hub, 0x20040, 0x8, 16, 8, 1, 256⟩,
   ⟨.CTR_VAL, .die, .die, 0x200C0, 0x8, 16, 8, 1, 0⟩,
   ⟨.CTR_VAL, .hub, .hub, 0x200C0, 0x8, 16, 8, 1, 256⟩,
   ⟨.CTR_UVAL, .die, .die, 0x21000, 0x20, 128, 8, 4, 0⟩,
   ⟨.CTR_STATUS, .die, .die, 0x20140, 0x8, 1, 8, 1, 0⟩,
   ⟨.CTR_STATUS, .hub, .hub, 0x20140, 0x8, 1, 8, 1, 16⟩]

/-- Every register place of control space. -/
def places : List Place := places1 ++ places2 ++ places3

end Sys2Proof.Machine
end

