-- ==== Sys2Proof/Machine/Store.lean ====
section
/-!
DEFINITION. Sparse stores in one canonical form, bit-field and byte-order helpers (R3), and the store of register fields.

A store is a list of (key, value) pairs with keys strictly rising and no entry equal to what an unlisted key reads as.
Memory is such a store of bytes; the registers are such a store of field values, keyed by field and instance.
-/

namespace Sys2Proof.Machine

/-- A sparse store. -/
abbrev FMap (α : Type) : Type := List (Nat × α)

/-- The value at key `k`; an unlisted key reads as `d`. -/
def FMap.fget {α : Type} (m : FMap α) (k : Nat) (d : α) : α :=
  match m with
  | [] => d
  | (k', v) :: t => if k' = k then v else FMap.fget t k d

/-- The store with `v` listed at key `k`. -/
def FMap.ins {α : Type} (m : FMap α) (k : Nat) (v : α) : FMap α :=
  match m with
  | [] => [(k, v)]
  | (k', v') :: t => if k < k' then (k, v) :: (k', v') :: t else if k = k' then (k, v) :: t else (k', v') :: FMap.ins t k v

/-- The store with `v` at key `k`; writing the default `d` removes the entry. -/
def FMap.fput {α : Type} [DecidableEq α] (m : FMap α) (k : Nat) (v d : α) : FMap α :=
  if v = d then m.filter fun e => e.1 != k else m.ins k v

/-- The store without the keys that `p` names. -/
def FMap.drop {α : Type} (m : FMap α) (p : Nat → Bool) : FMap α := m.filter fun e => !p e.1

/-- Keys strictly rising above `lo`, and no entry equal to its default. -/
def FMap.wfFrom {α : Type} [DecidableEq α] (d : Nat → α) : Nat → FMap α → Bool
  | _, [] => true
  | lo, (k, v) :: t => decide (lo ≤ k) && decide (v ≠ d k) && FMap.wfFrom d (k + 1) t

/-- The canonical form. -/
def FMap.wf {α : Type} [DecidableEq α] (d : Nat → α) (m : FMap α) : Bool := FMap.wfFrom d 0 m

/-! ## Bits and bytes -/

/-- Bits [lo+w-1:lo] of `v`. -/
def bitsOf (v lo w : Nat) : Nat := v / 2 ^ lo % 2 ^ w

/-- `v` with bits [lo+w-1:lo] replaced by `x`. -/
def setBits (v lo w x : Nat) : Nat := v - bitsOf v lo w * 2 ^ lo + x % 2 ^ w * 2 ^ lo

/-- Bit `i` of `v`. -/
def bitOf (v i : Nat) : Bool := v.testBit i

/-- `v` with bit `i` set. -/
def setBit (v i : Nat) : Nat := v ||| 2 ^ i

/-- `v` with bit `i` cleared. -/
def clrBit (v i : Nat) : Nat := if v.testBit i then v - 2 ^ i else v

/-- The indices below `n` whose bit is set in `v`, rising. -/
def bitList (v n : Nat) : List Nat := (List.range n).filter v.testBit

/-- The number of bits set in the low `n` bits of `v`. -/
def popCount (v n : Nat) : Nat := (bitList v n).length

/-- The word whose bits are the indices of `l`. -/
def maskOf (l : List Nat) : Nat := l.foldl setBit 0

/-- Bits of `b` cleared in `a`. -/
def andNot (a b : Nat) : Nat := a ^^^ (a &&& b)

def b2n (b : Bool) : Nat := if b then 1 else 0

/-- The number that little-endian bytes spell (R3). -/
def leNat : Bytes → Nat
  | [] => 0
  | b :: t => b.toNat + 256 * leNat t

/-- `n` little-endian bytes of `v` (R3). -/
def leBytes : Nat → Nat → Bytes
  | 0, _ => []
  | n + 1, v => BitVec.ofNat 8 v :: leBytes n (v / 256)

/-- `n` bytes of zero. -/
def zeroBytes (n : Nat) : Bytes := List.replicate n 0

/-- `len` bytes of `b` from offset `off`; bytes past the end read zero. -/
def sliceB (b : Bytes) (off len : Nat) : Bytes :=
  (List.range len).map fun i => b.getD (off + i) 0

/-- The little-endian number in `len` bytes of `b` at `off`. -/
def fldB (b : Bytes) (off len : Nat) : Nat := leNat (sliceB b off len)

/-- Two's complement value of the low `w` bits of `v`. -/
def toSigned (w v : Nat) : Int :=
  let x := v % 2 ^ w
  if x < 2 ^ (w - 1) then (x : Int) else (x : Int) - (2 ^ w : Nat)

/-- The low `w` bits of an integer. -/
def ofSigned (w : Nat) (i : Int) : Nat := (i % ((2 ^ w : Nat) : Int)).toNat

/-- Whole 64-byte or other units that cover `n`. -/
def divUp (n d : Nat) : Nat := (n + d - 1) / d

/-- Replaces element `i` of a list. -/
def setAt {α : Type} (l : List α) (i : Nat) (v : α) : List α := l.set i v

/-! ## Register fields -/

/-- The registers: field values by (field, instance); an unlisted field holds its reset value. -/
abbrev Regs : Type := FMap Nat

/-- Key of instance `ix` of a field in the register store. -/
def Fld.key (f : Fld) (ix : Nat) : Nat := f.code * 2 ^ 20 + ix

/-- The field's value. -/
def Regs.val (r : Regs) (f : Fld) (ix : Nat) : Nat := FMap.fget r (f.key ix) f.info.rst

/-- The store with the field set to the low bits of `v`. -/
def Regs.setVal (r : Regs) (f : Fld) (ix v : Nat) : Regs :=
  FMap.fput r (f.key ix) (v % 2 ^ f.info.width) f.info.rst

/-- The store with every field of a register instance at its reset value. -/
def Regs.resetReg (r : Regs) (g : Reg) (ix : Nat) : Regs :=
  g.flds.foldl (fun r f => r.setVal f ix f.info.rst) r

end Sys2Proof.Machine
end

