-- ==== Sys2Proof/Machine/Float.lean ====
section
/-!
DEFINITION. Number formats and arithmetic (chapter 6): unpacking, rounding once, the operations of the vector pipe, conversions,
racking into MXFP4, and the freedom of grouping that R186 leaves to sums.
-/

namespace Sys2Proof.Machine

/-- A floating value: NaN, an infinity, or (−1)^neg × m × 2^e exactly. -/
inductive FVal where
  | nan
  | inf (neg : Bool)
  | fin (neg : Bool) (m : Nat) (e : Int)
deriving DecidableEq, Repr

/-- A floating format of Table 6-1. `kind`: 0 has infinities and NaNs, 1 is E4M3 (one NaN, no infinity), 2 is E2M1 (neither).
`prec` is the significand width fraction + 1. -/
structure FFmt where
  eb : Nat
  fb : Nat
  bias : Int
  kind : Nat
  nan : Nat
deriving DecidableEq, Repr

def fB64 : FFmt := ⟨11, 52, 1023, 0, 0x7FF8000000000000⟩
def fB32 : FFmt := ⟨8, 23, 127, 0, 0x7FC00000⟩
def fB16 : FFmt := ⟨5, 10, 15, 0, 0x7E00⟩
def fW16 : FFmt := ⟨8, 7, 127, 0, 0x7FC0⟩
def fE4M3 : FFmt := ⟨4, 3, 7, 1, 0x7F⟩
def fE5M2 : FFmt := ⟨5, 2, 15, 0, 0x7E⟩
def fE2M1 : FFmt := ⟨2, 1, 1, 2, 0⟩

/-- The floating format of a code of Table 6-2; `none` for the others. -/
def fmtOfCode : Nat → Option FFmt
  | 0 => some fB64 | 1 => some fB32 | 2 => some fB16 | 3 => some fW16
  | 4 => some fE4M3 | 5 => some fE5M2 | 11 => some fE2M1 | _ => none

/-- Width in bits of a format. -/
def FFmt.width (f : FFmt) : Nat := 1 + f.eb + f.fb

/-- The largest finite value as significand and exponent (Table 6-1). -/
def FFmt.maxFin (f : FFmt) : Nat × Int :=
  match f.kind with
  | 0 => (2 ^ (f.fb + 1) - 1, f.bias - f.fb)
  | 1 => (14, 5)
  | _ => (3, 1)

/-- The encoding of the largest finite value, without its sign. -/
def FFmt.maxBits (f : FFmt) : Nat :=
  match f.kind with
  | 0 => (2 ^ f.eb - 1) * 2 ^ f.fb - 1
  | 1 => 0x7E
  | _ => 7

/-- The encoding of +∞ (kind 0). -/
def FFmt.infBits (f : FFmt) : Nat := (2 ^ f.eb - 1) * 2 ^ f.fb

def FFmt.signBit (f : FFmt) (neg : Bool) : Nat := if neg then 2 ^ (f.eb + f.fb) else 0

/-- The value of an encoding (R170). -/
def unpackF (f : FFmt) (x : Nat) : FVal :=
  let neg := x.testBit (f.eb + f.fb)
  let ex := bitsOf x f.fb f.eb
  let fr := bitsOf x 0 f.fb
  if f.kind = 0 ∧ ex = 2 ^ f.eb - 1 then (if fr = 0 then .inf neg else .nan)
  else if f.kind = 1 ∧ ex = 15 ∧ fr = 7 then .nan
  else if ex = 0 then .fin neg fr (1 - f.bias - f.fb)
  else .fin neg (2 ^ f.fb + fr) ((ex : Int) - f.bias - f.fb)

/-- m × 2^e as an integer multiple of 2^low, for low ≤ e. -/
def scaleTo (m : Nat) (e low : Int) : Nat := m * 2 ^ (e - low).toNat

/-- Comparison of two non-negative dyadic values. -/
def cmpMag (m1 : Nat) (e1 : Int) (m2 : Nat) (e2 : Int) : Ordering :=
  let low := min e1 e2
  compare (scaleTo m1 e1 low) (scaleTo m2 e2 low)

/-- Whether the discarded part rounds the significand up. `rem` over `half` (both in units of the discarded part), `sticky` an
amount below one unit. -/
def roundUp (mode : Nat) (neg odd : Bool) (rem half : Nat) (sticky : Bool) : Bool :=
  if rem = 0 ∧ sticky = false then false
  else match mode with
    | 0 => decide (rem > half) || (decide (rem = half) && (sticky || odd))
    | 1 => false
    | 2 => neg
    | _ => !neg

/-- Rounds m × 2^e (plus a sticky part) to `prec` significand bits with least exponent `emin`: significand and exponent. -/
def roundSig (prec : Nat) (emin : Int) (mode : Nat) (neg : Bool) (m : Nat) (e : Int) (sticky : Bool) : Nat × Int :=
  let top : Int := e + (Nat.log2 m : Int)
  let qe : Int := max (top - (prec : Int) + 1) emin
  if qe ≤ e then (scaleTo m e qe, qe)
  else
    let sh := (qe - e).toNat
    let q := m / 2 ^ sh
    let r := m % 2 ^ sh
    let q' := if roundUp mode neg (q % 2 = 1) r (2 ^ (sh - 1)) sticky then q + 1 else q
    (q', qe)

/-- The encoding of a significand and exponent that a format holds exactly. -/
def encodeSig (f : FFmt) (neg : Bool) (q : Nat) (qe : Int) : Nat :=
  if q < 2 ^ f.fb then f.signBit neg + q
  else if q = 2 ^ (f.fb + 1) then f.signBit neg + ((qe + 1 + f.fb + f.bias).toNat) * 2 ^ f.fb
  else f.signBit neg + ((qe + f.fb + f.bias).toNat) * 2 ^ f.fb + (q - 2 ^ f.fb)

/-- What a result beyond the largest finite value becomes: `sat` stores the largest finite value; formats without infinities
always do (Table 6-8); else as IEEE 754-2019 gives for the rounding mode. -/
def overflowF (f : FFmt) (mode : Nat) (sat neg : Bool) : Nat :=
  if sat || f.kind ≠ 0 || mode = 1 || (mode = 2 && !neg) || (mode = 3 && neg) then f.signBit neg + f.maxBits
  else f.signBit neg + f.infBits

/-- Rounds a value once into a format (R176, R181). A NaN becomes the canonical NaN (R173). -/
def roundF (f : FFmt) (mode : Nat) (sat : Bool) (sticky : Bool) : FVal → Nat
  | .nan => f.nan
  | .inf neg => if f.kind = 0 then f.signBit neg + f.infBits else f.signBit neg + f.maxBits
  | .fin neg m e =>
    if m = 0 then f.signBit neg
    else
      let (q, qe) := roundSig (f.fb + 1) (1 - f.bias - f.fb) mode neg m e sticky
      if cmpMag q qe f.maxFin.1 f.maxFin.2 = .gt then overflowF f mode sat neg else encodeSig f neg q qe

/-! ## Exact operations -/

def FVal.isNeg : FVal → Bool
  | .nan => false | .inf n => n | .fin n _ _ => n

def FVal.negate : FVal → FVal
  | .nan => .nan | .inf n => .inf (!n) | .fin n m e => .fin (!n) m e

def FVal.isZero : FVal → Bool
  | .fin _ m _ => m = 0
  | _ => false

/-- Product, exact (R174 for the special cases). -/
def mulX : FVal → FVal → FVal
  | .nan, _ => .nan
  | _, .nan => .nan
  | .inf a, y => if y.isZero then .nan else .inf (a != y.isNeg)
  | x, .inf b => if x.isZero then .nan else .inf (x.isNeg != b)
  | .fin a m e, .fin b n f => .fin (a != b) (m * n) (e + f)

/-- Sum, exact; a zero sum of opposite signs is −0 only when rounding down. -/
def addX (mode : Nat) : FVal → FVal → FVal
  | .nan, _ => .nan
  | _, .nan => .nan
  | .inf a, .inf b => if a = b then .inf a else .nan
  | .inf a, _ => .inf a
  | _, .inf b => .inf b
  | .fin a m e, .fin b n f =>
    let low := min e f
    let x : Int := if a then -(scaleTo m e low : Int) else scaleTo m e low
    let y : Int := if b then -(scaleTo n f low : Int) else scaleTo n f low
    let z := x + y
    if z = 0 then .fin (if a = b then a else decide (mode = 2)) 0 low
    else .fin (decide (z < 0)) z.natAbs low

/-- Quotient with at least `bits` significant bits, and whether a remainder was dropped. -/
def divX (bits : Nat) : FVal → FVal → FVal × Bool
  | .nan, _ => (.nan, false)
  | _, .nan => (.nan, false)
  | .inf _, .inf _ => (.nan, false)
  | .inf a, y => (.inf (a != y.isNeg), false)
  | x, .inf b => (.fin (x.isNeg != b) 0 0, false)
  | .fin a m e, .fin b n f =>
    if n = 0 then (if m = 0 then .nan else .inf (a != b), false)
    else if m = 0 then (.fin (a != b) 0 0, false)
    else
      let k := bits + Nat.log2 n + 1
      (.fin (a != b) (m * 2 ^ k / n) (e - f - k), decide (m * 2 ^ k % n ≠ 0))

/-- Order of two values; `none` when either is NaN. +0 and −0 are equal (R174). -/
def cmpF : FVal → FVal → Option Ordering
  | .nan, _ => none
  | _, .nan => none
  | .inf a, .inf b => some (if a = b then .eq else if a then .lt else .gt)
  | .inf a, _ => some (if a then .lt else .gt)
  | _, .inf b => some (if b then .gt else .lt)
  | .fin a m e, .fin b n f =>
    let low := min e f
    let x : Int := if a then -(scaleTo m e low : Int) else scaleTo m e low
    let y : Int := if b then -(scaleTo n f low : Int) else scaleTo n f low
    some (compare x y)

/-- minimumNumber (`big` false) or maximumNumber (`big` true) of IEEE 754-2019, −0 below +0 (R174). -/
def minMaxF (big : Bool) (x y : FVal) : FVal :=
  match cmpF x y with
  | none => match x, y with
    | .nan, .nan => .nan
    | .nan, _ => y
    | _, _ => x
  | some .eq => if x.isNeg = big then y else x
  | some .lt => if big then y else x
  | some .gt => if big then x else y

/-! ## FLUSH (R177) -/

/-- A subnormal input is read as a zero of its sign. -/
def flushIn (f : FFmt) (flush : Bool) (x : Nat) : Nat :=
  if flush && decide (bitsOf x f.fb f.eb = 0) then f.signBit (x.testBit (f.eb + f.fb)) else x

/-- A non-zero result below the smallest normal after rounding becomes a zero of its sign. -/
def flushOut (f : FFmt) (flush : Bool) (x : Nat) : Nat := flushIn f flush x

/-! ## Vector floating operations (R174 to R178) -/

/-- One element of a vector floating operation: operands A, B and C as encodings. Rounds the exact result once. -/
def vfloatElem (f : FFmt) (mode : Nat) (flush : Bool) (op : VFloatOp) (a b c : Nat) : Nat :=
  let x := unpackF f (flushIn f flush a)
  let y := unpackF f (flushIn f flush b)
  let z := unpackF f (flushIn f flush c)
  flushOut f flush <|
    match op with
    | .add => roundF f mode false false (addX mode x y)
    | .sub => roundF f mode false false (addX mode x y.negate)
    | .mul => roundF f mode false false (mulX x y)
    | .div => let q := divX (f.fb + 4) x y; roundF f mode false q.2 q.1
    | .fma => roundF f mode false false (addX mode (mulX x y) z)
    | .minimum => roundF f mode false false (minMaxF false x y)
    | .maximum => roundF f mode false false (minMaxF true x y)
    | _ => 0

/-- A compare to p (R174): "not equal" holds of a NaN operand, every other relation does not. -/
def vfloatCmp (f : FFmt) (flush : Bool) (op : VFloatOp) (a b : Nat) : Bool :=
  let r := cmpF (unpackF f (flushIn f flush a)) (unpackF f (flushIn f flush b))
  match op, r with
  | .cmpEq, some .eq => true
  | .cmpNe, some .eq => false
  | .cmpNe, _ => true
  | .cmpLt, some .lt => true
  | .cmpLe, some .lt => true
  | .cmpLe, some .eq => true
  | _, _ => false

/-- binary32 addition to nearest even, never flushed: FADD (Table 4-10, Table 6-5). -/
def faddB32 (a b : Nat) : Nat := roundF fB32 0 false false (addX 0 (unpackF fB32 a) (unpackF fB32 b))

/-! ## Conversions (R180 to R182) -/

/-- Width in bits of an element of a format code, as CVT holds it. -/
def codeWidth : Nat → Nat
  | 0 => 64 | 1 => 32 | 2 => 16 | 3 => 16 | 4 => 8 | 5 => 8 | 6 => 8 | 8 => 32 | 9 => 32 | 10 => 64 | 11 => 4 | 12 => 8 | _ => 0

/-- The exact value of an element of a format code. -/
def codeVal (code x : Nat) : FVal :=
  let ofInt (i : Int) : FVal := .fin (decide (i < 0)) i.natAbs 0
  match code with
  | 6 => ofInt (toSigned 8 x)
  | 8 => ofInt (toSigned 32 x)
  | 9 => ofInt (x % 2 ^ 32 : Nat)
  | 10 => ofInt (toSigned 64 x)
  | 12 => if x % 256 = 255 then .nan else .fin false 1 ((x % 256 : Nat) - 127)
  | _ => match fmtOfCode code with
    | some f => unpackF f x
    | none => .nan

/-- Least and greatest value of an integer format code. -/
def intRange : Nat → Int × Int
  | 6 => (-128, 127)
  | 8 => (-(2 ^ 31), 2 ^ 31 - 1)
  | 9 => (0, 2 ^ 32 - 1)
  | _ => (-(2 ^ 63), 2 ^ 63 - 1)

/-- A value rounded to an integer in a rounding mode. -/
def roundInt (mode : Nat) (neg : Bool) (m : Nat) (e : Int) : Int :=
  let r : Nat × Int := if e ≥ 0 then (scaleTo m e 0, 0) else roundSig (Nat.log2 m + 1) 0 mode neg m e false
  let v : Int := scaleTo r.1 r.2 0
  if neg then -v else v

/-- Conversion to an integer format (Table 6-8): the nearest end of the range on overflow, 0 for NaN. -/
def cvtInt (code mode : Nat) (v : FVal) : Nat :=
  let (lo, hi) := intRange code
  let w := codeWidth code
  match v with
  | .nan => 0
  | .inf neg => ofSigned w (if neg then lo else hi)
  | .fin neg m e => if m = 0 then 0 else ofSigned w (max lo (min hi (roundInt mode neg m e)))

/-- Conversion to E8M0 (R182): floor(log2 |x|) + 127 held to 0 .. 254; NaN and infinities give 0xFF. -/
def cvtE8M0 : FVal → Nat
  | .nan => 255
  | .inf _ => 255
  | .fin _ m e =>
    if m = 0 then 0
    else (max 0 (min 254 (e + (Nat.log2 m : Int) + 127))).toNat

/-- CVT of one element (R181, R182). -/
def cvtElem (dst src mode : Nat) (sat : Bool) (x : Nat) : Nat :=
  let v := codeVal src x
  if dst = 12 then cvtE8M0 v
  else match fmtOfCode dst with
    | some f => roundF f mode sat false v
    | none => cvtInt dst mode v

/-! ## Racking (R184, R185) -/

/-- A source value times its multiplier, exact; infinities stay, NaN stays. -/
def rackProd (srcFmt : FFmt) (mult x : Nat) : FVal := mulX (unpackF srcFmt x) (unpackF fB32 mult)

/-- Racking into a scalar storage format: nearest even, values beyond the range stored as the largest finite value. -/
def rackElem (f : FFmt) (v : FVal) : Nat :=
  match v with
  | .inf neg => f.signBit neg + f.maxBits
  | v => roundF f 0 true false v

/-- The largest magnitude of a block. -/
def maxMag : List FVal → Nat × Int
  | [] => (0, 0)
  | .fin _ m e :: t =>
    let (n, f) := maxMag t
    if cmpMag m e n f = .gt then (m, e) else (n, f)
  | _ :: t => maxMag t

/-- Racking a block of 32 into MXFP4: its scale and element codes. -/
def rackBlock (xs : List FVal) : Nat × List Nat :=
  if xs.any (fun v => decide (v = .nan)) then (255, xs.map fun _ => 0)
  else
    let ys := xs.map fun v => match v with
      | .inf neg => .fin neg (2 ^ 24 - 1) 104
      | v => v
    let (m, e) := maxMag ys
    if m = 0 then (0, ys.map fun v => if v.isNeg then 8 else 0)
    else
      -- the scale is held to the largest E8M0 value: elements beyond ±6 × 2^127 are stored as ±6 (R184)
      let ex := min 127 (max (-127) (e + (Nat.log2 m : Int) - 2))
      ((ex + 127).toNat, ys.map fun v => match v with
        | .fin neg n f => roundF fE2M1 0 true false (.fin neg n (f - ex))
        | _ => 0)

/-! ## Sums whose grouping is free (R186, R187) -/

/-- Rounds an intermediate sum to `prec` bits, nearest even, with the exponent range of the accumulator format. -/
def roundMid (f : FFmt) (prec : Nat) (v : FVal) : FVal :=
  match v with
  | .fin neg m e =>
    if m = 0 then v
    else
      let (q, qe) := roundSig prec (1 - f.bias - f.fb) 0 neg m e false
      if cmpMag q qe (2 ^ prec - 1) (f.bias - (prec : Int) + 1) = .gt then .inf neg else .fin neg q qe
  | v => v

/-- Takes element `i` out of a list. -/
def takeOut {α : Type} (d : α) : List α → Nat → α × List α
  | [], _ => (d, [])
  | a :: t, 0 => (a, t)
  | a :: t, n + 1 => let r := takeOut d t n; (r.1, a :: r.2)

/-- Sums the terms by two-operand additions in a free grouping and order. At each step the free value picks the two operands, whether
the sum is rounded, and to how many bits at or above the accumulator's; the last addition is rounded to the accumulator format. -/
def sumFree (f : FFmt) (ctr : Nat) : Nat → List FVal → FVal
  | 0, l => l.headD (.fin false 0 0)
  | fuel + 1, l =>
    if l.length ≤ 1 then l.headD (.fin false 0 0)
    else
      let b := (Config.freeBits (ctr + fuel)).toNat
      let (x, l1) := takeOut .nan l (bitsOf b 0 16 % l.length)
      let (y, l2) := takeOut .nan l1 (bitsOf b 16 16 % l1.length)
      let z := addX 0 x y
      let z' := if l2 = [] then unpackF f (roundF f 0 false false z)
        else if b.testBit 32 then z else roundMid f (f.fb + 1 + bitsOf b 33 16) z
      sumFree f ctr fuel (z' :: l2)

/-- The encoding of base plus terms under R186 and R187: a NaN gives the canonical NaN. -/
def accumulate (f : FFmt) (ctr : Nat) (base : FVal) (terms : List FVal) : Nat :=
  roundF f 0 false false (sumFree f ctr (terms.length + 1) (base :: terms))

/-! ## Special functions (R179) -/

/-- Fixed-point precision of the reference values below. -/
def fxP : Nat := 256

/-- Fixed-point logarithm of 2: the sum of 1 / (k 2^k). -/
def fxLn2 : Nat → Nat
  | 0 => 0
  | k + 1 => fxLn2 k + 2 ^ fxP / ((k + 1) * 2 ^ (k + 1))

/-- Fixed-point exp of x by its series, term by term. -/
def fxExp (x : Int) : Nat → Nat → Int → Int
  | 0, _, _ => 0
  | fuel + 1, k, t => t + fxExp x fuel (k + 1) (t * x / (2 ^ fxP : Nat) / ((k + 1 : Nat) : Int))

/-- Fixed-point sum of z^(2k+1) / (2k+1). -/
def fxAtanh (z2 : Int) : Nat → Nat → Int → Int
  | 0, _, _ => 0
  | fuel + 1, k, t => t / ((2 * k + 1 : Nat) : Int) + fxAtanh z2 fuel (k + 1) (t * z2 / (2 ^ fxP : Nat))

/-- Fixed-point arctangent of 1/n. -/
def fxAtanInv (n : Nat) : Int := 
  let z : Int := (2 ^ fxP : Nat) / (n : Int)
  fxAtanh (-(z * z / (2 ^ fxP : Nat))) 400 0 z

/-- Fixed-point π (Machin). -/
def fxPi : Int := 4 * (4 * fxAtanInv 5 - fxAtanInv 239)

/-- Fixed-point alternating series of sine (start x, k = 1) and cosine (start 1, k = 0). -/
def fxTrig (x2 : Int) : Nat → Nat → Int → Int
  | 0, _, _ => 0
  | fuel + 1, k, t =>
    t + fxTrig x2 fuel (k + 2) (-(t * x2 / (2 ^ fxP : Nat) / (((k + 1) * (k + 2) : Nat) : Int)))

/-- A finite value in fixed point. -/
def toFx (neg : Bool) (m : Nat) (e : Int) : Int :=
  let a : Int := if e + (fxP : Int) ≥ 0 then ((m * 2 ^ (e + fxP).toNat : Nat) : Int) else ((m / 2 ^ (-(e + fxP)).toNat : Nat) : Int)
  if neg then -a else a

/-- A reference value of a fixed-point number times 2^k. -/
def ofFx (x : Int) (k : Int) : FVal := .fin (decide (x < 0)) x.natAbs (k - fxP)

/-- Integer square root by bits, highest first. -/
def isqrtBits (n : Nat) : Nat → Nat → Nat
  | 0, r => r
  | i + 1, r => let r' := r + 2 ^ i; isqrtBits n i (if r' * r' ≤ n then r' else r)

/-- Integer square root. -/
def isqrt (n : Nat) : Nat := isqrtBits n (Nat.log2 n / 2 + 1) 0

/-- Square root of m × 2^e to well over 100 bits. -/
def sqrtRef (m : Nat) (e : Int) : FVal :=
  let e' : Int := if e % 2 = 0 then e else e - 1
  let m' := if e % 2 = 0 then m else 2 * m
  .fin false (isqrt (m' * 2 ^ 512)) (e' / 2 - 256)

/-- The exact result of a special function at a finite argument, to far more bits than binary32 holds. -/
def sfuRef (op : SfuOp) (neg : Bool) (m : Nat) (e : Int) : FVal :=
  match op with
  | .rcp => (divX 300 (.fin false 1 0) (.fin neg m e)).1
  | .sqrt => sqrtRef m e
  | .rsqrt => (divX 300 (.fin false 1 0) (sqrtRef m e)).1
  | .exp2 =>
    let x := toFx neg m e
    let n := x / (2 ^ fxP : Nat)
    let fr := x % (2 ^ fxP : Nat)
    ofFx (fxExp (fr * (fxLn2 fxP : Int) / (2 ^ fxP : Nat)) 120 0 (2 ^ fxP : Nat)) n
  | .log2 =>
    let k : Int := e + (Nat.log2 m : Int)
    let z : Int := toFx false m (-(Nat.log2 m : Int))
    let w := (z - (2 ^ fxP : Nat)) * (2 ^ fxP : Nat) / (z + (2 ^ fxP : Nat))
    let ln := 2 * fxAtanh (w * w / (2 ^ fxP : Nat)) 200 0 w
    ofFx (ln * (2 ^ fxP : Nat) / (fxLn2 fxP : Int) + k * (2 ^ fxP : Nat)) 0
  | .sin =>
    let x := toFx neg m e % (2 * fxPi)
    ofFx (fxTrig (x * x / (2 ^ fxP : Nat)) 120 1 x) 0
  | .cos =>
    let x := toFx neg m e % (2 * fxPi)
    ofFx (fxTrig (x * x / (2 ^ fxP : Nat)) 120 0 (2 ^ fxP : Nat)) 0
  | .reserved => .nan

/-- |a − b| ≤ n × 2^k. -/
def within (a b : FVal) (n : Nat) (k : Int) : Bool :=
  match addX 0 a b.negate with
  | .fin _ m e => cmpMag m e n k != .gt
  | _ => false

/-- The unit in the last place of a value rounded to binary32, as an exponent of 2. -/
def ulpExp (v : FVal) : Int :=
  match unpackF fB32 (roundF fB32 0 false false v) with
  | .fin _ m e => if m < 2 ^ 23 then -149 else e
  | _ => 104

/-- Whether a result meets the bound of Table 6-6 for a reference value `r` of a function at x = ±m × 2^e. -/
def sfuOk (op : SfuOp) (neg : Bool) (m : Nat) (e : Int) (r : FVal) (c : FVal) : Bool :=
  match op with
  | .rcp => within c r 1 (ulpExp r)
  | .sqrt => within c r 1 (ulpExp r)
  | .rsqrt => within c r 2 (ulpExp r)
  | .exp2 =>
    -- the exact result is above zero, also where `r` stands for one below 2^-200
    if neg && decide (cmpMag m e 126 0 = .gt) then within c r 1 (-149) && !(match c with | .fin n k _ => n && k != 0 | _ => false)
    else within c r 2 (ulpExp r)
  | .log2 =>
    if cmpMag m e 1 (-1) != .lt && cmpMag m e 2 0 != .gt then within c r 1 (-22) else within c r 2 (ulpExp r)
  | .sin | .cos =>
    if cmpMag m e 1 16 != .gt then within c r 1 (-21)
    else match c with
      | .fin _ n f => cmpMag n f 1 0 != .gt
      | _ => false
  | .reserved => false

/-- A special function of an encoding (R179, Table 6-6): the special cases, and otherwise the free value when it meets the bound, or
the reference value rounded to nearest even. -/
def sfuElem (op : SfuOp) (flush : Bool) (ctr x : Nat) : Nat :=
  let a := flushIn fB32 flush x
  let nan := fB32.nan
  let inf (n : Bool) := fB32.signBit n + fB32.infBits
  flushOut fB32 flush <|
    match unpackF fB32 a, op with
    | .nan, _ => nan
    | .inf n, .rcp => fB32.signBit n
    | .inf n, .sqrt => if n then nan else inf false
    | .inf n, .rsqrt => if n then nan else 0
    | .inf n, .exp2 => if n then 0 else inf false
    | .inf n, .log2 => if n then nan else inf false
    | .inf _, _ => nan
    | .fin n m e, op =>
      if m = 0 ∧ op = .rcp then inf n
      else if m = 0 ∧ op = .sqrt then fB32.signBit n
      else if m = 0 ∧ op = .rsqrt then inf n
      else if m = 0 ∧ op = .log2 then inf true
      else if n ∧ (op = .sqrt ∨ op = .rsqrt ∨ op = .log2) then nan
      else if op = .exp2 ∧ n = false ∧ cmpMag m e 128 0 ≠ .lt then inf false
      else
        let r := if op = .exp2 && n && cmpMag m e 200 0 == .gt then .fin false 0 0 else sfuRef op n m e
        let c := (Config.freeBits ctr).toNat % 2 ^ 32
        if sfuOk op n m e r (unpackF fB32 c) then c else roundF fB32 0 false false r

end Sys2Proof.Machine
end

