-- ==== Sys2Proof/Machine/Atomics.lean ====
section
/-!
DEFINITION. The atomic operations of Table 4-10 on words and on the lanes of one granule (R129, R130).
-/

namespace Sys2Proof.Machine

open Sys2Proof

/-! ## Atomic operations (Table 4-10) -/

/-- The new value of a word of `w` bits, and whether the word is written (a CAS whose comparison fails writes nothing, R131). -/
def atomApply (op : AtomOp) (w word b c : Nat) : Nat × Bool :=
  let m := 2 ^ w
  let b := b % m
  let c := c % m
  let sx := toSigned w word
  let sb := toSigned w b
  match op with
  | .add => ((word + b) % m, true)
  | .smin => (if sb < sx then b else word, true)
  | .smax => (if sx < sb then b else word, true)
  | .umin => (min word b, true)
  | .umax => (max word b, true)
  | .band => (word &&& b, true)
  | .bor => (word ||| b, true)
  | .bxor => (word ^^^ b, true)
  | .exch => (b, true)
  | .cas => if word = b then (c, true) else (word, false)
  | .fadd => (faddB32 word b, true)
  | .reserved => (word, false)

/-- The operation a code of the OP order of Table 4-10 names. -/
def atomOfCode : Nat → AtomOp
  | 0 => .add | 1 => .smin | 2 => .smax | 3 => .umin | 4 => .umax | 5 => .band | 6 => .bor | 7 => .bxor | 8 => .exch | 9 => .cas
  | 10 => .fadd | _ => .reserved

def codeOfAtom : AtomOp → Nat
  | .add => 0 | .smin => 1 | .smax => 2 | .umin => 3 | .umax => 4 | .band => 5 | .bor => 6 | .bxor => 7 | .exch => 8 | .cas => 9
  | .fadd => 10 | .reserved => 15

/-- Lanes' operations on the 64 bytes of a granule, in ascending lane order (R130): the new bytes, the prior values, newest last, and
whether any word was written. -/
def atomLanes (d : Bytes) : List AtomLane → Bytes × List Nat × Bool
  | [] => (d, [], false)
  | l :: t =>
    let old := fldB d l.off l.width
    let (v, wr) := atomApply l.op (8 * l.width) old l.b.toNat l.c.toNat
    let d' := (List.range d.length).map fun i =>
      if l.off ≤ i && i < l.off + l.width then (leBytes l.width v).getD (i - l.off) 0 else d.getD i 0
    let (e, ps, w') := atomLanes d' t
    (e, old :: ps, wr || w')

end Sys2Proof.Machine
end

