-- ==== Sys2Proof/Machine/Wire.lean ====
section
/-!
DEFINITION. What travels on the links, byte by byte: the two CRCs (Table 12-11), Corox flits (Table 13-2), packet headers and guest packets
(Tables 13-3, 13-6), and Tilus frames and packets (Tables 14-1, 14-4).
-/

namespace Sys2Proof.Machine

open Sys2Proof

/-- One byte of CRC-32C, reflected (Table 12-11). -/
def crc32cByte (c : Nat) (b : Byte) : Nat :=
  (List.range 8).foldl (fun c _ => if c % 2 = 1 then c / 2 ^^^ 0x82F63B78 else c / 2) (c ^^^ b.toNat)

def crc32c (b : Bytes) : Nat := b.foldl crc32cByte 0xFFFFFFFF ^^^ 0xFFFFFFFF

/-- One byte of CRC-64/ECMA-182, most significant bit first. -/
def crc64Byte (c : Nat) (b : Byte) : Nat :=
  (List.range 8).foldl (fun c _ => if bitOf c 63 then (c * 2) % 2 ^ 64 ^^^ 0x42F0E1EBA9EA3693 else c * 2) (c ^^^ b.toNat * 2 ^ 56)

def crc64 (b : Bytes) : Nat := b.foldl crc64Byte 0

/-! ## Corox flits (R337 to R339) -/

/-- A flit (Table 13-2); `good` says that its CRC matches. -/
structure CFlit where
  seq : Nat
  ack : Nat
  nak : Bool
  typ : Nat
  /-- the reserved bits of CONTROL -/
  rsv : Nat
  good : Bool
  credits : List (Nat × Nat)
  payload : Bytes
deriving DecidableEq, Repr

/-- The credits of the two channels that a CREDITS word names. -/
def creditPairs (w : Nat) : List (Nat × Nat) := [(bitsOf w 0 3, bitsOf w 3 13), (bitsOf w 16 3, bitsOf w 19 13)]

/-- The flit that 256 bytes carry. -/
def flitOf (b : Bytes) : CFlit :=
  let c := fldB b 0 4
  { seq := bitsOf c 0 12, ack := bitsOf c 12 12, nak := bitOf c 24, typ := bitsOf c 25 3, rsv := bitsOf c 28 4
    good := b.length == 256 && fldB b 248 8 == crc64 (b.take 248)
    credits := creditPairs (fldB b 4 4), payload := sliceB b 8 240 }

/-- The 256 bytes of a flit that returns credit of two channels. -/
def crxFlit (seq ack : Nat) (nak : Bool) (typ : Nat) (a b : Nat × Nat) (payload : Bytes) : Bytes :=
  let body := leBytes 4 (seq + ack * 2 ^ 12 + b2n nak * 2 ^ 24 + typ * 2 ^ 25) ++
    leBytes 4 (a.1 + a.2 * 2 ^ 3 + b.1 * 2 ^ 16 + b.2 * 2 ^ 19) ++ sliceB payload 0 240
  body ++ leBytes 8 (crc64 body)

/-- Bytes with the named bits inverted: what arrives of a flit whose bits `errs` were disturbed. -/
def flipBits (b : Bytes) (errs : List Nat) : Bytes :=
  leBytes b.length (errs.foldl (fun v i => if i < 8 * b.length then v ^^^ 2 ^ i else v) (leNat b))

/-- Bits of a data flit that its replay repeats: SEQ, TYPE, the reserved bits of CONTROL and the payload (notes/assumptions/59). -/
def replayedBit (i : Nat) : Bool := decide (i < 12) || decide (25 ≤ i) && decide (i < 32) || decide (64 ≤ i) && decide (i < 1984)

/-- Bits in which two flits that should be the same differ. -/
def diffBits (a b : Bytes) : List Nat :=
  let x := leNat a ^^^ leNat b
  (List.range 2048).filter fun i => replayedBit i && bitOf x i

/-- The lane that carries bit `i` of the `phase`-th flit of a direction: bits are striped over the active lanes in ascending order (R337). -/
def stripedLane (active : List Nat) (phase i : Nat) : Nat := active.getD ((2048 * phase + i) % max active.length 1) 68

/-- The 16-byte units of packet data in a payload, by virtual channel, and the packet that goes on in the next flit (its channel and the units
it still lacks). A unit of zeros in place of a header carries none (R339; notes/assumptions/59). -/
def unitsOf (part : Nat × Nat) (payload : Bytes) : List Nat × Nat × Nat :=
  (List.range 15).foldl (fun (acc : List Nat × Nat × Nat) i =>
    let u := fldB payload (16 * i) 16
    if acc.2.2 ≠ 0 then (acc.1 ++ [acc.2.1], acc.2.1, acc.2.2 - 1)
    else if u = 0 then acc
    else (acc.1 ++ [bitsOf u 0 3], bitsOf u 0 3, bitsOf u 12 5)) ([], part)

/-- A guest packet: the header fields of Table 13-3 with its data units; PART and SUB, which a hub ignores (R352); `whole` says that all of it
arrived. -/
structure GPacket where
  vc : Nat
  transit : Bool
  op : Nat
  len : Nat
  masked : Bool
  dest : Nat
  src : Nat
  part : Nat
  tag : Nat
  addr : Nat
  sub : Nat
  info : Nat
  data : Bytes
  whole : Bool
deriving DecidableEq, Repr

/-- The guest packet that bytes carry. -/
def guestPacketOf (b : Bytes) : GPacket :=
  let h := fldB b 0 16
  { vc := bitsOf h 0 3, transit := bitOf h 3, op := bitsOf h 4 8, len := bitsOf h 12 5, masked := bitOf h 17
    dest := bitsOf h 18 5, src := bitsOf h 23 5, part := bitsOf h 28 4, tag := bitsOf h 32 12, addr := bitsOf h 48 48 * 16, sub := bitsOf h 96 8, info := bitsOf h 104 8
    data := b.drop 16, whole := b.length == 16 * (1 + bitsOf h 12 5) }

/-- The packets that the next unit of a direction completes or goes on with: the packet in progress, and those completed. A unit of zeros in
place of a header carries none (R339; notes/assumptions/59). -/
def nextUnit (acc : Bytes × List Bytes) (u : Bytes) : Bytes × List Bytes :=
  if acc.1 = [] && leNat u = 0 then acc
  else
    let p := acc.1 ++ u
    if p.length = 16 * (1 + bitsOf (fldB p 0 16) 12 5) then ([], acc.2 ++ [p]) else (p, acc.2)

/-- The packets that a payload completes, after the part of one that earlier flits brought. -/
def packetsIn (part payload : Bytes) : Bytes × List Bytes :=
  (List.range 15).foldl (fun acc i => nextUnit acc (sliceB payload (16 * i) 16)) (part, [])

/-- A packet from a hub to its guest (Table 13-6). -/
def guestReply (k vc op tag info : Nat) (data : Bytes) : Bytes :=
  leBytes 16 (vc + op * 2 ^ 4 + data.length / 16 * 2 ^ 12 + (20 + k) * 2 ^ 18 + (18 + k) * 2 ^ 23 + tag * 2 ^ 32 + info * 2 ^ 104) ++ data

/-! ## Tilus frames (R364, R369) -/

/-- A packet that bytes carry (Table 14-4). -/
def tilusPacketOf (b : Bytes) : TPacket :=
  let h := fldB b 0 32
  { vc := bitsOf h 0 3, pooled := bitOf h 3, last := bitOf h 4, masked := bitOf h 5, op := bitsOf h 6 8, hops := bitsOf h 19 5
    dest := bitsOf h 24 20, src := bitsOf h 44 20, window := bitsOf h 64 12, offset := bitsOf h 80 40, tag := bitsOf h 128 16
    flow := bitsOf h 144 16, info := bitsOf h 160 16, data := (b.drop 32).take (16 * bitsOf h 14 5) }

/-- The bytes of a packet: its header of 32 (Table 14-4) and its data in whole units. -/
def tilusBytes (x : TPacket) : Bytes :=
  let n := (x.data.length + 15) / 16
  leBytes 32 (x.vc + b2n x.pooled * 2 ^ 3 + b2n x.last * 2 ^ 4 + b2n x.masked * 2 ^ 5 + x.op * 2 ^ 6 + n * 2 ^ 14 + x.hops * 2 ^ 19 +
    x.dest * 2 ^ 24 + x.src * 2 ^ 44 + x.window * 2 ^ 64 + x.offset * 2 ^ 80 + x.tag * 2 ^ 128 + x.flow * 2 ^ 144 + x.info * 2 ^ 160) ++
    sliceB x.data 0 (16 * n)

/-- The packets of a payload, none of which spans two frames; where a header of zeros stands no further one follows (notes/assumptions/59). -/
def packetsOf : Nat → Bytes → List TPacket
  | 0, _ => []
  | n + 1, b =>
    let size := 32 + 16 * bitsOf (fldB b 0 32) 14 5
    if fldB b 0 32 = 0 || b.length < size then [] else tilusPacketOf b :: packetsOf n (b.drop size)

/-- A frame (Table 14-1); `good` says that its CRC matches. -/
structure TFrame where
  seq : Nat
  ack : Nat
  nak : Bool
  typ : Nat
  good : Bool
  credits : List (Nat × Nat)
  packets : List TPacket
deriving DecidableEq, Repr

/-- The 800 bytes of a frame (Table 14-1) that returns the credit of two channels and of the pool. -/
def tilusFrame (seq ack : Nat) (nak : Bool) (typ : Nat) (a b : Nat × Nat) (pool : Nat) (payload : Bytes) : Bytes :=
  let body := leBytes 2 seq ++ leBytes 2 ack ++ leBytes 4 (b2n nak + typ * 2) ++
    leBytes 8 (a.1 + a.2 * 2 ^ 3 + b.1 * 2 ^ 16 + b.2 * 2 ^ 19 + pool * 2 ^ 32) ++ sliceB payload 0 768 ++ zeroBytes 8
  body ++ leBytes 8 (crc64 body)

/-- The payload of a beacon frame (Table 14-3). -/
def beaconBody (b : Beacon) : Bytes :=
  leBytes 8 b.txTime ++ leBytes 2 b.txFrac ++ leBytes 2 b.rxFrac ++ zeroBytes 4 ++ leBytes 8 (b.rxTime.getD (2 ^ 64 - 1)) ++
    leBytes 8 b.dealer.toNat ++ leBytes 1 (b.depth % 32) ++ leBytes 1 (b2n b.noTime) ++ zeroBytes 2 ++
    leBytes 4 (b.node + b2n b.nodeValid * 2 ^ 31) ++ zeroBytes 728

/-- What the payload of a beacon frame says. -/
def beaconOfBody (b : Bytes) : Beacon :=
  let rx := fldB b 16 8
  { txTime := fldB b 0 8, txFrac := fldB b 8 2, rxTime := if rx = 2 ^ 64 - 1 then none else some rx, rxFrac := fldB b 10 2
    dealer := BitVec.ofNat 64 (fldB b 24 8), depth := fldB b 32 1 % 32, noTime := bitOf (fldB b 33 1) 0, node := fldB b 36 4 % 2 ^ 20
    nodeValid := bitOf (fldB b 36 4) 31 }

/-- The frame that 800 bytes carry; credit of the pool stands as channel 8. -/
def frameOf (b : Bytes) : TFrame :=
  let c := fldB b 4 4
  { seq := fldB b 0 2, ack := fldB b 2 2, nak := bitOf c 0, typ := bitsOf c 1 3
    good := b.length == 800 && fldB b 792 8 == crc64 (b.take 792)
    credits := creditPairs (fldB b 8 4) ++ [(8, fldB b 12 2)]
    packets := if bitsOf c 1 3 = 0 then packetsOf 24 (sliceB b 16 768) else [] }

end Sys2Proof.Machine
end

