-- ==== Sys2Proof/Machine/State.lean ====
section
/-!
DEFINITION. The module's state as plain data: the register store, and chapter by chapter every queue, buffer, table, counter and mode
the spec gives the machine beside its registers, with the queue of commands that wait.
-/

namespace Sys2Proof.Machine

/-! ## Reasons to stop -/

/-- Faults: reasons the machine stops. -/
inductive Fault where
  /-- Raised by `run` (Ops) for a command whose operands name something outside the module (a ring above 255, a hub above 3, a
  register instance that does not exist). The spec's steps never carry such operands, so the stop is safe. -/
  | operandOutOfRange
deriving DecidableEq, Repr

/-- Refusals: a command with no meaning here. -/
inductive Refusal where
  /-- Raised by `exec` for a command that has no meaning yet. Safe: nothing is claimed of it. -/
  | notModelled (mnemonic : String)
deriving DecidableEq, Repr

/-! ## Addresses -/

/-- Where a translated or physical address lies (R78, R289, R302). -/
inductive Loc where
  /-- physical address `pa` of module memory, reached for partition `part` (R25) -/
  | phys (part pa : Nat)
  /-- bus address in host memory behind PCIe port `port` -/
  | host (port addr : Nat)
  /-- offset `off` in window `win` of node `node`, on flow `flow` (R302, R372) -/
  | remote (node win off flow : Nat)
deriving DecidableEq, Repr

/-- A held translation (R300): the virtual address it was made for and what it names; `loc` is `none` once an invalidation has
dropped it. -/
structure Held where
  part : Nat
  asid : Nat
  va : Nat
  loc : Option Loc
deriving DecidableEq, Repr

/-! ## Fuses and identity -/

/-- Values loaded from fuses (Table 1-8 "fuse", R438, R461). -/
structure Fuse where
  serial : Nat := 0
  modrev : Nat := 0
  dieStep : List Nat := List.replicate 16 2
  hubStep : List Nat := List.replicate 4 1
  dieFeat : List Nat := List.replicate 16 7
deriving DecidableEq, Repr

/-! ## Time base -/

/-- What the module keeps of one Tilus port's beacons (R44, R46). -/
structure TPort where
  /-- engine time of the last beacon that arrived -/
  lastAt : Option Nat := none
  /-- module's counter (ns, fraction) when the last beacon arrived, sent back as the arrival time -/
  rxNow : Option Nat := none
  rxFrac : Nat := 0
  /-- counter (ns, fraction) when this module sent its last beacons on the port, newest first: t1 is among them -/
  sent : List (Nat × Nat) := []
  /-- serial of the dealer the partner follows -/
  dealer : Nat := 0
  /-- the partner's beacon said that it follows no dealer -/
  noTime : Bool := true
deriving DecidableEq, Repr

/-- The time base (R41 to R53). The counter and its fraction, the rate correction, and what the discipline counts. -/
structure TimeSt where
  /-- ns since power-on by the reference clock: the model's own clock -/
  engine : Nat := 0
  /-- System Time, ns, mod 2^64 (R41) -/
  now : Nat := 0
  /-- sub-nanosecond fraction, 16 bits (R41) -/
  frac : Nat := 0
  /-- rate correction in parts per 10^9, at most 500,000 either way (500 ppm) -/
  rate : Int := 0
  /-- the upstream's rate over the module's own reference, in the same unit, as measured since `base`: the correction that HOLDOVER holds -/
  corr : Int := 0
  /-- engine time and upstream time (1/65536 ns) of the first measured beacon followed from the present upstream port since its counter last
  stepped, and of the last one -/
  base : Option (Nat × Int) := none
  lastUp : Option (Nat × Int) := none
  /-- the counter slews at 500 ppm (Table 2-2) -/
  slewing : Bool := false
  /-- the interval of System Time that the last step forward skipped (R51) -/
  skipFrom : Nat := 0
  skipTo : Nat := 0
  /-- consecutive upstream beacons with |offset| at most 2 ns -/
  goodRun : Nat := 0
  /-- consecutive upstream beacons with |offset| above 10 ns -/
  badRun : Nat := 0
  /-- engine time at which HOLDOVER began -/
  holdAt : Nat := 0
  /-- HOLD_MS is counted from `holdAt` (no lock since then) -/
  holding : Bool := false
  /-- engine time of the last beacon that named a second dealer -/
  conflictAt : Nat := 0
  /-- engine time at which the present HOLDOVER was entered -/
  holdFrom : Nat := 0
  /-- serial number of the dealer followed, all 64 bits -/
  dealer : Nat := 0
  /-- the next upstream beacon is the first since the present state was entered (Table 2-2) -/
  first : Bool := true
  ports : FMap TPort := []
deriving DecidableEq, Repr

/-- A schedule (R54): period 0 means undefined. `since` is the System Time of its definition (R55). -/
structure Sched where
  period : Nat := 0
  anchor : Nat := 0
  since : Nat := 0
deriving DecidableEq, Repr

/-- A mode epoch that a MODE_SET took (R70): effect time, mode word, and the ring and position of the command. -/
structure Epoch where
  epoch : Nat
  effect : Nat
  mode : Nat
  ring : Nat
  pos : Nat
deriving DecidableEq, Repr

/-- A partition's mode epochs (R70 to R73): the last one taken, and those not yet reported by every unit. -/
structure ModeSt where
  last : Nat := 0
  lastMode : Nat := 0
  epochs : List Epoch := []
deriving DecidableEq, Repr

/-! ## Tables -/

/-- What follows the writing of a step record: the next step, with the record's forwarding, or the end of the table, whose message goes to every
tree neighbour but one; `noted` when the failure that ends it has its fault record already (R69). -/
inductive AfterWrite where
  | step (x : StepRec)
  | ends (m : TableMsg) (from_ : Option Nat) (noted : Bool)
deriving DecidableEq, Repr

/-- Window requests of a table's hub for its ready word or its record (R304): none; a read asked for; the first or the second part of a record
sent; what a read brought; the cause and INFO of a failure. -/
inductive TabReq where
  | none
  | read
  | write (part : Nat)
  | got (b : Bytes)
  | failed (cause info : Nat)
deriving DecidableEq, Repr

/-- A step record being written (R67). -/
structure StepWrite where
  step : Nat
  bytes : Bytes
  after : AfterWrite
deriving DecidableEq, Repr

/-- A table member's state (R58 to R69), held on the partition's acting tally hub. -/
structure TTable where
  /-- 1 when the slot is in use -/
  live : Bool := false
  /-- joined, and the start record has arrived -/
  formed : Bool := false
  ring : Nat := 0
  pos : Nat := 0
  members : Nat := 0
  index : Nat := 0
  waitLimit : Nat := 0
  firstDeal : Nat := 0
  schedule : Nat := 0
  policy : Nat := 0
  recLog2 : Nat := 0
  ready : Held := ⟨0, 0, 0, none⟩
  /-- the held translations of the record area, one for each 64 KiB page -/
  record : List Held := []
  /-- node identifiers: own, parent and children (R58) -/
  selfNode : Nat := 0
  parentNode : Nat := 0
  childNodes : List Nat := []
  /-- indices whose joins this member has received (at the root: of all members) -/
  joined : List Nat := []
  /-- a join that mismatched or repeated an index has been seen -/
  mismatch : Bool := false
  /-- the pending step, its deal shift, and whether it has been evaluated -/
  step : Nat := 0
  slips : Nat := 0
  evaluated : Bool := false
  /-- this member posted LATE / ARRIVED for the pending step, and the cause bits of its LATE marker -/
  selfLate : Bool := false
  selfArrived : Bool := false
  cause : Nat := 0
  /-- combined over the subtree: on time, late, late indices, children whose whole subtree arrived -/
  arrived : Nat := 0
  lateCount : Nat := 0
  lateIdx : List Nat := []
  doneKids : List Nat := []
  forwarded : Bool := false
  /-- steps for which the member posted LATE and whose ready word it re-reads: under ABANDON beyond their records (R64) -/
  owes : List Nat := []
  /-- the record being written, and that the ready word or the record waits on a service request -/
  writing : Option StepWrite := none
  waiting : Bool := false
  /-- step records that arrived while an earlier one was being written, oldest first -/
  recs : List StepRec := []
  /-- the end that waits for the record being written: status, message, the neighbour it came from -/
  ending : Option (Nat × TableMsg × Option Nat) := none
  /-- window requests of the ready word or the record, and how many are still to be answered -/
  req : TabReq := .none
  reqs : Nat := 0
  /-- under ABANDON: ARRIVED markers discarded -/
  discarded : Nat := 0
  /-- a LEAVE command waits for its own final record (ring, position) -/
  leaving : Option (Nat × Nat) := none
  /-- LEAVE or loss messages whose acknowledgement a neighbour owes (R59), with the engine time of sending -/
  owed : List (Nat × Nat) := []
  /-- joins that arrived before this member's own TABLE_JOIN: (source node, message) -/
  early : List (Nat × TableMsg) := []
  /-- engine time of the last read of the ready word -/
  readAt : Nat := 0
  /-- a message to a tree neighbour could not be routed (R382) -/
  lost : Bool := false
deriving DecidableEq, Repr

/-! ## Rings and the tally -/

/-- The final result of a command: status, SUBCODE, VIS, RESULT, DETAIL and the FAULT_REC bit (Table 3-3). -/
structure Result where
  status : Nat := 0
  sub : Nat := 0
  vis : Nat := 0
  result : Nat := 0
  detail : Nat := 0
  faultRec : Bool := false
deriving DecidableEq, Repr

/-- States of a tally entry (R94). `written` is an entry written on the acting hub whose mirror acknowledgement has not
arrived (R92 step 4); DELIVERED entries are released and so not listed. -/
inductive EntrySt where
  | written | accepted | running | finished
deriving DecidableEq, Repr

/-- A fault record of Table 11-11, without its SEQ. -/
structure FRec where
  addr : Nat := 0
  mask : Nat := 0
  pos : Option Nat := none
  info : Nat := 0
  time : Nat := 0
  ring : Option Nat := none
  cause : Nat := 0
  count : Nat := 1
  asid : Nat := 0
  agentKind : Nat := 7
  agentIx : Nat := 0
  info2 : Nat := 0
  kind : Nat := 0
  access : Nat := 0
  merged : Bool := false
deriving DecidableEq, Repr

/-- An access that waits on a service request (R295, R297): its address, the right it needs, and when it began to wait. -/
structure Waiting where
  va : Nat
  need : Nat
  since : Nat
deriving DecidableEq, Repr

/-- A command stalled on a full fault queue (R307): the record it must write, the result it then ends with, and since when. -/
structure Stall where
  queue : Nat
  frec : FRec
  res : Result
  since : Nat
deriving DecidableEq, Repr

/-- Bytes of a copy between two windows: where they go, at which virtual address, and their place in the transfer (offset, offset of its span). -/
structure Fwd where
  loc : Loc
  va : Nat
  place : Option (Nat × Nat)
  data : Bytes
deriving DecidableEq, Repr

/-- A tally entry (R92, R94), with the packet that was fetched for it and what its command holds while it runs. -/
structure Entry where
  pos : Nat
  /-- the packet's slots as fetched -/
  pkt : Bytes
  st : EntrySt := .written
  /-- the final result, once the command has ended -/
  res : Option Result := none
  /-- translated FLAG_ADDR (R89), once the command has started -/
  flag : Option Held := none
  /-- other held translations of the command (R300) -/
  holds : List Held := []
  /-- engine time at which the command started -/
  startAt : Nat := 0
  /-- engine time of the last poll of WAIT_FLAG -/
  pollAt : Nat := 0
  /-- RESULT gathered so far (bytes reached, last word read) -/
  prog : Nat := 0
  /-- the command was re-executed after a part failure (RETRIED) -/
  retried : Bool := false
  stall : Option Stall := none
  /-- the access of the command that waits on a service request; pages that XLATE_PRIME passes over after a FAULT reply -/
  waiting : Option Waiting := none
  skips : List Nat := []
  /-- what a started command waits for: 0 nothing named, 1 a release time (LAUNCH_AT), 2 a WAIT_FLAG word, 3 SIGNAL's word, 4 answers of window
  writes, 5 XLATE_INVAL acknowledgements, 9 a second taking of its row -/
  phase : Nat := 0
  /-- ports whose flushing reads have not completed (R326, R328) -/
  flush : List Nat := []
  /-- window requests of the command still to be answered (R374) -/
  remoteOpen : Nat := 0
  /-- bytes read through one window that another takes (a copy from import to import) -/
  fwd : List Fwd := []
  /-- bytes read through windows for the command itself, by virtual address -/
  got : List (Nat × Bytes) := []
  /-- the key that authenticated a critical command, held by its hub while the command runs (R442, R445) -/
  key : Bytes := []
  /-- numbers of the command's acceptance and start among all acceptances and starts -/
  acceptNo : Nat := 0
  startNo : Nat := 0
  /-- the mode epoch and mode of a LAUNCH's partition when it began execution (R71) -/
  epoch : Nat := 0
  mode : Nat := 0
  /-- host ports that a COPY_INLINE has written through, last write first, with the last address written through each (R326) -/
  hostW : List (Nat × Nat) := []
  /-- the flag of the ended command is on its way through a window -/
  sent : Bool := false
deriving DecidableEq, Repr

/-- Where a ring's scan stands (R84, R85, R92). -/
inductive Scan where
  /-- no producer read in progress -/
  | idle
  /-- a producer read is in progress; the value that the scan's previous read returned (0: none) -/
  | reading (prev : Nat)
  /-- packets up to this producer value are being fetched -/
  | fetching (upTo : Nat)
deriving DecidableEq, Repr

/-- A ring's state beyond its registers. -/
structure Ring where
  entries : List Entry := []
  scan : Scan := .idle
  /-- index of the first deal of the schedule that has not yet acted -/
  nextDeal : Nat := 0
  /-- engine time of the last producer read's return (SCAN 2) -/
  lastRead : Nat := 0
  /-- records are dropped instead of delivered (DISCARD) -/
  dropping : Bool := false
  /-- entries DELIVERED whose mirror has not yet acknowledged it (R94) -/
  delivered : List Entry := []
  /-- a critical packet whose counter the keeper is committing (R93) -/
  fetched : Option Bytes := none
  /-- once the keeper has answered and no tally entry is free: the status the command ends with (0: none) and its key -/
  committed : Option (Nat × Bytes) := none
deriving DecidableEq, Repr

/-! ## Stacks -/

/-- A stack's state beyond its registers (R252 to R259). -/
structure Stack where
  /-- engine time at which the pending window became pending -/
  pendAt : Nat := 0
  /-- index of the first deal that may run the window (WIN_SCHED 1) -/
  nextDeal : Nat := 0
  /-- bank refreshes done, for each (channel, bank) the engine time of the last -/
  refreshed : FMap Nat := []
  /-- next stack offset to scrub -/
  scrubAt : Nat := 0
  /-- the stack has failed (R428) -/
  failed : Bool := false
  /-- the temperature exceeded 125 °C while stopped: clear on restart -/
  lost : Bool := false
  /-- lanes of a channel that are flagged or carried and not replaced by a spare -/
  badLanes : FMap (List Nat) := []
  /-- spares of a channel that failed training or have been flagged, as a bit mask -/
  badSpares : FMap Nat := []
  /-- channels whose third lane has become carried and whose range is still to be retired (R259) -/
  retiring : List Nat := []
deriving DecidableEq, Repr

/-! ## Caches and coherence -/

/-- Granule states of a caching agent (Table 10-3). -/
inductive CSt where
  | m | o | e | s | i
deriving DecidableEq, Repr

/-- A caching agent's copy of a granule: state, data, and whether it sits in the write-back buffer (R275). -/
structure Copy where
  st : CSt := .i
  data : Bytes := []
  wb : Bool := false
  /-- a request of the agent for the granule waits: 1 ReadShared, 2 ReadOwn, 3 Upgrade; `full` is its flag FULL -/
  want : Nat := 0
  full : Bool := false
  /-- NAKs the waiting request has received (R277); while `held` the request waits until `retryAt` -/
  naks : Nat := 0
  held : Bool := false
  retryAt : Nat := 0
  /-- an Inv arrived while an answer was awaited: a later grant of S is not kept -/
  inved : Bool := false
  /-- forwards queued while the agent's own data has not arrived (R276): (requester, kind), with kinds 0 FwdShared, 1 FwdOwn,
  2 FwdSnoop, 3 a recall by the home -/
  queue : List (Nat × Nat) := []
deriving DecidableEq, Repr

/-- A request of a non-caching agent, or a unit's Atomic or STREAM miss, for a granule (R279, R281): its kind (0 none, 4 NoAllocRead,
5 WriteInv, 6 Atomic), what it carries, its NAKs, and the last answer: the value read, or the prior values of an atomic. -/
structure NcReq where
  kind : Nat := 0
  mask : Nat := 0
  data : Bytes := []
  lanes : List AtomLane := []
  naks : Nat := 0
  held : Bool := false
  retryAt : Nat := 0
  value : Bytes := []
  prior : List Nat := []
deriving DecidableEq, Repr

/-- Directory states (Table 10-4). -/
inductive DSt where
  | u | s | e | o
deriving DecidableEq, Repr

/-- A transaction that collects acknowledgements at a home (R276): its kind (0 ReadOwn, 1 WriteInv, 2 Atomic, 3 eviction, 4 a
ReadOwn whose requester is gone), the
requester, whether data is sent, and the write it performs. -/
structure Txn where
  kind : Nat
  req : Nat
  full : Bool := false
  mask : Nat := 0
  data : Bytes := []
  lanes : List AtomLane := []
  /-- the request that waits for a directory eviction: its granule, its agent, its kind (1 ReadShared, 2 ReadOwn) and FULL -/
  next : Option (Nat × Nat × Nat × Bool) := none
deriving DecidableEq, Repr

/-- A home's directory entry (Table 10-4). BUSY is `txn`, with the agents whose acknowledgements are still to come. -/
structure Dir where
  st : DSt := .u
  owner : Nat := 0
  sharers : List Nat := []
  coarse : Bool := false
  dieMask : Nat := 0
  wait : List Nat := []
  txn : Option Txn := none
deriving DecidableEq, Repr

/-- Messages of Table 10-5 in flight. -/
inductive CMsg where
  /-- a request to a home: 1 ReadShared, 2 ReadOwn, 3 Upgrade, 4 NoAllocRead, 5 WriteInv, 6 Atomic -/
  | request (agent gran kind : Nat) (full : Bool)
  /-- a WriteBack or EvictClean of an agent that gives up a granule -/
  | writeBack (agent gran : Nat)
  | evictClean (agent gran : Nat)
  /-- a forward to an owner: 0 FwdShared, 1 FwdOwn, 2 FwdSnoop -/
  | fwd (kind owner req gran : Nat)
  | inv (agent gran : Nat)
  | recall (agent gran : Nat)
  /-- data from a node to a requester: grant 0 none, 1 S, 2 E, 3 M -/
  | data (src agent gran grant : Nat) (bytes : Bytes)
  | invAck (agent gran : Nat)
  | wbAck (agent gran : Nat) (superseded : Bool)
  | done (req gran : Nat) (prior : List Nat)
  | nak (src agent gran : Nat)
deriving DecidableEq, Repr

/-- A line of a unit or cluster near cache (R266): physical line address / 128 is the key; valid and dirty masks per byte, and the kernels that
stored its dirty bytes (R251). -/
structure NLine where
  data : Bytes := []
  valid : Nat := 0
  dirty : Nat := 0
  owners : List Nat := []
deriving DecidableEq, Repr

/-! ## Translation -/

/-- A cached translation (R293). -/
structure TlbEnt where
  part : Nat
  asid : Nat
  va : Nat
  size : Nat
  target : Nat
  addr : Nat
  rights : Nat
deriving DecidableEq, Repr

/-- A cached page-table entry of level 4 to 1 (Table 11-3, walk cache): which address space and virtual prefix, and the entry. -/
structure WalkEnt where
  part : Nat
  asid : Nat
  level : Nat
  va : Nat
  pte : Nat
deriving DecidableEq, Repr

/-- An open service request (R295, R296). -/
structure SvcReq where
  part : Nat
  /-- the die or hub cache whose walk met the entry -/
  walker : Nat := 0
  asid : Nat
  page : Nat
  entry : Nat
  level : Nat
  access : Nat
  tries : Nat := 0
  at_ : Nat := 0
  written : Bool := false
  /-- commands that wait on the tag (ring, position) and groups that wait on it -/
  cmds : List (Nat × Nat) := []
  groups : List Nat := []
  /-- window requests that wait on it at a hub -/
  pkts : List (Nat × TPacket) := []
  /-- tables whose ready word or record waits on it -/
  tables : List Nat := []
  /-- check units whose result entry waits on it -/
  units : List Nat := []
deriving DecidableEq, Repr

/-- A die's translation-service state: open requests by TAG (R295). -/
structure Svc where
  open_ : FMap SvcReq := []
deriving DecidableEq, Repr

/-- An import or export window (R302). -/
structure Win where
  live : Bool := false
  asid : Nat := 0
  base : Nat := 0
  size : Nat := 0
  offset : Nat := 0
  node : Nat := 0
  anyNode : Bool := false
  remote : Nat := 0
  rights : Nat := 0
deriving DecidableEq, Repr

/-- A fault queue's state beyond its registers (R305 to R307). -/
structure FQ where
  /-- the newest records written, newest first, with their index -/
  recent : List (Nat × FRec) := []
  /-- records that wait for room: those of stalled or expired requesters and those of the pending buffer -/
  waiting : List FRec := []
  pend : List FRec := []
  /-- the last valid consumer value read -/
  cons : Nat := 0
deriving DecidableEq, Repr

/-! ## Copy engines, check units and the PCIe ports -/

/-- A copy engine (R320): the command it runs (ring, position) and those queued at it, oldest first. -/
structure Engine where
  run : Option (Nat × Nat) := none
  queue : List (Nat × Nat) := []
deriving DecidableEq, Repr

/-- What a running data mover keeps (R301, R319 to R326): its engine, the transfer offset reached, the ports it wrote host memory through
(last write first) with the last address written through each, and the ports it accessed. -/
structure Mover where
  ring : Nat
  pos : Nat
  engine : Nat
  off : Nat := 0
  hostW : List (Nat × Nat) := []
  used : List Nat := []
  /-- the translations of the 64 KiB spans under way (R301) -/
  srcAt : Option Held := none
  dstAt : Option Held := none
deriving DecidableEq, Repr

/-- A module read in flight on a PCIe port: the command it belongs to, and whether it is a flushing read (R326, R328). -/
structure PRead where
  ring : Nat
  pos : Nat
  flush : Bool := true
  /-- engine time at which it was sent -/
  at_ : Nat := 0
  /-- the bus address it reads -/
  addr : Nat := 0
deriving DecidableEq, Repr

/-- A message of a check unit (R329): the command (ring, position) or the flow (source node, flow) that carries it, its bytes so far by their
offsets, whether they pass the unit's hub, and, once it has ended, whether it was cut short. -/
structure ChkMsg where
  key : Nat × Nat
  parts : List (Nat × Bytes) := []
  seen : Bool := true
  bad : Bool := false
  ended : Option Bool := none
deriving DecidableEq, Repr

/-- A check unit's binding beyond its registers (R329 to R334), and its messages not yet judged, in the order of their judging. -/
structure ChkUnit where
  loc : Held := ⟨0, 0, 0, none⟩
  log2 : Nat := 0
  count : Nat := 0
  start : Nat := 0
  anyStart : Bool := false
  first : Bool := true
  node : Nat := 0
  anyNode : Bool := false
  asid : Nat := 0
  msgs : List ChkMsg := []
  /-- UNBIND: the unit stops once its messages in progress are judged -/
  stopping : Bool := false
  /-- flows whose message had begun before the binding -/
  skip : List (Nat × Nat) := []
  /-- number of the next command start when the unit was bound: the messages of commands that started earlier are not the unit's (R332) -/
  since : Nat := 0
  /-- result entries whose translation waits on a service request, oldest first: address and bytes -/
  todo : List (Nat × Bytes) := []
deriving DecidableEq, Repr

/-- The capabilities that a function carries (Table 12-3): MSI and MSI-X are not among them (R76). -/
inductive PciCap where
  | pciExpress | powerManagement | aer | resizableBar | deviceSerial | dataLinkFeature | phy16 | phy32 | phy64 | laneMargining
deriving DecidableEq, Repr

/-- A PCIe port beyond its registers: reads in flight by tag, whether Memory Space Enable is set, peer verifications in
progress with their start, and the configuration requests answered with Request Retry Status (R413). -/
structure PciPort where
  reads : FMap PRead := []
  /-- flushing reads that wait for one of the 1,024 tags: (ring, position, address), oldest first -/
  queued : List (Nat × Nat × Nat) := []
  /-- Memory Space Enable (R312) -/
  memEn : Bool := false
  verifyAt : FMap Nat := []
  /-- DETAIL of the last host-loss event (Table 12-5) -/
  lastEvent : Nat := 1
  retryStatus : Nat := 0
  /-- the function's capability list -/
  caps : List PciCap :=
    [.pciExpress, .powerManagement, .aer, .resizableBar, .deviceSerial, .dataLinkFeature, .phy16, .phy32, .phy64, .laneMargining]
  /-- addresses in BAR0 and BAR2, the size of BAR2 as a power of two (Table 12-3: 64 GiB by default), and that the function is in D3hot -/
  bar0 : Nat := 0
  bar2 : Nat := 0
  bar2Log : Nat := 36
  d3hot : Bool := false
  /-- configuration reads answered: register and value -/
  cfgReads : List (CfgReg × Nat) := []
  /-- bus addresses of the identity reads sent to peers, newest first (R314) -/
  idReads : List Nat := []
deriving DecidableEq, Repr

/-! ## Cellar and tap engines -/

/-- A stack's cellar beyond its registers (R196, R218): the region in force with its base (as a stack offset) and count, the top of the
free list, and that ENABLE was cleared. -/
structure Cellar where
  base : Nat := 0
  casks : Nat := 0
  top : Nat := 0xFFFFFFFF
  dropping : Bool := false
  /-- casks of an interrupted CASK_FREE whose entry is zeroed, to be freed once their PINS is 0 (R209) -/
  toFree : List Nat := []
deriving DecidableEq, Repr

/-- Where a cellar command stands (R207, R209, R211, R483). -/
inductive CPhase where
  /-- resolves the entry, or waits until HOLD and WRITER are clear -/
  | take
  /-- holds the cask and waits until PINS is 0 -/
  | pins
  /-- holds the cask and writes it -/
  | write
deriving DecidableEq, Repr

/-- A cellar command in progress: the next entry it visits, what it waits for, the cask it holds, the cask a move popped, and
its counts. -/
structure COp where
  ring : Nat
  pos : Nat
  ix : Nat := 0
  phase : CPhase := .take
  stack : Nat := 0
  cask : Nat := 0
  popped : Option (Nat × Nat) := none
  count : Nat := 0
  detail : Nat := 0
  /-- the descriptor as the command read it at its start (R199) -/
  desc : Bytes := []
  /-- CASK_ALLOC: the casks, with their stacks, reserved for the entries still to come (R203) -/
  reserved : List (Nat × Nat) := []
deriving DecidableEq, Repr

/-- A cask pinned by a TAP (R212): its stack, index, block and the FILL recorded, and the passes that have still to read it. -/
structure Pin where
  stack : Nat
  cask : Nat
  block : Nat
  fill : Nat
  left : Nat
deriving DecidableEq, Repr

/-- A pass of a TAP (R225). -/
structure Pass where
  ring : Nat
  pos : Nat
  group : Nat
  slice : Nat
deriving DecidableEq, Repr

/-- A TAP command in progress (R223 to R231). -/
structure Tap where
  ring : Nat
  pos : Nat
  resolved : Bool := false
  pins : List Pin := []
  /-- stacks of the slices, ascending -/
  slices : List Nat := []
  /-- passes not yet dispatched to their engine, as (stack, pass) in dispatch order -/
  held : List (Nat × Pass) := []
  /-- passes not yet ended -/
  left : Nat := 0
  /-- the descriptor read at its start, and the stack and cask whose HOLD or full PINS it waits for (R212) -/
  desc : Bytes := []
  blocked : Option (Nat × Nat) := none
  /-- engines whose full queue holds the next pass, already counted (R226) -/
  fullAt : List Nat := []
deriving DecidableEq, Repr

/-- A tap engine (R226): queued passes, oldest first, and the running pass with the row records it will write (R230) as
(address offset in OUT, bytes). -/
structure TapEng where
  queue : List Pass := []
  run : Option (Pass × List (Nat × Bytes)) := none
deriving DecidableEq, Repr

/-! ## Corox -/

/-- A data flit that was discarded (R344): its SEQ, its place in the direction's run of flits, the lanes that carried it in ascending order,
and the bytes that arrived. -/
structure DFlit where
  seq : Nat
  phase : Nat
  lanes : List Nat
  bytes : Bytes
deriving DecidableEq, Repr

/-- One end of a Corox module beyond its registers (R342 to R349). Ends are numbered 9n + m on dies and 144 + 8h + m on hubs; 176 + k is the
guest's end of site k's module. -/
structure CrxEnd where
  /-- SEQ of the last data flit sent, and of the last one received good -/
  txSeq : Nat := 0
  rxSeq : Nat := 0
  /-- flits in the replay buffer (SEQ and payload, oldest first), at most 128, and those of them still to be replayed before any new flit -/
  replay : List (Nat × Bytes) := []
  resend : List Nat := []
  /-- this end sends NAK until the expected SEQ arrives good -/
  nakOut : Bool := false
  /-- SEQ named by the NAKs received in a row, and how many -/
  nakSeq : Nat := 0
  nakRun : Nat := 0
  /-- credit for each VC 0 to 4, in units (Table 13-4) -/
  credit : List Nat := [64, 64, 128, 512, 32]
  /-- flits discarded, with which their replays are compared -/
  discarded : List DFlit := []
  /-- idle flits in a row in which a lane differed from their pattern (R344) -/
  stuck : FMap Nat := []
  /-- the route's delay as last measured, at training or at a window, which the time distribution compensates (R341) -/
  delay : Nat := 0
  /-- flits received since the direction trained, modulo 3: their place on the lanes at 48 lanes (R337) -/
  phase : Nat := 0
  /-- units in each receive buffer, delivered and not yet returned as credit (R342) -/
  held : List Nat := [0, 0, 0, 0, 0]
  /-- packet whose units go on in the next data flit sent, or received: its channel and the units still to come (R339) -/
  txPart : Nat × Nat := (0, 0)
  rxPart : Nat × Nat := (0, 0)
  /-- engine time of the last flit received -/
  lastFlit : Nat := 0
  /-- engine time at which the pending window became pending; the first deal that may run it -/
  pendAt : Nat := 0
  nextDeal : Nat := 0
  /-- the pending window is a forced one (R345), or was asked for by RETRAIN -/
  forced : Bool := false
  retrain : Bool := false
  /-- STATE that the running window ends in, and the one it began in -/
  goal : Nat := 2
  prior : Nat := 2
deriving DecidableEq, Repr

/-- A transaction's identity and answer that a receiver remembers for 100 us (R430): the home's stack, the requester, the granule. -/
structure CrxTxn where
  receiver : Nat
  sender : Nat
  tag : Nat
  at_ : Nat
  answer : Nat := 0
deriving DecidableEq, Repr

/-- A guest site beyond its registers: the requests admitted and not yet performed, with their partitions (oldest first), the EXPEL command that
waits, the packets sent to the guest (newest first), the engine time of the last training attempt, and, since ADMIT, the bytes moved, when it
began, and when credit is next returned under RATE (R358). Of its link: the units that wait for flits to the guest, the flits sent (newest
first), the part of a packet that has arrived, the width code of the hub's direction, and the lanes that a UCIe link has lost (R360). -/
structure Guest where
  waiting : List (Nat × GPacket) := []
  expel : Option (Nat × Nat) := none
  out : List Bytes := []
  lastTry : Nat := 0
  moved : Nat := 0
  since : Nat := 0
  creditAt : Nat := 0
  queue : List Bytes := []
  flits : List Bytes := []
  part : Bytes := []
  width : Nat := 3
  lost : List Nat := []
deriving DecidableEq, Repr

/-! ## Tilus -/

/-- A Tilus port beyond its registers (R364 to R366, R378, R380). -/
structure TlsPort where
  txSeq : Nat := 0
  rxSeq : Nat := 0
  /-- unacknowledged data frames: SEQ and the packets each carries -/
  replay : List (Nat × List TPacket) := []
  /-- packets queued and not yet sent, oldest first -/
  queue : List TPacket := []
  /-- packets received and not yet handled, oldest first: they hold units of the receive buffers -/
  rx : List TPacket := []
  nakOut : Bool := false
  /-- SEQ named by the NAKs received in a row, and how many -/
  nakSeq : Nat := 0
  nakRun : Nat := 0
  credit : List Nat := List.replicate 8 1024
  pool : Nat := 57344
  /-- units whose credit the next frames return: channels 0 to 7, and the pool -/
  back : List Nat := List.replicate 9 0
  /-- engine time of entering RETRAIN, or TRAINING from UP -/
  downAt : Option Nat := none
  /-- engine time of the last training attempt; 0: none since ENABLE -/
  lastTry : Nat := 0
  /-- engine time of the last beacon frame -/
  lastBeacon : Nat := 0
  /-- ns of PRIO frames sent in the current interval, its start, and that frames wait for the next -/
  prioNs : Nat := 0
  prioAt : Nat := 0
  prioOver : Bool := false
deriving DecidableEq, Repr

/-- A reservation's deals (R376): first deal, deals left to run (0: no end), next deal that may open it, the moment it closes, and
the System Time at which its command completed (2^64 before that). -/
structure Resv where
  firstDeal : Nat := 0
  count : Nat := 0
  nextDeal : Nat := 0
  openUntil : Option Nat := none
  since : Nat := 0
  /-- the deal whose slot is open -/
  deal : Nat := 0
deriving DecidableEq, Repr

/-- What waits for the answer to a window request. -/
inductive RWait where
  | cmd (ring pos : Nat)
  /-- a lane's access: destination register (256: none), bytes, and for a CAS its compare value plus 1 -/
  | group (g : Nat) (lane : Nat) (dst : Nat) (width : Nat) (cas : Nat)
  /-- the write of a check unit's result entry (R334) -/
  | chk (unit : Nat)
  /-- the write of a command's flag (R89) -/
  | flag (ring pos : Nat)
  /-- a table's ready word or record: its key, and the ring and position of its TABLE_JOIN (R69) -/
  | table (key ring pos : Nat)
deriving DecidableEq, Repr

/-- An outstanding window request of a hub (R374), by the TAG of its packet; one that waits for a tag has a key of 65536 and above. -/
structure RReq where
  /-- its packet while it waits for a free tag -/
  unsent : Option TPacket := none
  hub : Nat
  node : Nat
  win : Nat
  off : Nat
  len : Nat
  /-- 1 read, 2 write, 3 atomic -/
  op : Nat
  sentAt : Nat
  /-- the port its packet left by -/
  port : Option Nat := none
  wait : RWait
  /-- where read data goes: the local address that takes it -/
  dst : Option Loc := none
  dstVa : Nat := 0
  /-- the import it went through: 256 × partition + slot -/
  flow : Nat := 0
  va : Nat := 0
  /-- of a command that moves bytes: the transfer offsets of its first byte and of the span it belongs to (R301) -/
  place : Option (Nat × Nat) := none
deriving DecidableEq, Repr

/-! ## Power -/

/-- A PWR_LIMIT that waits for its window boundary (R393). -/
structure Limit where
  ring : Nat
  pos : Nat
  /-- number of the command's acceptance -/
  no : Nat
  effect : Nat
  startAt : Nat
  moduleW : Nat
  dieW : Nat
  trump : Nat
deriving DecidableEq, Repr

/-- A die's clocks and droop state beyond its registers (R384 to R401). -/
structure DiePwr where
  /-- dynamic energy of the current window, in 64ths of 1 pJ -/
  energy : Nat := 0
  /-- engine time at which the step under way ends, and the state it moves to -/
  stepEnd : Option (Nat × Nat) := none
  /-- a droop is present; the time it cleared; stretch and step hold still running -/
  droop : Bool := false
  clearAt : Nat := 0
  holding : Bool := false
  /-- a step waits for the hold -/
  waiting : Bool := false
  /-- alert of the die's group was asserted in the current window; it was forced by an alert in the current deal -/
  alertWin : Bool := false
  /-- the die idles, its units clock-gated (R403) -/
  idle : Bool := false
  /-- hot since 110 °C (R402) -/
  hot : Bool := false
  stretchAt : Nat := 0
  /-- the stack and node domains run at 0.625 GHz (R385, R387) -/
  slow : Bool := false
  /-- what has run on the die in the current window: bit 0 a resident group, bit 1 a tap pass, bit 2 a node core (R389) -/
  ran : Nat := 0
deriving DecidableEq, Repr

/-- Power state of the module beyond its registers (R389 to R408). -/
structure Power where
  /-- next window boundary, System Time -/
  nextWin : Nat := 0
  /-- module estimate of each of the previous 499 windows, in 64ths of 1 pJ, newest first -/
  history : List Nat := []
  limits : List Limit := []
  dies : FMap DiePwr := []
  /-- dynamic energy of the current window of each hub and each stack, and of Corox, in 64ths of 1 pJ -/
  hubE : FMap Nat := []
  stackE : FMap Nat := []
  coroxE : Nat := 0
  /-- die and stack budgets, and hub spacing in 64ths -/
  spacing : FMap Nat := []
  /-- alert inputs 0 to 9 (C0 to C7, M, H): engine time of release while the effect still holds -/
  alertAt : FMap Nat := []
  /-- alerts whose effect holds, as a bit mask -/
  alertOn : Nat := 0
  /-- hubs at 110 °C or above (bit mask) -/
  hotHubs : Nat := 0
  coolLostAt : Option Nat := none
  coolBackAt : Option Nat := none
  coolForced : Bool := false
  /-- NAP transitions: partition to engine time of start; napping stacks woken, with the time of the last access -/
  napAt : FMap Nat := []
  woken : FMap Nat := []
  /-- bit p: node cores of partition p stopped by NAP -/
  napCores : Nat := 0
  /-- intervals of System Time, newest first, in which a cap was engaged on a die, or a regulator alert forced it (R62) -/
  capSeen : FMap (List (Nat × Nat)) := []
  forcedSeen : FMap (List (Nat × Nat)) := []
deriving DecidableEq, Repr

/-! ## Reset, failure and the tally hubs -/

/-- Start-up and failure state beyond the RST_ registers. -/
structure ResetSt where
  /-- engine time of entry to the present phase -/
  phaseAt : Nat := 0
  /-- engine time since which COOL_OK has been asserted without a break -/
  coolAt : Option Nat := none
  /-- engine time at which COOL_OK qualified -/
  qualAt : Nat := 0
  /-- main rails good, reference clock present -/
  railsGood : Bool := false
  refclk : Bool := true
  refclkLost : Bool := false
  /-- error of the internal oscillator that clocks the module while REFCLK is absent, in parts per 10^9 -/
  osc : Int := 0
  /-- engine time of the last heartbeat round -/
  beatAt : Nat := 0
  /-- last heartbeat heard from each hub (by any other hub) and each die (by its home hub): 0 to 3 hubs, 4 + n dies -/
  heard : FMap Nat := []
  /-- a hub in reset by DOMAIN_RESET, with the command that waits (ring, position) -/
  hubReset : FMap (Nat × Nat) := []
  /-- module rings: acting hub by PCIe port, and mirror by port -/
  modActing : List Nat := [0, 1]
  modMirror : List (Option Nat) := [some 1, some 0]
  /-- hubs to which entries are being copied: partition (16, 17 for module rings of port 0, 1) to the new mirror -/
  copying : FMap Nat := []
  /-- auxiliary power is applied -/
  vaux : Bool := true
deriving DecidableEq, Repr

/-! ## Security -/

/-- A key slot as the keeper holds it (Table 17-1), with the ring and position of the last commit (R433). -/
structure KeySlot where
  state : Nat := 0
  key : Bytes := []
  rights : Nat := 0
  scope : Nat := 0
  last : Nat := 0
  lastRing : Nat := 0
  lastPos : Nat := 0
  /-- ring and position of the KEY_INSTALL or KEY_RETIRE that last changed the record (R446) -/
  byRing : Nat := 0
  byPos : Nat := 0
deriving DecidableEq, Repr

/-- A keeper commit in flight (R437). -/
inductive Commit where
  /-- counter of a critical command fetched but not yet accepted (R93, R440) -/
  | counter (ring pos slot value : Nat) (claim : Bool)
  /-- a key slot's new contents, by KEY_INSTALL or KEY_RETIRE -/
  | slot (ring pos slot : Nat) (rec : KeySlot) (claim : Bool)
  /-- the leaf index taken by a signature (R448) -/
  | leaf (ring pos next : Nat)
  /-- a partition's minimum boot version (R451) -/
  | minimum (ring pos part version : Nat)
deriving DecidableEq, Repr

/-- A signature in progress (R448): hub, command, leaf, System Time of step 1. -/
structure Sign where
  hub : Nat
  ring : Nat
  pos : Nat
  leaf : Nat
  time : Nat
  /-- leaf + 1 has been committed (step 2) -/
  ready : Bool := false
deriving DecidableEq, Repr

/-- The keeper and what the hubs hold for the critical commands (R436 to R452). -/
structure Keeper where
  slots : List KeySlot := List.replicate 16 {}
  nextLeaf : Nat := 0
  exhausted : Bool := false
  mins : List Nat := List.replicate 16 0
  claims : Nat := 0
  ok : Bool := true
  commits : Nat := 0
  /-- commits in flight, oldest first -/
  queue : List Commit := []
  /-- ATTEST commands that wait for the signing engine, oldest first, and the signature in progress -/
  waiting : List (Nat × Nat) := []
  signing : Option Sign := none
  /-- signed reports that are being written: ring, position, leaf and bytes -/
  reports : List (Nat × Nat × Nat × Bytes) := []
  /-- fused: identity public key, customer root-key hash (none: unprogrammed), die identities -/
  idpk : Bytes := List.replicate 68 0
  rootHash : Option Bytes := none
  dieIds : FMap Nat := []
  /-- boot images: partition to (base, end) physical range closed to writes, the image hash recorded -/
  bootRange : FMap (Nat × Nat) := []
  bootHash : FMap Nat := []
deriving DecidableEq, Repr

/-! ## Event counters -/

/-- A COUNTER_SET or COUNTER_SNAP that waits for its action time (R460). -/
structure CtrOp where
  ring : Nat
  pos : Nat
  /-- dies named, a DIE_MASK of 0 resolved -/
  dies : Nat
  /-- snapshots latched and written so far, and the one latched whose write waits for a translation -/
  done : Nat := 0
  latched : Option Bytes := none
deriving DecidableEq, Repr

/-! ## Management and test ports -/

/-- The I3C management port and the test access ports (R476 to R478). -/
structure Mgmt where
  addr : Option Nat := none
  /-- low 32 bits of the provisional ID, shown at the last ENTDAA -/
  pid : Option Nat := none
  /-- value the next private read returns -/
  reply : Option Nat := none
  /-- last GETSTATUS answer -/
  status : Nat := 0
  /-- per device of the chain (hub h, die 4 + n): instruction 0 BYPASS, 1 IDCODE, 2 SAMPLE/PRELOAD, 3 EXTEST, 4 CLAMP -/
  ir : FMap Nat := []
  /-- boundary-scan cells last preloaded, per device, and the bits last captured in the selected register -/
  boundary : FMap (List Bool) := []
  shifted : FMap Nat := []
deriving DecidableEq, Repr

/-! ## Node cores -/

/-- A node core: whether it runs, its start address, its reservation (granule), and the exception its last access took: 0 none,
1 load, 2 store, 3 instruction access fault; the value its last read returned. -/
structure NodeCore where
  running : Bool := false
  entry : Nat := 0
  a0 : Nat := 0
  a1 : Nat := 0
  machine : Bool := true
  resv : Option Nat := none
  trap : Nat := 0
  trapAddr : Nat := 0
  value : Nat := 0
  /-- L1 instruction cache copies of granules (stores reach it only after FENCE.I) -/
  icache : FMap Bytes := []
deriving DecidableEq, Repr

/-! ## Kernels and groups -/

/-- An entry of a group's reconvergence stack (R118). -/
structure StackEnt where
  pc : Nat
  mask : Nat
  rpc : Nat
deriving DecidableEq, Repr

/-- What a group waits for before it issues again. -/
inductive GWait where
  | none
  /-- held at a team barrier (R128) -/
  | barrier
  /-- a load whose bytes have not all arrived (R270): the instruction issues again when they have -/
  | fill
  /-- a service request or a stalled fault record -/
  | service
  /-- answers of window requests still to come -/
  | remote (left : Nat)
  /-- the group has faulted: it issues no more -/
  | stopped
deriving DecidableEq, Repr

/-- A resident thread group (R113, R118, R131). Keys of `v` are 64 × register + lane; unlisted registers hold zero (R141). The
stack is listed top first. -/
structure Group where
  live : Bool := false
  kernel : Nat := 0
  team : Nat := 0
  inTeam : Nat := 0
  unit : Nat := 0
  stack : List StackEnt := []
  v : FMap Nat := []
  s : FMap Nat := []
  p : FMap Nat := []
  bb : Nat := 0
  fy : Nat := 0
  lastBack : Option Nat := none
  wait : GWait := .none
  /-- the access that waits on a service request -/
  waiting : Option Waiting := none
  /-- address of the instruction whose window requests are open, and the register lanes (key, value) it writes when all have answered -/
  ipc : Nat := 0
  late : List (Nat × Nat) := []
  /-- place in the choice of R112: the number of its last issue among those of its unit, or of the forced yield that moved it behind -/
  order : Nat := 0
  /-- an instruction has issued and is not complete: it is taken again when what it waits for has come (R145, R168) -/
  begun : Bool := false
  /-- words of the instruction at the pc that came through an import window (R304): address and bytes -/
  code : List (Nat × Bytes) := []
deriving DecidableEq, Repr

/-- Phases of a kernel (R137 to R145). -/
inductive KPhase where
  /-- queued for start, or held as the 33rd of its partition -/
  | queued
  | running
  /-- stopped by a fault, a time limit or a reset: no team is dispatched, groups stop -/
  | stopping
deriving DecidableEq, Repr

/-- A kernel (R134 to R145). -/
structure Kernel where
  live : Bool := false
  ring : Nat := 0
  pos : Nat := 0
  part : Nat := 0
  asid : Nat := 0
  vregs : Nat := 16
  scratch : Nat := 0
  code : Nat := 0
  codeSize : Nat := 8
  features : Nat := 0
  yield : Nat := 0
  zero : Bool := false
  args : Nat := 0
  groups : Nat := 0
  team : Nat := 1
  prio : Nat := 0
  dies : Nat := 0
  timeLimit : Nat := 0
  /-- epoch under which it was launched, and the mode it runs in (R71) -/
  epoch : Nat := 0
  mode : Nat := 0
  /-- order in which launches began execution -/
  seq : Nat := 0
  phase : KPhase := .queued
  nextTeam : Nat := 0
  ended : Nat := 0
  firstAt : Option Nat := none
  /-- the first fault received (R146), as the result the kernel ends with, and its record while it is not yet written -/
  fault : Option Result := none
  frec : Option FRec := none
deriving DecidableEq, Repr

/-- A team on its cluster (R114, R127), numbered kernel × 2^40 + team: the 4 KiB granules of the cluster scratch that it holds, in the order
of its addresses. -/
structure Team where
  live : Bool := false
  cluster : Nat := 0
  grans : List Nat := []
deriving DecidableEq, Repr

/-- A fault raised by a group that has not yet reached the launch controller (R145, R146). -/
structure GFault where
  group : Nat
  kernel : Nat
  unit : Nat
  res : Result
  frec : FRec
deriving DecidableEq, Repr

/-- A region-slice fill in progress (R269, R270): the physical line (address / 128), its critical sector, the granules of the line that come
(bit mask of 2), the sectors that have arrived (mask of 4), whether the line is allocated (not STREAM), its bytes, and who waits. -/
structure Fill where
  slice : Nat
  line : Nat
  first : Nat
  have_ : Nat := 3
  arrived : Nat := 0
  alloc : Bool := true
  /-- the line whose fill is delivered first, for the buddy line of a miss -/
  after : Option Nat := none
  data : Bytes := []
  /-- groups whose loads wait on bytes of the fill -/
  waiters : List Nat := []
deriving DecidableEq, Repr

/-! ## Messages that leave the module -/

/-- What the module sends (newest first): Tilus frames, what the table packets in them say, zero-length PCIe reads as (port, tag, address), and answers to inbound reads as (port, completion status 0 to 3: successful, UR, CA, retry, data). -/
structure Outbox where
  /-- Tilus frames: the port and its 800 bytes -/
  tls : List (Nat × Bytes) := []
  table : List (Nat × Nat × TableMsg) := []
  marks : List (Nat × Nat × MarkerMsg) := []
  recs : List (Nat × Nat × StepRec) := []
  pcie : List (Nat × Nat × Nat) := []
  inbound : List (Nat × Nat × Bytes) := []
  /-- Corox flit controls sent back (end, ACK, NAK), and flits replayed (end, SEQ) -/
  crx : List (Nat × Nat × Bool) := []
  crxReplay : List (Nat × Nat) := []
  /-- undelivered flits of a disabled module, whose packets went by other routes (end, SEQ, payload) (R349) -/
  crxMoved : List (Nat × Nat × Bytes) := []
deriving DecidableEq, Repr

/-! ## The state -/

/-- Caches outside the coherent domain and the coherent domain itself (chapter 10). -/
structure Caches where
  /-- near-cache lines: key cache × 2^46 + physical line, with caches 0 to 2047 the units and 2048 + c the clusters -/
  near : FMap NLine := []
  /-- ways of a near-cache set (key cache × 512 + set), and its tree pseudo-LRU bits -/
  nearWays : FMap (List Nat) := []
  nearPlru : FMap Nat := []
  /-- copies held by caching agents: key agent × 2^37 + granule (module-wide: stack × 2^31 + offset / 64) -/
  copies : FMap Copy := []
  /-- directory entries by granule -/
  dir : FMap Dir := []
  /-- STARVING requests recorded per stack, oldest first: (granule, requester, FULL) (R278) -/
  starve : FMap (List (Nat × Nat × Bool)) := []
  /-- shift registers: agents (R264, R277) and homes (2048 + stack) -/
  lfsr : FMap Nat := []
  /-- lines in the ways of a region-slice set: key slice × 8192 + set; way w holds line + 1, 0 when invalid -/
  ways : FMap (List Nat) := []
  fills : List Fill := []
  /-- coherence messages in flight, in the order they were sent, each with the route generation it was sent under (R340) -/
  net : List (Nat × CMsg) := []
  /-- requests of non-caching agents, keyed like copies -/
  nc : FMap NcReq := []
  /-- requests whose set of directory entries had none free or idle, oldest first: (granule, requester, kind, FULL) (R264, R274) -/
  dirWait : List (Nat × Nat × Nat × Bool) := []
  /-- non-caching requests in progress: requester to count of its writes and atomics not yet answered Done -/
  openW : FMap Nat := []
  /-- node-core caches (Table 10-1): granules + 1 in the ways of a set, and the tree pseudo-LRU bits; key (kind × 256 + core) × 2048 + set,
  with kinds 0 L2, 1 L1 instruction, 2 L1 data -/
  coreWays : FMap (List Nat) := []
  corePlru : FMap Nat := []
deriving DecidableEq, Repr

/-- Translation (chapter 11). Caches are numbered: clusters 0 to 511, dies 512 + n, hubs 528 + h, engines 600 and above. -/
structure Xlate where
  tlb : FMap (List TlbEnt) := []
  walk : FMap (List WalkEnt) := []
  svc : FMap Svc := []
  imports : FMap Win := []
  exports : FMap Win := []
  fq : FMap FQ := []
  /-- window requests that wait for a free tag of a service queue: (queue's die, hub, request) -/
  parked : List (Nat × Nat × TPacket) := []
  /-- acknowledgements an XLATE_INVAL still awaits: (ring, position, cache) -/
  acks : List (Nat × Nat × Nat) := []
  /-- remote copies whose data is arriving through an export: (window, source node, flow) (R332) -/
  midMsg : List (Nat × Nat × Nat) := []
deriving DecidableEq, Repr

/-- The machine. -/
structure State where
  /-- commands that wait, first in, first out -/
  pending : List Instr := []
  regs : Regs := []
  fuse : Fuse := {}
  time : TimeSt := {}
  scheds : FMap Sched := []
  modes : FMap ModeSt := []
  tables : FMap TTable := []
  rings : FMap Ring := []
  mem : List Host.Cell := []
  hostMem : List Host.Cell := []
  /-- symbols in error per codeword (key stack × 2^31 + offset / 64): symbol number 0 to 35 (32 to 35 the check symbols) and the
  bits in error (R248, R249) -/
  ecc : FMap (List (Nat × Nat)) := []
  stk : FMap Stack := []
  caches : Caches := {}
  xl : Xlate := {}
  engines : FMap Engine := []
  movers : List Mover := []
  chk : FMap ChkUnit := []
  pci : FMap PciPort := []
  /-- last host address written by each ring through each port: key ring × 2 + port (R328) -/
  lastHostW : FMap Nat := []
  cellar : FMap Cellar := []
  cops : List COp := []
  taps : List Tap := []
  tapEng : FMap TapEng := []
  crx : FMap CrxEnd := []
  crxTxns : List CrxTxn := []
  guests : FMap Guest := []
  ports : FMap TlsPort := []
  resv : FMap Resv := []
  rreqs : FMap RReq := []
  /-- per hub, the tag that its next window request takes if it is free -/
  tags : FMap Nat := []
  power : Power := {}
  rst : ResetSt := {}
  keeper : Keeper := {}
  ctrOps : List CtrOp := []
  mgmt : Mgmt := {}
  cores : FMap NodeCore := []
  kernels : FMap Kernel := []
  /-- the number of the next start of a command, or of the next kernel made -/
  nextKernel : Nat := 0
  groups : FMap Group := []
  teams : FMap Team := []
  gfaults : List GFault := []
  /-- cluster scratch bytes: key cluster × 2^20 + address -/
  scratch : FMap Byte := []
  out : Outbox := {}
  /-- the model's own: how many free values have been taken -/
  free : Nat := 0
deriving DecidableEq, Repr

/-- The machine at power-on with auxiliary power applied (R410, R414): phase AUX, CAUSE 0, every register at its reset value. -/
def State.reset : State := {}

end Sys2Proof.Machine
end

