-- ==== Sys2Proof/WellFormed.lean ====
section
/-!
DEFINITION. Which commands name things the module has: rings 0 to 255, dies 0 to 15, hubs 0 to 3, stacks 0 to 31 and so on. A command that
names anything else is no command of this hardware.
-/

namespace Sys2Proof

def Who.ok : Who → Bool
  | .host => true
  | .core p => decide (p < 16)

def IWord.ok (w : IWord) : Bool :=
  decide (w.d < 256) && decide (w.a < 256) && decide (w.b < 256) && decide (w.c < 256) && decide (w.pred < 8) &&
    decide (w.fmt < 8) && decide (w.rnd < 8) && decide (w.mod < 128)

def TapDev.ok : TapDev → Bool
  | .hub h => decide (h < 4)
  | .die n => decide (n < 16)

/-- Access sizes and atomic operations that RV64GC has. -/
def CoreOp.ok : CoreOp → Bool
  | .load _ n | .store _ n _ => n == 1 || n == 2 || n == 4 || n == 8
  | .fetch _ n => n == 2 || n == 4
  | .lr _ n | .sc _ n _ => n == 4 || n == 8
  | .amo _ n op _ => (n == 4 || n == 8) && op != .cas && op != .fadd && op != .reserved
  | .fenceI | .rdtime | .mhartid => true

/-- A dword of a configuration space of 4 KiB. -/
def CfgReg.ok : CfgReg → Bool
  | .header n => decide (n < 16)
  | .other n => decide (16 ≤ n) && decide (n < 1024)
  | .serial _ | .rebarSizes | .rebarControl | .power => true

/-- Operand ranges of the rows that stand late in the table: a ring and position, a hub, a die, a stack. -/
def okPos (r p : Nat) : Bool := decide (r < 256) && decide (p < 2 ^ 64)
def okHub (h : Nat) : Bool := decide (h < 4)
def okDie (n : Nat) : Bool := decide (n < 16)
def okStack (k : Nat) : Bool := decide (k < 32)

/-- A link trained by PCIe: port, generation and width. -/
def okLink (k sp w : Nat) : Bool := decide (k < 2) && decide (1 ≤ sp) && decide (sp ≤ 6) && (w == 4 || w == 8 || w == 16)

/-- A table's partition and identifier. -/
def okTable (p t : Nat) : Bool := decide (p < 16) && decide (t < 2 ^ 32)

/-- A group and a class in which a word can be reserved and is no other row's: 12 to 15, and the reserved OPs of 9 to 11. -/
def okReserved (g c : Nat) : Bool := decide (g < 65536) && decide (9 ≤ c) && decide (c < 16)

/-- A requester: a caching agent below 512, or non-caching agent 512 + 32 × node + i of a node below 20 (notes/assumptions/48). -/
def okRequester (a g : Nat) : Bool := decide (a < 1152) && decide (g < 2 ^ 36)

/-- The operands are in range. -/
def Instr.wellFormed : Instr → Bool
  | .registerWrite w off _ _ => w.ok && decide (off < 2 ^ 28)
  | .ringEnable w r _ | .ringDisable w r _ | .ringResume w r _ | .ringDiscard w r _ => w.ok && decide (r < 256)
  | .dealerRoleSet w _ | .dealerRoleClear w _ | .timeDealerSet w _ | .tlsNodeWrite w _ => w.ok
  | .clrEnable w k _ | .clrDisable w k _ | .memRetrain w k _ | .memPeakClr w k _ => w.ok && decide (k < 32)
  | .memPmapWrite w p _ | .napEnter w p _ | .napExit w p _ => w.ok && decide (p < 16)
  | .faultQueueEnable w q _ => w.ok && decide (q < 17)
  | .svcQueueEnable w n _ | .svcReplyRetry w n _ | .svcReplyFault w n _ | .svcConsWrite w n _ => w.ok && decide (n < 16)
  | .peerEnable w k i _ | .peerDisable w k i _ => w.ok && decide (k < 2) && decide (i < 16)
  | .chkClear w h u _ => w.ok && decide (h < 4) && decide (u < 8)
  | .coroxRetrain w e _ | .coroxDisableSet w e _ | .coroxDisableClear w e _ => w.ok && decide (e < 176)
  | .tilusPortEnable w p _ | .tilusPortDisable w p _ => w.ok && decide (p < 16)
  | .nop r p | .fence r p | .signal r p | .waitFlag r p | .waitTime r p | .launch r p | .launchAt r p | .copy r p
  | .copyInline r p | .fill r p | .copyStrided r p | .caskAlloc r p | .caskRack r p | .caskFree r p | .caskMove r p
  | .tap r p | .xlatePrime r p | .xlateInval r p | .windowSet r p | .checkBind r p | .counterSet r p | .counterSnap r p
  | .dealSet r p | .slotReserve r p | .tableJoin r p | .modeSet r p | .pwrLimit r p | .partitionSet r p
  | .keyInstall r p | .keyRetire r p | .domainReset r p | .firewallSet r p | .guestAdmit r p | .attest r p
  | .bootRelease r p | .caskTake r p | .pinsZero r p | .tapResolve r p | .translationAck r p | .reservedOpcode r p =>
    decide (r < 256) && decide (p < 2 ^ 64)
  | .ringScan r _ | .producerRead r _ | .packetFetch r _ | .recordDeliver r _ => decide (r < 256)
  | .tallyAck r p _ | .commandFinish r p _ | .waitFlagPoll r p _ | .waitFlagTimeout r p _ | .waitTimeResume r p _
  | .launchAtRelease r p _ | .faultWaitExpiry r p _ | .counterAction r p _ | .counterLatch r p _ =>
    decide (r < 256) && decide (p < 2 ^ 64)
  | .scalarArithmetic g _ w | .vectorInteger g _ w | .vectorFloating g _ w | .specialFunction g _ w
  | .shfl g _ w | .vote g _ w => decide (g < 65536) && w.ok
  | .cvt g op w => decide (g < 65536) && decide (op < 1024) && w.ok
  | .branch g w | .jumpIndirect g w | .endInstr g w | .mma g w | .mld g w | .mst g w | .bar g w | .membar g w
  | .trap g w | .timerd g w | .laneid g w | .unitid g w | .counterRead g w => decide (g < 65536) && w.ok
  | .ld g _ w | .st g _ w | .lds g _ w | .sts g _ w => decide (g < 65536) && w.ok
  | .atom g _ _ w | .atoms g _ _ w => decide (g < 65536) && w.ok
  | .barRelease _ _ => true
  | .sectorDelivery sl line sec => decide (sl < 64) && decide (line < 2 ^ 45) && decide (sec < 4)
  | .forcedYield g | .stalemate g => decide (g < 65536)
  | .kernelStart _ _ | .teamDispatch _ _ | .kernelEnd _ _ | .kernelFault _ _ | .kernelTimeLimit _ _ => true
  | .epochApply u _ => decide (u < 2048)
  | .beaconSend h _ => decide (h < 4)
  | .beaconReceive p f _ => decide (p < 16) && f.body.length == 768
  | .beaconTimeout p _ => decide (p < 16)
  | .holdoverExpiry _ => true
  | .tableCtl p t _ _ _ | .tableJoinDeadline p t _ | .stepEvaluate p t _ | .readyReread p t _ | .marker p t _ _ _
  | .stepWaitLimit p t _ | .record p t _ _ | .tableAckTimeout p t _ _ => decide (p < 16) && decide (t < 2 ^ 32)
  | .clrFormatDone k _ | .clrRegionDrop k | .tapPassStart k | .tapPassEnd k | .memRetrainWindow k _ | .memWindowEnd k _
  | .napStackIdle k _ | .stackFail k => decide (k < 32)
  | .tapPassDispatch r p k => decide (r < 256) && decide (p < 2 ^ 64) && decide (k < 32)
  | .bulkRead _ k off | .scrubRead k off => decide (k < 32) && decide (off < 2 ^ 37)
  | .bulkWrite _ k off d => decide (k < 32) && decide (off + d.length ≤ 2 ^ 37)
  | .narrowRead _ k off len => decide (k < 32) && decide (off < 2 ^ 37) && (len == 32 || len == 64) && decide (off % len = 0)
  | .narrowWrite _ k off d =>
    decide (k < 32) && decide (off < 2 ^ 37) && (d.length == 32 || d.length == 64) && decide (off % d.length = 0)
  | .refresh k c b _ => decide (k < 32) && decide (c < 32) && decide (b < 64)
  | .stackTempSample k t d _ => decide (k < 32) && decide (t < 256) && decide (d < 16)
  | .memLaneStuck k c l => decide (k < 32) && decide (c < 32) && decide (l < 292)
  | .readShared a g | .upgrade a g | .writeBack a g | .evictClean a g | .inv a g | .recall a g
  | .invAck a g => decide (a < 512) && decide (g < 2 ^ 36)
  | .readOwn a g _ | .wbAck a g _ => decide (a < 512) && decide (g < 2 ^ 36)
  | .noAllocRead a g | .done a g | .atomic a g _ | .nak a g | .nakRetry a g _ => okRequester a g
  | .writeInv a g _ d => okRequester a g && decide (d.length = 64)
  | .fwdShared o a g | .fwdOwn o a g | .fwdSnoop o a g => decide (o < 512) && okRequester a g
  | .data a g gr b => okRequester a g && decide (gr < 4) && (b.length == 64 || b.length == 0 && gr == 3)
  | .translationWalk c p a _ acc => decide (c < 4096) && decide (p < 16) && decide (a < 65536) && decide (acc < 8)
  | .svcTimeout n t _ => decide (n < 16) && decide (t < 1024)
  | .translationInv r p c => decide (r < 256) && decide (p < 2 ^ 64) && decide (c < 4096)
  | .faultQueuePoll q _ => decide (q < 17)
  | .wRead h _ | .wWrite h _ | .wAtomic h _ | .wData h _ | .wDone h _ | .wDeny h _ | .routeFail h _ | .tilusTransit h _ =>
    decide (h < 4)
  | .remoteTimeout h t _ => decide (h < 4) && decide (t < 65536)
  | .inboundRead k rid br _ len => decide (k < 2) && decide (rid < 65536) && (br == 0 || br == 2) && decide (len ≤ 4096)
  | .inboundWrite k rid br _ d _ => decide (k < 2) && decide (rid < 65536) && (br == 0 || br == 2) && decide (d.length ≤ 512)
  | .configRequest c => decide (c.port < 2) && c.reg.ok && c.write.all fun v => decide (v < 2 ^ 32)
  | .pcieLinkDown k | .pcieHotReset k | .pcieFlr k | .busMasterEnableCleared k
  | .busMasterEnableSet k | .pcieRetrain k | .perstDeassert k => decide (k < 2)
  | .pcieCompletion k _ _ _ => decide (k < 2)
  | .completionTimeout k r p _ => decide (k < 2) && decide (r < 256) && decide (p < 2 ^ 64)
  | .completionUr k r p | .completionCa k r p | .poisonedCompletion k r p =>
    decide (k < 2) && decide (r < 256) && decide (p < 2 ^ 64)
  | .peerVerifyDone k i _ _ | .peerVerifyTimeout k i _ => decide (k < 2) && decide (i < 16)
  | .copyEngineStart e | .copySpan e => decide (e < 64)
  | .checkMessage h u k _ _ => decide (h < 4) && decide (u < 8) && decide (k < 3)
  | .flit e f => decide (e < 176) && f.sent.length == 256
  | .coroxForcedWindow e | .coroxModuleFail e _ | .coroxWindow e _ | .coroxWindowEnd e _ => decide (e < 176)
  | .transactionMemoryExpiry _ => true
  | .coroxLaneStuck e l => decide (e < 176) && decide (l < 68)
  | .gRead k _ | .gWrite k _ | .gAtomic k _ | .guestIdentity k _ _ | .guestLinkDown k | .guestExpelDone k => decide (k < 2)
  | .guestTrainRetry k g _ => decide (k < 2) && decide (g.width < 4) && decide (g.rates < 4)
  | .tilusFrame p f => decide (p < 16) && f.bytes.length == 800
  | .tilusRetrain p | .tilusRetrainEnd p _ | .tilusRetrainTimeout p _ | .tilusPortLost p _
  | .tilusPortFail p | .prioInterval p _ => decide (p < 16)
  | .tilusPortTrain p l _ => decide (p < 16) && decide (l < 256)
  | .reservedSlotOpen p r _ | .reservedSlotClose p r _ => decide (p < 16) && decide (r < 16)
  | .powerWindow _ | .coolOkDeassert | .coolOkAssert | .coolStopTimeout _ | .powerGood _ | .coolQualified _
  | .clearDone _ | .mresetNAssert _ | .refclkLoss _ | .refclkReturn _ | .heartbeatSend _ | .keeperCommitDone _
  | .moduleReset | .getstatus | .auxiliaryPowerApplied | .vauxLoss | .conflictExpiry _ => true
  | .regulatorAlertAssert i _ | .regulatorAlertRelease i | .alertHoldExpiry i _ => decide (i < 10)
  | .droopDetect n | .droopClear n | .stretchEnd n _ | .stepHoldExpiry n _ | .pstateStep n _ | .dieIdleEntry n
  | .dieFail n => decide (n < 16)
  | .dieTempSample d t _ => d.ok && decide (t < 256)
  | .napEntryDone p _ | .napExitDone p _ => decide (p < 16)
  | .hubTestDone m _ _ => decide (m < 16)
  | .trainDone m g ml cl _ =>
    decide (m < 65536) && decide (g < 4) && ml.all (fun (x : Nat × Nat) => decide (x.1 < 1024) && decide (x.2 < 292)) &&
      cl.all (fun (x : Nat × Nat) => decide (x.1 < 176) && decide (x.2 < 68))
  | .railFault r _ => decide (r < 21)
  | .hubResetDone h _ _ | .hubFail h | .tallyCopyDone h _ | .signatureDone h _ => decide (h < 4)
  | .heartbeatTimeout d _ | .bypass d | .idcode d | .extest d | .clamp d => d.ok
  | .samplePreload d _ => d.ok
  | .counterWrap c _ => decide (c < 8512)
  | .read64 o => decide (o < 2 ^ 32)
  | .nodeCoreAccess c op => decide (c < 256) && op.ok
  | .pcieLinkUp k sp w _ => decide (k < 2) && decide (1 ≤ sp) && decide (sp ≤ 6) && (w == 4 || w == 8 || w == 16)
  | .entdaa a => decide (a < 128)
  | .setdasa sa a => decide (sa < 128) && decide (a < 128)
  | .reservedClass g c => okReserved g c

end Sys2Proof
end

