-- ==== Sys2Proof/Machine/Ops.lean ====
section
/-!
DEFINITION. Named operations over the state: registers, the numbered stores, event counters, the clock, deals, free values, and `run`,
through which every command acts.
-/

namespace Sys2Proof.Machine

open Sys2Proof

/-- What a command answers. -/
abbrev Out : Type := Host.Outcome State Fault Refusal

/-- With operands in range the next state is `k`; no command changes the queue of waiting commands nor the fuses. -/
def runIf (ok : Bool) (s k : State) : Out :=
  if ok then .next { k with pending := s.pending, fuse := s.fuse } else .fault .operandOutOfRange

/-- A command with operands in range takes the next state `k`. -/
def run (c : Instr) (s k : State) : Out := runIf c.wellFormed s k

/-! ## Registers -/

/-- The value of field `x`, instance `ix`. -/
def State.f (s : State) (x : Fld) (ix : Nat := 0) : Nat := s.regs.val x ix

/-- The field set to the low bits of `v`. -/
def State.setF (s : State) (x : Fld) (ix v : Nat) : State := { s with regs := s.regs.setVal x ix v }

/-- A wrapping count raised by `n`. -/
def State.incF (s : State) (x : Fld) (ix : Nat) (n : Nat := 1) : State := s.setF x ix (s.f x ix + n)

/-- A saturating count raised by `n`. -/
def State.satF (s : State) (x : Fld) (ix : Nat) (n : Nat := 1) : State :=
  s.setF x ix (min (s.f x ix + n) (2 ^ x.info.width - 1))

/-- A count lowered by `n`, not below zero. -/
def State.decF (s : State) (x : Fld) (ix : Nat) (n : Nat := 1) : State := s.setF x ix (s.f x ix - n)

/-- A one-bit field reads 1. -/
def State.fb (s : State) (x : Fld) (ix : Nat := 0) : Bool := s.f x ix == 1

/-- Every field of register instance `ix` back at its reset value. -/
def State.resetReg (s : State) (g : Reg) (ix : Nat) : State := { s with regs := s.regs.resetReg g ix }

/-- Several instances of several registers back at their reset values. -/
def State.resetRegs (s : State) (gs : List Reg) (ixs : List Nat) : State :=
  ixs.foldl (fun s ix => gs.foldl (fun s g => s.resetReg g ix) s) s

/-! ## Numbered stores -/

def State.ring (s : State) (r : Nat) : Ring := s.rings.fget r {}
def State.setRing (s : State) (r : Nat) (x : Ring) : State := { s with rings := s.rings.fput r x {} }
def State.stack (s : State) (k : Nat) : Stack := s.stk.fget k {}
def State.setStack (s : State) (k : Nat) (x : Stack) : State := { s with stk := s.stk.fput k x {} }
def State.sched (s : State) (k : Nat) : Sched := s.scheds.fget k {}
def State.setSched (s : State) (k : Nat) (x : Sched) : State := { s with scheds := s.scheds.fput k x {} }
def State.modeOf (s : State) (p : Nat) : ModeSt := s.modes.fget p {}
def State.setMode (s : State) (p : Nat) (x : ModeSt) : State := { s with modes := s.modes.fput p x {} }
def State.table (s : State) (k : Nat) : TTable := s.tables.fget k {}
def State.setTable (s : State) (k : Nat) (x : TTable) : State := { s with tables := s.tables.fput k x {} }
def State.tport (s : State) (p : Nat) : TPort := s.time.ports.fget p {}
def State.setTport (s : State) (p : Nat) (x : TPort) : State :=
  { s with time := { s.time with ports := s.time.ports.fput p x {} } }
def State.engine (s : State) (e : Nat) : Engine := s.engines.fget e {}
def State.setEngine (s : State) (e : Nat) (x : Engine) : State := { s with engines := s.engines.fput e x {} }
def State.chkUnit (s : State) (u : Nat) : ChkUnit := s.chk.fget u {}
def State.setChk (s : State) (u : Nat) (x : ChkUnit) : State := { s with chk := s.chk.fput u x {} }
def State.port (s : State) (k : Nat) : PciPort := s.pci.fget k {}
def State.setPort (s : State) (k : Nat) (x : PciPort) : State := { s with pci := s.pci.fput k x {} }
def State.cel (s : State) (k : Nat) : Cellar := s.cellar.fget k {}
def State.setCel (s : State) (k : Nat) (x : Cellar) : State := { s with cellar := s.cellar.fput k x {} }
def State.tapE (s : State) (k : Nat) : TapEng := s.tapEng.fget k {}
def State.setTapE (s : State) (k : Nat) (x : TapEng) : State := { s with tapEng := s.tapEng.fput k x {} }
def State.crxE (s : State) (e : Nat) : CrxEnd := s.crx.fget e {}
def State.setCrxE (s : State) (e : Nat) (x : CrxEnd) : State := { s with crx := s.crx.fput e x {} }
def State.guest (s : State) (k : Nat) : Guest := s.guests.fget k {}
def State.setGuest (s : State) (k : Nat) (x : Guest) : State := { s with guests := s.guests.fput k x {} }
def State.tls (s : State) (p : Nat) : TlsPort := s.ports.fget p {}
def State.setTls (s : State) (p : Nat) (x : TlsPort) : State := { s with ports := s.ports.fput p x {} }
def State.resvOf (s : State) (k : Nat) : Resv := s.resv.fget k {}
/-- Key of reservation r of port p. -/
def resIx (p r : Nat) : Nat := 16 * p + r
def State.setResv (s : State) (k : Nat) (x : Resv) : State := { s with resv := s.resv.fput k x {} }
def State.core (s : State) (c : Nat) : NodeCore := s.cores.fget c {}
def State.setCore (s : State) (c : Nat) (x : NodeCore) : State := { s with cores := s.cores.fput c x {} }
def State.kernel (s : State) (k : Nat) : Kernel := s.kernels.fget k {}
def State.setKernel (s : State) (k : Nat) (x : Kernel) : State := { s with kernels := s.kernels.fput k x {} }
def State.group (s : State) (g : Nat) : Group := s.groups.fget g {}
def State.setGroup (s : State) (g : Nat) (x : Group) : State := { s with groups := s.groups.fput g x {} }
def State.team (s : State) (t : Nat) : Team := s.teams.fget t {}
def State.setTeam (s : State) (t : Nat) (x : Team) : State := { s with teams := s.teams.fput t x {} }
def State.fq (s : State) (q : Nat) : FQ := s.xl.fq.fget q {}
def State.setFq (s : State) (q : Nat) (x : FQ) : State := { s with xl := { s.xl with fq := s.xl.fq.fput q x {} } }
def State.svc (s : State) (n : Nat) : Svc := s.xl.svc.fget n {}
def State.setSvc (s : State) (n : Nat) (x : Svc) : State := { s with xl := { s.xl with svc := s.xl.svc.fput n x {} } }
def State.diePwr (s : State) (n : Nat) : DiePwr := s.power.dies.fget n {}
def State.setDiePwr (s : State) (n : Nat) (x : DiePwr) : State :=
  { s with power := { s.power with dies := s.power.dies.fput n x {} } }

/-! ## Free values -/

/-- A free value of at most 64 bits, and the state that has taken it. -/
def State.takeFree (s : State) : Nat × State := ((Config.freeBits s.free).toNat, { s with free := s.free + 1 })

/-- `8 n` bytes of free values. -/
def State.takeBytes (s : State) : Nat → Bytes × State
  | 0 => ([], s)
  | n + 1 =>
    let (v, s) := s.takeFree
    let (b, s) := s.takeBytes n
    (leBytes 8 v ++ b, s)

/-- A value of `w` bytes as a 32-bit register takes it: the bits above a narrower value are free (notes/assumptions/40). -/
def State.widen (s : State) (w v : Nat) : Nat × State :=
  if 4 ≤ w then (v % 2 ^ 32, s)
  else
    let (x, s) := s.takeFree
    (v % 2 ^ (8 * w) + x * 2 ^ (8 * w) % 2 ^ 32, s)

/-! ## Dies, hubs and partitions (R20, R22) -/

/-- Die n passed training (ID_PRESENT). -/
def State.diePresent (s : State) (n : Nat) : Bool := bitOf (s.f .ID_PRESENT_DIES) n
def State.hubPresent (s : State) (h : Nat) : Bool := bitOf (s.f .ID_PRESENT_HUBS) h

/-- A die that is present and has not failed (R425). -/
def State.dieWorks (s : State) (n : Nat) : Bool := s.diePresent n && !bitOf (s.f .RST_FAILED_DIES) n

/-- A hub that is present, not failed and not in reset (RST_HUB.STATE UP or COPYING, Table 16-10). -/
def State.hubWorks (s : State) (h : Nat) : Bool :=
  s.hubPresent h && !bitOf (s.f .RST_FAILED_HUBS) h && (s.f .RST_HUB_STATE h == 2 || s.f .RST_HUB_STATE h == 3)

/-- The partition a die belongs to. -/
def State.dieOwner (s : State) (n : Nat) : Option Nat :=
  if bitOf (s.f .ID_PART_VALID_DIES) n then some (s.f .ID_PART_MAP_PART n) else none

def State.partDies (s : State) (p : Nat) : List Nat :=
  (List.range 16).filter fun n => s.dieOwner n == some p

/-- The stacks of a partition, ascending (R15). -/
def State.partStacks (s : State) (p : Nat) : List Nat := (s.partDies p).flatMap fun n => [2 * n, 2 * n + 1]

/-- A clock-gated die resumes at a dispatch (R403). -/
def State.wakeDie (s : State) (n : Nat) : State :=
  if (s.diePwr n).idle then s.setDiePwr n { s.diePwr n with idle := false } else s

/-- A group, a tap pass or a node core runs on the die in this window (R389). -/
def State.ranOn (s : State) (n bit : Nat) : State := s.setDiePwr n { s.diePwr n with ran := setBit (s.diePwr n).ran bit }

/-- The partition exists (ID_PART_HUBp.VALID). -/
def State.partValid (s : State) (p : Nat) : Bool := s.fb .ID_PART_HUB_VALID p

/-- The die of partition p with the lowest number. -/
def State.firstDie (s : State) (p : Nat) : Nat := (s.partDies p).headD 0

/-- The die that holds a partition's launch controller and tap coordinator (R427): its lowest-numbered working die. -/
def State.controllerDie (s : State) (p : Nat) : Option Nat := (s.partDies p).find? s.dieWorks

/-- The coordinator of a partition's TAPs (R223): the tap controller of that die. -/
def State.coordinatorOf (s : State) (p : Nat) : Nat := 2 * (s.controllerDie p).getD (s.firstDie p)

/-- The home hub of each die (Table 1-3). -/
def homeHub (n : Nat) : Nat := [0, 0, 0, 3, 2, 0, 3, 3, 2, 2, 1, 3, 2, 1, 1, 1].getD n 0

/-- The second link of a corner die: its Corox module and its hub (R18). -/
def secondLink (n : Nat) : Option (Nat × Nat) :=
  match n with
  | 0 => some (6, 2)
  | 3 => some (0, 0)
  | 15 => some (2, 3)
  | 12 => some (4, 1)
  | _ => none

/-! ## Event counters (R455 to R457) -/

/-- A selection word selects an event of this source, qualifier and partition. -/
def selHits (sel src qual part : Nat) : Bool :=
  sel % 256 == src && (bitsOf sel 8 4 == 15 || bitsOf sel 8 4 == qual) && (!bitOf sel 16 || bitsOf sel 12 4 == part)

/-- Adds `k` to a value register, setting WRAPPED of its selection on a wrap (R456). -/
def State.addCtr (s : State) (valF wrF : Fld) (valIx selIx k : Nat) : State :=
  let v := s.f valF valIx + k
  let s := s.setF valF valIx v
  if 2 ^ 64 ≤ v then s.setF wrF selIx 1 else s

/-- Energy of `k` events (Table 15-2), in 64ths of 1 pJ: of a die, of one of its stacks, of a hub, of Corox. -/
def dieWeight (src qual : Nat) : Nat :=
  if src = 0x05 then (if 1 ≤ qual && qual ≤ 4 then 600 * 64 else 0)
  else if src = 0x06 then 64 * [28000, 22000, 30000, 30000, 26000, 26000, 26000, 24000].getD qual 0
  else 0
def hubWeight (src : Nat) : Nat := if src = 0x20 then 64 * 10000 else if src = 0x22 || src = 0x23 then 150 else 0

def State.dieEnergy (s : State) (n e : Nat) : State :=
  if e = 0 then s else s.setDiePwr n { s.diePwr n with energy := (s.diePwr n).energy + e }
def State.hubEnergy (s : State) (h e : Nat) : State :=
  if e = 0 then s else { s with power := { s.power with hubE := s.power.hubE.fput h (s.power.hubE.fget h 0 + e) 0 } }
def State.stackEnergy (s : State) (k e : Nat) : State :=
  if e = 0 then s else { s with power := { s.power with stackE := s.power.stackE.fput k (s.power.stackE.fget k 0 + e) 0 } }
def State.coroxEnergy (s : State) (e : Nat) : State :=
  if e = 0 then s else { s with power := { s.power with coroxE := s.power.coroxE + e } }

/-- The energy of a die event, and of a hub event. -/
def State.dieEventEnergy (s : State) (n src qual k : Nat) : State :=
  if src = 0x0B then s.stackEnergy (2 * n + qual % 2) (k * 3000 * 64)
  else if src = 0x13 then s.coroxEnergy (k * 240 * 64)
  else s.dieEnergy n (k * dieWeight src qual)
def State.hubEventEnergy (s : State) (h src k : Nat) : State :=
  if src = 0x13 then s.coroxEnergy (k * 240 * 64) else s.hubEnergy h (k * hubWeight src)

/-- One die or hub counter sees an event. -/
def State.seeCtr (s : State) (ix src qual part k : Nat) : State :=
  if s.fb .CTR_SEL_ENABLE ix && selHits (s.f .CTR_SEL_SEL ix) src qual part then
    s.addCtr .CTR_VAL_VALUE .CTR_SEL_WRAPPED ix ix k else s

/-- `k` events of a source on die n (die counters). -/
def State.evDie (s : State) (n src qual k : Nat) : State :=
  if k = 0 then s else (List.range 16).foldl (fun s c => s.seeCtr (16 * n + c) src qual 0 k) (s.dieEventEnergy n src qual k)

/-- `k` events of a source on hub h, of partition `part` where the source has one. -/
def State.evHub (s : State) (h src qual part k : Nat) : State :=
  if k = 0 then s else (List.range 16).foldl (fun s c => s.seeCtr (256 + 16 * h + c) src qual part k) (s.hubEventEnergy h src k)

/-- `k` events of a source on unit u: its four unit counters, and the die counters of its die. -/
def State.evUnit (s : State) (u src qual k : Nat) : State :=
  let n := u / 128
  let s := (List.range 4).foldl (fun s c =>
    if s.fb .CTR_USEL_ENABLE (4 * n + c) && selHits (s.f .CTR_USEL_SEL (4 * n + c)) src qual 0 then
      s.addCtr .CTR_UVAL_VALUE .CTR_USEL_WRAPPED (4 * u + c) (4 * n + c) k else s) s
  s.evDie n src qual k

/-! ## The clock (R41, R43) and deals (R54, R55) -/

/-- The counter of System Time runs from phase HUB on, while the main rails are good (R410, R411). -/
def State.clockRuns (s : State) : Bool := s.rst.railsGood && decide (2 ≤ s.f .RST_STATUS_PHASE)

/-- `dt` ns of engine time pass: the counter advances at its corrected rate, from the internal oscillator while REFCLK is absent (R475),
and HOLD_MS counts. -/
def State.elapse (s : State) (dt : Nat) : State :=
  let t := s.time
  let adv := t.frac + (((dt * 65536 : Nat) : Int) * (1000000000 + t.rate) * (1000000000 + s.rst.osc) / 1000000000000000000).toNat
  let t := { t with engine := t.engine + dt }
  let t := if s.clockRuns then { t with now := (t.now + adv / 65536) % 2 ^ 64, frac := adv % 65536 } else t
  let s := { s with time := t }
  if t.holding then s.setF .TIME_HOLD_HOLD_MS 0 (min ((t.engine - t.holdAt) / 1000000) (2 ^ 32 - 1)) else s

/-- System Time. -/
def State.now (s : State) : Nat := s.time.now

/-- Engine time. -/
def State.eng (s : State) : Nat := s.time.engine

/-- Key of schedule `k` in the set of a partition (or, 16, the module set). -/
def schedKey (setNo k : Nat) : Nat := setNo * 16 + k

/-- The schedule is defined. -/
def Sched.defined (c : Sched) : Bool := c.period != 0

/-- The boundary of deal `k`. -/
def Sched.boundary (c : Sched) (k : Nat) : Nat := c.anchor + k * c.period

/-- The deal in progress at time `now`, when the anchor has passed. -/
def Sched.current (c : Sched) (now : Nat) : Option Nat :=
  if c.defined && decide (c.anchor ≤ now) then some ((now - c.anchor) / c.period) else none

/-- The first deal whose boundary is at or after `now`. -/
def Sched.firstAt (c : Sched) (now : Nat) : Nat :=
  if now ≤ c.anchor then 0 else divUp (now - c.anchor) (max c.period 1)

/-- Whether a user of the schedule whose next deal is `next` is due; only boundaries at or after the definition count (R55). -/
def Sched.due (c : Sched) (now next : Nat) : Bool :=
  match c.current now with
  | some k => decide (max next (c.firstAt c.since) ≤ k)
  | none => false

/-- The deal after the one now in progress. -/
def Sched.after (c : Sched) (now : Nat) : Nat :=
  match c.current now with
  | some k => k + 1
  | none => 0

/-! ## Status codes (Table 3-5) -/

def stDONE : Nat := 0x00
def stREPLAYED : Nat := 0x02
def stPARAM : Nat := 0x10
def stRIGHTS : Nat := 0x11
def stXLATE : Nat := 0x12
def stUNCORR : Nat := 0x13
def stHOSTLOST : Nat := 0x14
def stKFAULT : Nat := 0x15
def stTAG : Nat := 0x16
def stCOUNTER : Nat := 0x17
def stPARTFAILED : Nat := 0x18
def stFQFULL : Nat := 0x19
def stLATE : Nat := 0x1A
def stABORTED : Nat := 0x1B
def stUNSUPPORTED : Nat := 0x1C
def stREMOTELOST : Nat := 0x1D

/-! ## Rings and their tally entries (R77, R86, R94) -/

def State.ringModule (s : State) (r : Nat) : Bool := s.fb .RING_CTRL_MODULE r
def State.ringPart (s : State) (r : Nat) : Nat := s.f .RING_CTRL_PART r
def State.ringAsid (s : State) (r : Nat) : Nat := s.f .RING_CTRL_ASID r

/-- The PCIe port of a ring in host memory. -/
def State.ringPort (s : State) (r : Nat) : Nat := s.f .RING_CTRL_LOC r - 1

/-- The schedule set of a ring: its partition's, or the module set, 16 (R54). -/
def State.ringSet (s : State) (r : Nat) : Nat := if s.ringModule r then 16 else s.ringPart r

/-- The fault queue of a ring (R481): its partition's, or queue 16. -/
def State.ringQueue (s : State) (r : Nat) : Nat := s.ringSet r

/-- Agent index of the cellar in a fault record of a command: the cellar of the partition's first stack. -/
def State.celAgent (s : State) (r : Nat) : Nat := 2 * s.firstDie (s.ringPart r)

/-- The acting tally hub of a ring (R91, R92). -/
def State.ringHub (s : State) (r : Nat) : Nat :=
  if s.ringModule r then s.rst.modActing.getD (s.ringPort r) 0 else s.f .ID_PART_HUB_ACTING (s.ringPart r)

/-- The mirror of a ring's tally. -/
def State.ringMirror (s : State) (r : Nat) : Option Nat :=
  if s.ringModule r then s.rst.modMirror.getD (s.ringPort r) none
  else if s.fb .RST_PART_MIRRORED (s.ringPart r) then some (s.f .RST_PART_MIRROR (s.ringPart r)) else none

def State.entry? (s : State) (r pos : Nat) : Option Entry := (s.ring r).entries.find? (·.pos == pos)

/-- The entry changed by `g`. -/
def State.modEntry (s : State) (r pos : Nat) (g : Entry → Entry) : State :=
  s.setRing r { s.ring r with entries := (s.ring r).entries.map fun e => if e.pos == pos then g e else e }

/-- The field of `len` bytes at header offset `off`. -/
def Entry.hdr (e : Entry) (off len : Nat) : Nat := fldB e.pkt off len

/-- The field of `len` bytes at body offset `off`. -/
def Entry.body (e : Entry) (off len : Nat) : Nat := fldB e.pkt (64 + off) len

def Entry.op (e : Entry) : Nat := e.hdr 0 1
def Entry.slots (e : Entry) : Nat := e.hdr 1 1 % 16
def Entry.replayable (e : Entry) : Bool := bitOf (e.hdr 2 2) 0
def Entry.ordered (e : Entry) : Bool := bitOf (e.hdr 2 2) 1
def Entry.flagEn (e : Entry) : Bool := bitOf (e.hdr 2 2) 2

/-- Bytes [lo, lo + n) of the body are all zero (R9). -/
def Entry.zero (e : Entry) (lo n : Nat) : Bool := (sliceB e.pkt (64 + lo) n).all (· == 0)

/-- A record joins those of its queue that wait for room (R307); PENDING counts them with the pending buffer. -/
def State.setPend (s : State) (q : Nat) (l : List FRec) : State :=
  (s.setFq q { s.fq q with pend := l }).setF .XL_FQ_STATUS_PENDING q (min 64 (l.length + (s.fq q).waiting.length))
def State.keepRec (s : State) (q : Nat) (x : FRec) : State :=
  (s.setFq q { s.fq q with waiting := (s.fq q).waiting ++ [x] }).setPend q (s.fq q).pend

/-- The record that a stalled command has still to write outlives the command: faults are never dropped (R307). -/
def State.keepStall (s : State) (r pos : Nat) : State :=
  match (s.entry? r pos).bind (·.stall) with
  | some t => s.keepRec t.queue t.frec
  | none => s

/-- The final result, given once; a re-execution that would end with DONE ends with REPLAYED (R428). -/
def State.finish (s : State) (r pos : Nat) (res : Result) : State :=
  (s.keepStall r pos).modEntry r pos fun e =>
    if e.res.isSome then e
    else { e with res := some (if e.retried && res.status == stDONE then { res with status := stREPLAYED } else res)
                  stall := none }

/-- The command ends with a status and no other record content. -/
def State.endWith (s : State) (r pos st : Nat) (detail : Nat := 0) : State :=
  s.finish r pos { status := st, detail := detail }

/-- The command ends with DONE; where no rule gives VIS it is 0 (DESIGN CHOICE, notes/assumptions/61). -/
def State.doneWith (s : State) (r pos : Nat) (result : Nat := 0) (vis : Nat := 0) (detail : Nat := 0) : State :=
  s.finish r pos { status := stDONE, result := result, vis := vis, detail := detail }

/-- A started command that has not ended. -/
def Entry.active (e : Entry) : Bool := e.st == .running && e.res.isNone && e.stall.isNone

/-- An open service request lists the command: one of its accesses waits for the reply (R295). -/
def State.tagHeld (s : State) (r pos : Nat) : Bool :=
  s.xl.svc.any fun (e : Nat × Svc) => e.2.open_.any fun (t : Nat × SvcReq) => t.2.cmds.contains (r, pos)

/-- The command is running and has no result yet; a stalled one too. -/
def State.isOpen (s : State) (r pos : Nat) : Bool :=
  match s.entry? r pos with
  | some e => e.st == .running && e.res.isNone
  | none => false

/-- The command is running and has not ended. -/
def State.isActive (s : State) (r pos : Nat) : Bool :=
  match s.entry? r pos with
  | some e => e.active
  | none => false

/-- Every command accepted and not yet delivered, with its ring. -/
def State.openCmds (s : State) : List (Nat × Entry) := s.rings.flatMap fun (r, x) => x.entries.map fun e => (r, e)

/-- Accepted commands of a partition's rings that have not completed (R33, R241). A FINISHED command has completed, its final record
delivered or not, as R55 says of a DEAL_SET (DESIGN CHOICE, notes/assumptions/67). -/
def State.partBusy (s : State) (p : Nat) : Bool :=
  s.openCmds.any fun (r, e) => !s.ringModule r && s.ringPart r == p && e.st != .written && e.st != .finished

/-- A partition has an enabled ring. -/
def State.partRingOn (s : State) (p : Nat) : Bool :=
  (List.range 256).any fun r => s.fb .RING_CTRL_ENABLE r && !s.ringModule r && s.ringPart r == p

/-! ## Requested performance states, and partitions in NAP -/

/-- The requested state of a die: the lowest PSTATE of its units' modes (R386). -/
def State.requested (s : State) (n : Nat) : Nat :=
  (List.range 128).foldl (fun m v => min m (s.f .TIME_EPOCH_MODE (128 * n + v) % 8)) 7

/-- PWR_DIE.REQ follows the modes of the die's units. -/
def State.setReq (s : State) (n : Nat) : State := s.setF .PWR_DIE_REQ n (s.requested n)

/-- The stack's partition is in NAP (R404). -/
def State.napping (s : State) (k : Nat) : Bool :=
  match s.dieOwner (k / 2) with
  | some p => s.f .PWR_IDLE_STATE p == 2
  | none => false

end Sys2Proof.Machine
end

