-- ==== Sys2Proof/Machine/Topo.lean ====
section
/-!
DEFINITION. The wiring of the package (R14 to R19), its routes (R28 to R31) and the distance table (R35 to R37). Routes and entries are
functions of the state of the Corox modules, of the partitions and of the working parts.
-/

namespace Sys2Proof.Machine

open Sys2Proof

/-- Corox end of module m on die n, and on hub h. -/
def dieEnd (n m : Nat) : Nat := 9 * n + m
def hubEnd (h m : Nat) : Nat := 144 + 8 * h + m

/-- The dies that a hub's modules 0 to 4 reach, ascending (R18, Table 1-3). -/
def hubDies (h : Nat) : List Nat :=
  match h with
  | 0 => [0, 1, 2, 3, 5]
  | 1 => [10, 12, 13, 14, 15]
  | 2 => [0, 4, 8, 9, 12]
  | _ => [3, 6, 7, 11, 15]

/-- The next hub clockwise in the order H0, H3, H1, H2, and the next anticlockwise. -/
def hubCw (h : Nat) : Nat := [3, 2, 0, 1].getD h 0
def hubAcw (h : Nat) : Nat := [2, 3, 1, 0].getD h 0

/-- The other end of a module; `none` where it faces off the grid (R16 to R19) or faces a guest site. -/
def crxPeer (e : Nat) : Option Nat :=
  if e < 144 then
    let n := e / 9
    let m := e % 9
    if m = 8 then some (hubEnd (homeHub n) ((hubDies (homeHub n)).idxOf n))
    else if (secondLink n).any (fun l => l.1 == m) then
      (secondLink n).map fun l => hubEnd l.2 ((hubDies l.2).idxOf n)
    else if m < 2 then (if 4 ≤ n then some (dieEnd (n - 4) (m + 4)) else none)
    else if m < 4 then (if n % 4 < 3 then some (dieEnd (n + 1) (m + 4)) else none)
    else if m < 6 then (if n < 12 then some (dieEnd (n + 4) (m - 4)) else none)
    else (if 0 < n % 4 then some (dieEnd (n - 1) (m - 4)) else none)
  else
    let h := (e - 144) / 8
    let m := (e - 144) % 8
    if m < 5 then
      let n := (hubDies h).getD m 0
      if homeHub n = h then some (dieEnd n 8) else (secondLink n).map fun l => dieEnd n l.1
    else if m = 5 then some (hubEnd (hubCw h) 6)
    else if m = 6 then some (hubEnd (hubAcw h) 5)
    else none

/-- The guest site of an end: module 7 of H2 and H3. -/
def endGuest (e : Nat) : Option Nat := if e = hubEnd 2 7 then some 0 else if e = hubEnd 3 7 then some 1 else none
def guestEnd (k : Nat) : Nat := hubEnd (2 + k) 7

/-- The end that sends to an end, a guest's own end among them. -/
def farEnd (e : Nat) : Option Nat :=
  if 176 ≤ e then some (guestEnd (e - 176)) else
    match endGuest e with
    | some k => some (176 + k)
    | none => crxPeer e

/-- The two ends of a module that have registers; the guest modules have one. -/
def crxEnds (e : Nat) : List Nat := e :: (crxPeer e).toList

/-- Another window runs on a module that must not have one at the same time (R348). -/
def State.crxBlocked (s : State) (e : Nat) : Bool :=
  let mine := crxEnds e
  let win := fun (x : Nat) => !mine.contains x && s.f .CRX_STATUS_STATE x == 3
  let isRing := fun (x : Nat) => decide (144 ≤ x) && (x % 8 == 5 || x % 8 == 6)
  let pair := fun (x : Nat) => decide (x < 144) && x % 9 != 8 &&
    (match crxPeer x with | some y => decide (y < 144) | none => false)
  (isRing e && (List.range 4).any fun h => win (hubEnd h 5) || win (hubEnd h 6)) ||
    (pair e && win (dieEnd (e / 9) (if e % 9 % 2 = 0 then e % 9 + 1 else e % 9 - 1)))

/-- The part an end sits on works: a die or a hub. -/
def State.endPartWorks (s : State) (e : Nat) : Bool :=
  if e < 144 then s.dieWorks (e / 9) else s.hubWorks ((e - 144) / 8)

/-- The end carries traffic: UP, or held in a window that began while it was (R347). -/
def State.endUp (s : State) (e : Nat) : Bool :=
  s.f .CRX_STATUS_STATE e == 2 || (s.f .CRX_STATUS_STATE e == 3 && s.f .CRX_STATUS_WIDTH_RX e != 0)

/-- A module is usable from end `e`: both ends up, on working parts. -/
def State.linkUp (s : State) (e : Nat) : Bool :=
  match crxPeer e with
  | some e' => s.endUp e && s.endUp e' && s.endPartWorks e && s.endPartWorks e'
  | none => false

/-- Bandwidth of the module of an end, that of its narrower direction, in units of 10 GB/s (Table 13-1). -/
def State.endBw (s : State) (e : Nat) : Nat :=
  if s.linkUp e then [0, 16, 24, 32].getD (min (s.f .CRX_STATUS_WIDTH_TX e) (s.f .CRX_STATUS_WIDTH_RX e)) 0 else 0

/-- The first of the two modules of die a that face its grid neighbour b. -/
def faceOf (a b : Nat) : Option Nat :=
  if b + 4 = a then some 0
  else if a + 1 = b && a % 4 < 3 then some 2
  else if a + 4 = b then some 4
  else if b + 1 = a && 0 < a % 4 then some 6
  else none

/-- Grid neighbours, ascending. -/
def gridNbrs (n : Nat) : List Nat := (List.range 16).filter fun b => (faceOf n b).isSome

/-- Bandwidth of the neighbour pair from a to b. -/
def State.pairBw (s : State) (a b : Nat) : Nat :=
  match faceOf a b with
  | some m => s.endBw (dieEnd a m) + s.endBw (dieEnd a (m + 1))
  | none => 0

/-- Some module of the pair from a to b is usable. -/
def State.pairUp (s : State) (a b : Nat) : Bool :=
  match faceOf a b with
  | some m => s.linkUp (dieEnd a m) || s.linkUp (dieEnd a (m + 1))
  | none => false

/-! ## Paths over the grid -/

/-- Steps from `a` towards `b` along one axis, given as the dies passed. -/
def axisRun (a b step : Nat) : Nat → List Nat
  | 0 => []
  | k + 1 => if a = b then [] else
      let a' := if a < b then a + step else a - step
      a' :: axisRun a' b step k

/-- East–west first, then north–south: the dies after the source. -/
def pathEW (a b : Nat) : List Nat :=
  let mid := a / 4 * 4 + b % 4
  axisRun a mid 1 4 ++ axisRun mid b 4 4

/-- North–south first, then east–west. -/
def pathNS (a b : Nat) : List Nat :=
  let mid := b / 4 * 4 + a % 4
  axisRun a mid 4 4 ++ axisRun mid b 1 4

/-- Every link of the path is usable and every die on it satisfies `ok`. -/
def State.pathOk (s : State) (ok : Nat → Bool) : Nat → List Nat → Bool
  | _, [] => true
  | a, b :: t => s.pairUp a b && ok b && s.pathOk ok b t

/-- One round of shortest-distance relaxation towards a target over the links in `nbr`. -/
def relax (nbr : Nat → List Nat) (d : List Nat) : List Nat :=
  (List.range 16).map fun n => (nbr n).foldl (fun m b => min m (d.getD b 99 + 1)) (d.getD n 99)

/-- Hops to `t` from every die; 99 where there is no path. -/
def hopsTo (nbr : Nat → List Nat) (t : Nat) : List Nat :=
  (List.range 16).foldl (fun d _ => relax nbr d) ((List.range 16).map fun n => if n = t then 0 else 99)

/-- The lexicographically smallest shortest path, as the dies after the source. -/
def descend (nbr : Nat → List Nat) (d : List Nat) : Nat → Nat → List Nat
  | 0, _ => []
  | k + 1, n =>
    if d.getD n 99 = 0 then [] else
      match (nbr n).find? fun b => d.getD b 99 + 1 == d.getD n 99 with
      | some b => b :: descend nbr d k b
      | none => []

/-- The shortest path from a to b through dies that satisfy `ok`. -/
def State.shortest (s : State) (ok : Nat → Bool) (a b : Nat) : Option (List Nat) :=
  let nbr := fun n => (gridNbrs n).filter fun x => s.pairUp n x && ok x && ok n
  let d := hopsTo nbr b
  if 99 ≤ d.getD a 99 then none else some (descend nbr d 16 a)

/-- A route between two dies: its ROUTE code (Table 1-6), the dies after the source, and, for routes through the hubs, the exit and
entry ends with their ring hops. -/
inductive Route where
  | mesh (code : Nat) (path : List Nat)
  | hubs (exitEnd entryEnd ringHops : Nat)
deriving DecidableEq, Repr

/-! ## The hub ring (R29) -/

/-- The hubs passed and the ring ends used from a to b in one direction. -/
def ringWalk (cw : Bool) (b : Nat) : Nat → Nat → List Nat
  | 0, _ => []
  | k + 1, a => if a = b then [] else
      let a' := if cw then hubCw a else hubAcw a
      a' :: ringWalk cw b k a'

/-- The direction carries the traffic: no failed hub between, and every ring module usable. -/
def State.ringOk (s : State) (cw : Bool) (a b : Nat) : Bool :=
  let w := ringWalk cw b 4 a
  (w.zip (a :: w)).all fun (x, prev) => (x == b || s.hubWorks x) && s.linkUp (hubEnd prev (if cw then 5 else 6))

/-- Ring hops from hub a to hub b: the direction with fewer hops, clockwise on a tie, the other when it is blocked. -/
def State.ringHops (s : State) (a b : Nat) : Option Nat :=
  if a = b then some 0 else
    let c := (ringWalk true b 4 a).length
    let d := (ringWalk false b 4 a).length
    let first := decide (c ≤ d)
    if s.ringOk first a b then some (if first then c else d)
    else if s.ringOk (!first) a b then some (if first then d else c)
    else none

/-- Narrowest ring link in the direction taken. -/
def State.ringBw (s : State) (a b : Nat) : Nat :=
  let c := (ringWalk true b 4 a).length
  let d := (ringWalk false b 4 a).length
  let first := decide (c ≤ d)
  let cw := if s.ringOk first a b then first else !first
  let w := ringWalk cw b 4 a
  (w.zip (a :: w)).foldl (fun m (_, prev) => min m (s.endBw (hubEnd prev (if cw then 5 else 6)))) 32

/-! ## Routes between dies (R28, R31) -/

/-- The working links of die n to working hubs, hub module first: (end, hub). -/
def State.hubLinks (s : State) (n : Nat) : List (Nat × Nat) :=
  (if s.linkUp (dieEnd n 8) && s.hubWorks (homeHub n) then [(dieEnd n 8, homeHub n)] else []) ++
  (match secondLink n with
   | some (m, h) => if s.linkUp (dieEnd n m) && s.hubWorks h then [(dieEnd n m, h)] else []
   | none => [])

/-- The fixed route of an ordered pair of dies of partition p. -/
def State.route (s : State) (p a b : Nat) : Option Route :=
  if a = b then some (.mesh 0 []) else
    let inP := fun n => s.dieOwner n == some p && s.dieWorks n
    if s.pathOk inP a (pathEW a b) then some (.mesh 1 (pathEW a b))
    else if s.pathOk inP a (pathNS a b) then some (.mesh 2 (pathNS a b))
    else match s.shortest inP a b with
      | some l => some (.mesh 3 l)
      | none =>
        let pairs := (s.hubLinks a).flatMap fun x => (s.hubLinks b).filterMap fun y =>
          (s.ringHops x.2 y.2).map fun k => (k, x.1, y.1)
        match pairs.foldl (fun (m : Option (Nat × Nat × Nat)) x =>
            match m with
            | some y => if x.1 < y.1 then some x else m
            | none => some x) none with
        | some (k, x, y) => some (.hubs x y k)
        | none =>
          (s.shortest (fun n => (s.dieOwner n).isSome && s.dieWorks n) a b).map (.mesh 4)

/-! ## Routes to a hub (R29, R30) -/

/-- The link by which a die sends hub traffic out, its own (R29, R30) or that of another die which transits it (notes/assumptions/52): the
second link when the target is its hub, else the hub module, else the second link. -/
def State.exitLink (s : State) (x h : Nat) : Option (Nat × Nat) :=
  match (s.hubLinks x).find? (fun l => l.2 == h && l.1 != dieEnd x 8) with
  | some l => some l
  | none => (s.hubLinks x).head?

/-- The nearest other die that satisfies `ok` and reaches a working hub by a link of its own, with the path to it (R30); of equally near dies
the lowest. R30 names the die and no path to it: the shortest one, lexicographically smallest as in R28, is taken (DESIGN CHOICE,
notes/assumptions/65). -/
def State.nearExit (s : State) (n : Nat) (ok : Nat → Bool) : Option (Nat × List Nat) :=
  ((List.range 16).filterMap fun x =>
    if x ≠ n && ok x && !(s.hubLinks x).isEmpty then (s.shortest (fun y => y == n || ok y) n x).map fun l => (x, l) else none).foldl
    (fun (m : Option (Nat × List Nat)) y =>
      match m with
      | some z => if y.2.length < z.2.length then some y else m
      | none => some y) none

/-- How die n's traffic reaches hub h: ROUTE code, the dies passed first, the end it leaves by, and ring hops. A die of its own partition is
preferred to any other that belongs to one (R30; which of a die's two links: DESIGN CHOICE, notes/assumptions/52). Where every die of its own
partition lies behind dies of others, the nearest die of any partition is taken (DESIGN CHOICE, notes/assumptions/65). -/
def State.hubRoute (s : State) (n h : Nat) : Option (Nat × List Nat × Nat × Nat) :=
  let out := fun (x : Nat) => (s.exitLink x h).bind fun l => (s.ringHops l.2 h).map fun k => (l.1, k)
  if !(s.hubLinks n).isEmpty then (out n).map fun (e, k) => (if k = 0 then 1 else 3, [], e, k)
  else
    let any := fun x => (s.dieOwner x).isSome && s.dieWorks x
    ((s.nearExit n fun x => any x && s.dieOwner x == s.dieOwner n).or (s.nearExit n any)).bind fun (x, l) =>
      (out x).map fun (e, k) => (4, l, e, k)

/-- A die's traffic can reach the hub. -/
def State.reaches (s : State) (n h : Nat) : Bool := s.hubWorks h && (s.hubRoute n h).isSome

/-! ## Distance table (R35, R36) -/

/-- Extra latency of a hub module on a long-reach route (R17): those of C5, C6, C9 and C10. -/
def longReach (e : Nat) : Nat := if e % 9 = 8 && [5, 6, 9, 10].contains (e / 9) then 4 else 0

/-- A distance table entry word. -/
def distWord (hops lat bw route : Nat) : Nat := hops + lat * 2 ^ 8 + bw * 2 ^ 20 + route * 2 ^ 32

def State.pathBw (s : State) : Nat → List Nat → Nat
  | _, [] => 4095
  | a, b :: t => min (s.pairBw a b) (s.pathBw b t)

/-- The entry of an ordered pair of dies. LATENCY, BW and ROUTE of an unreachable entry (HOPS 0xFF) read 0 (DESIGN CHOICE,
notes/assumptions/66). -/
def State.distDies (s : State) (a b : Nat) : Nat :=
  match s.dieOwner a, s.dieOwner b with
  | some p, some q =>
    if p ≠ q || !s.dieWorks a || !s.dieWorks b then 0xFF
    else if a = b then distWord 0 180 819 0
    else match s.route p a b with
      | some (.mesh c l) => distWord l.length (180 + 22 * l.length) (s.pathBw a l) c
      | some (.hubs x y k) =>
        let hx := (crxPeer x).elim 0 fun e => (e - 144) / 8
        let hy := (crxPeer y).elim 0 fun e => (e - 144) / 8
        let back := (crxPeer y).elim 0 s.endBw
        distWord (2 + k) (180 + 60 + longReach x + longReach y + 30 * k)
          (min (s.endBw x) (min back (s.ringBw hx hy))) 4
      | none => 0xFF
  | _, _ => 0xFF

/-- The entry of die n and hub h; an unreachable one as for a pair of dies (notes/assumptions/66). -/
def State.distHub (s : State) (n h : Nat) : Nat :=
  if (s.dieOwner n).isNone || !s.dieWorks n then 0xFF
  else match s.hubRoute n h with
    | some (c, l, e, k) =>
      let h0 := (crxPeer e).elim 0 fun x => (x - 144) / 8
      distWord (1 + k + l.length) (180 + 30 + longReach e + 30 * k + 22 * l.length)
        (min (s.pathBw n l) (min (s.endBw e) (s.ringBw h0 h))) c
    | none => 0xFF

/-- An update of routes and of the distance table: its generation advances by two, odd while it is under way (R37). -/
def State.updateRoutes (s : State) : State := s.incF .ID_DIST_GEN_GEN 0 2

/-! ## The modules that traffic crosses (R28, R29, R347) -/

/-- The hub of the far side of a die's end. -/
def hubOf (e : Nat) : Nat := (crxPeer e).elim 0 fun x => (x - 144) / 8

/-- The hops of a path over the grid: the ends of each that the traffic may leave by. -/
def meshHops : Nat → List Nat → List (List Nat)
  | _, [] => []
  | a, b :: t => (match faceOf a b with | some m => [dieEnd a m, dieEnd a (m + 1)] | none => []) :: meshHops b t

/-- The hops of the ring from hub a to hub b, in the direction taken. -/
def State.ringHopEnds (s : State) (a b : Nat) : List (List Nat) :=
  let first := decide ((ringWalk true b 4 a).length ≤ (ringWalk false b 4 a).length)
  let cw := if s.ringOk first a b then first else !first
  let w := ringWalk cw b 4 a
  (w.zip (a :: w)).map fun (_, prev) => [hubEnd prev (if cw then 5 else 6)]

/-- The hops of the route between two nodes, dies 0 to 15 and hubs 16 to 19, each with the ends by which the traffic may leave. -/
def State.hops (s : State) (x y : Nat) : List (List Nat) :=
  let toHub := fun (n h : Nat) => match s.hubRoute n h with
    | some (_, l, e, _) => meshHops n l ++ [[e]] ++ s.ringHopEnds (hubOf e) h
    | none => []
  if x = y then []
  else if x < 16 && y < 16 then
    match (s.dieOwner x).bind fun p => s.route p x y with
    | some (.mesh _ l) => meshHops x l
    | some (.hubs e e' _) => [[e]] ++ s.ringHopEnds (hubOf e) (hubOf e') ++ [[e']]
    | none => []
  else if x < 16 then toHub x (y - 16)
  else if y < 16 then toHub y (x - 16)
  else s.ringHopEnds (x - 16) (y - 16)

/-- Traffic between the nodes waits at its sender: a hop of its route has no module outside a window (R347). Of the two modules of a neighbour
pair the one that has no window carries it (DESIGN CHOICE, notes/assumptions/59). -/
def State.hopsHeld (s : State) (x y : Nat) : Bool :=
  (List.range 176).any (fun e => s.f .CRX_STATUS_STATE e == 3) &&
    (s.hops x y).any fun h => h.all fun e => !(s.linkUp e && s.f .CRX_STATUS_STATE e == 2)

/-! ## Connected sets (R23, R24) -/

/-- The dies of `set` that die n reaches through neighbour pairs inside the set. -/
def reachIn (set : List Nat) : Nat → List Nat → List Nat
  | 0, seen => seen
  | k + 1, seen => reachIn set k (set.filter fun n => seen.contains n || (gridNbrs n).any seen.contains)

def connectedSet (set : List Nat) : Bool :=
  match set with
  | [] => true
  | n :: _ => (reachIn set 16 [n]).length == set.length

/-- The largest connected set of the dies given; of equal ones the one with the lowest die (R24). -/
def largestSet (dies : List Nat) : List Nat :=
  dies.foldl (fun best n =>
    let c := reachIn dies 16 [n]
    if best.length < c.length then c else best) []

end Sys2Proof.Machine
end

