-- ==== Sys2Proof/Machine/Phys.lean ====
section
/-!
DEFINITION. Physical module memory: the windows and their decode (R238 to R240), the memory code as the controller sees it (R247 to R251),
lanes, spares and retrain windows (R255 to R259), and the copies and directory entries of granules (R273, R274). Every change of memory bytes
goes through `State.putBytes`.
-/

namespace Sys2Proof.Machine

open Sys2Proof

/-! ## Addresses -/

def GiB : Nat := 2 ^ 30

/-- DI and MI of a partition, and NP, in bytes (R237). -/
def State.diBytes (s : State) (p : Nat) : Nat := s.f .MEM_PMAP_DI_GIB p * GiB
def State.miBytes (s : State) (p : Nat) : Nat := s.f .MEM_PMAP_MI_GIB p * GiB
def State.npBytes (s : State) (p : Nat) : Nat := 128 * GiB - s.diBytes p - s.miBytes p

/-- XOR of the 5-bit fields of x (R239). -/
def fold5 (x : Nat) : Nat := (List.range 13).foldl (fun a i => a ^^^ bitsOf x (5 * i) 5) 0

/-- XOR of all bits. -/
def parity (x : Nat) : Nat := popCount x 64 % 2

/-- First address of control space in the physical space. -/
def controlBase : Nat := 0xF000000000000

/-- Stack and stack offset of a physical address; `none` for a hole (R238, R239). An unassigned die backs nothing. -/
def State.decodePA (s : State) (pa : Nat) : Option (Nat × Nat) :=
  if pa < 0x40000000000 then
    let n := pa / 2 ^ 38
    match s.dieOwner n with
    | some p => if pa % 2 ^ 37 < s.npBytes p then some (2 * n + bitsOf pa 37 1, pa % 2 ^ 37) else none
    | none => none
  else if pa < 0x80000000000 then
    let n := (pa - 0x40000000000) / 2 ^ 38
    let w := (pa - 0x40000000000) % 2 ^ 38
    match s.dieOwner n with
    | some p =>
      if w < 2 * s.diBytes p then
        let g := w / 4096
        let j := (g % 2) ^^^ parity (g / 2)
        some (2 * n + j, s.npBytes p + g / 2 * 4096 + w % 4096)
      else none
    | none => none
  else
    let p := (pa - 0x80000000000) / 2 ^ 42
    let w := (pa - 0x80000000000) % 2 ^ 42
    let ss := if p < 16 then s.partStacks p else []
    let n := ss.length
    if w < n * s.miBytes p then
      let g := w / 2048
      let q := g / n
      let rank := (g % n + fold5 q) % n
      some (ss.getD rank 0, s.npBytes p + s.diBytes p + q * 2048 + w % 2048)
    else none

/-- The physical address of a stack offset under the present map. -/
def State.paOf (s : State) (k a : Nat) : Nat :=
  let n := k / 2
  match s.dieOwner n with
  | none => k * 2 ^ 37 + a
  | some p =>
    if a < s.npBytes p then k * 2 ^ 37 + a
    else if a < s.npBytes p + s.diBytes p then
      let b := a - s.npBytes p
      let h := b / 4096
      0x40000000000 + n * 2 ^ 38 + (2 * h + ((k % 2) ^^^ parity h)) * 4096 + b % 4096
    else
      let b := a - s.npBytes p - s.diBytes p
      let ss := s.partStacks p
      let m := max ss.length 1
      let q := b / 2048
      let g := q * m + (ss.idxOf k + m * 32 - fold5 q) % m
      0x80000000000 + p * 2 ^ 42 + g * 2048 + b % 2048

/-- The partition whose stacks hold the address. -/
def State.paPart (s : State) (pa : Nat) : Option Nat := (s.decodePA pa).bind fun x => s.dieOwner (x.1 / 2)

/-- Channel of a stack offset (R240). -/
def channelOf (a : Nat) : Nat :=
  bitsOf a 11 5 ^^^ bitsOf a 16 5 ^^^ bitsOf a 21 5 ^^^ bitsOf a 26 5 ^^^ bitsOf a 31 5 ^^^ bitsOf a 36 1

/-- Channel address of a stack offset, and the column, bank and row it selects (R240). -/
def chanAddr (a : Nat) : Nat := bitsOf a 16 21 * 2 ^ 11 + bitsOf a 0 11
def columnOf (a : Nat) : Nat := bitsOf (chanAddr a) 0 11
def bankOf (a : Nat) : Nat := bitsOf (chanAddr a) 11 6 ^^^ bitsOf (chanAddr a) 17 6 ^^^ bitsOf (chanAddr a) 23 6
def rowOf (a : Nat) : Nat := bitsOf (chanAddr a) 17 15

/-- DRAM die of a channel, and bank group of a bank (R236). -/
def dramDie (c : Nat) : Nat := c / 2
def bankGroup (b : Nat) : Nat := b / 4

/-- Key of the granule of a stack offset. -/
def granKey (k a : Nat) : Nat := k * 2 ^ 31 + a / 64
def granStack (g : Nat) : Nat := g / 2 ^ 31
def granOff (g : Nat) : Nat := g % 2 ^ 31 * 64

/-! ## Bytes of the arrays -/

/-- One byte of a stack; a byte that nothing has written reads zero (notes/assumptions/1). -/
def State.memByte (s : State) (key : Nat) : Byte := FMap.fget s.mem key 0

/-- `n` bytes from a key. -/
def State.memBytes (s : State) (key n : Nat) : Bytes := (List.range n).map fun i => s.memByte (key + i)

/-- Bytes written from a key, lowest first. -/
def putRun (m : List Host.Cell) (key : Nat) : Bytes → List Host.Cell
  | [] => m
  | b :: t => putRun (FMap.fput m key b 0) (key + 1) t

/-- Memory with a run of bytes replaced: the one operation that changes module memory byte by byte. -/
def State.putBytes (s : State) (key : Nat) (b : Bytes) : State := { s with mem := putRun s.mem key b }

/-- Memory with every byte of a stack zero (R34): the one operation that clears. -/
def State.zeroStack (s : State) (k : Nat) : State :=
  { s with mem := FMap.drop s.mem fun a => a / 2 ^ 37 == k
           ecc := s.ecc.drop fun g => granStack g == k }

/-! ## The memory code (R247 to R249) -/

/-- The product of two elements of GF(2^16), α a root of x^16 + x^12 + x^3 + x + 1: `n` bits of `b` from the top. -/
def gfMul (a b : Nat) : Nat :=
  (List.range 16).foldr (fun i acc =>
    let d := 2 * acc
    (if bitOf d 16 then d ^^^ 0x1100B else d) ^^^ (if bitOf b i then a else 0)) 0

/-- g(x) without its leading x^4: the coefficients of x^0 to x^3, from the roots α^0 to α^3. -/
def rsGen : List Nat :=
  ([1, 2, 4, 8].foldl (fun (g : List Nat) root =>
    (List.range (g.length + 1)).map fun i => (if i = 0 then 0 else g.getD (i - 1) 0) ^^^ gfMul root (g.getD i 0)) [1]).take 4

/-- Data symbol `i` of 64 bytes. -/
def dataSymbol (b : Bytes) (i : Nat) : Nat := fldB b (2 * i) 2

/-- Check symbols 0 to 3 of 64 data bytes: the coefficients of r(x). The division runs from data symbol 31 down. -/
def checkSymbols (b : Bytes) : List Nat :=
  (List.range 32).foldr (fun i (r : List Nat) =>
    let q := dataSymbol b i ^^^ r.getD 3 0
    (List.range 4).map fun j => (if j = 0 then 0 else r.getD (j - 1) 0) ^^^ gfMul q (rsGen.getD j 0)) [0, 0, 0, 0]

/-- Key of a lane's registers (MEM_LANE): (stack × 32 + channel) × 292 + lane. -/
def laneIx (k ch lane : Nat) : Nat := (k * 32 + ch) * 292 + lane

/-- The codeword of a sector, the symbol and the bits that a lane carries (R248). -/
def laneSymbol (lane : Nat) : Nat × Nat × Nat :=
  let bits := if lane % 2 = 0 then 0x5555 else 0xAAAA
  if lane < 256 then (lane / 64, lane % 64 / 2, bits) else ((lane - 256) / 8, 32 + (lane - 256) % 8 / 2, bits)

/-- The lane whose bits a lane carries: a spare in use carries those of the lane it replaces, a spare that is not in use none. -/
def State.carriedBy (s : State) (k ch lane : Nat) : Option Nat :=
  if lane < 288 then some lane
  else if !s.fb .MEM_LANE_SPARE_IN_USE (laneIx k ch lane) then none
  else (List.range 288).find? fun d => s.fb .MEM_LANE_SPARED (laneIx k ch d) && s.f .MEM_LANE_SPARE (laneIx k ch d) == lane - 288

/-- The lane that carries the bits of data or check lane `d`: itself, or the spare that replaces it. -/
def State.carrier (s : State) (k ch d : Nat) : Nat :=
  if s.fb .MEM_LANE_SPARED (laneIx k ch d) then 288 + s.f .MEM_LANE_SPARE (laneIx k ch d) else d

/-- The symbols in error of a codeword as read now: those recorded for it, and those of unreplaced failed lanes that read wrong. -/
def State.badSyms (s : State) (g : Nat) : List (Nat × Nat) :=
  let k := granStack g
  let a := granOff g
  let ch := channelOf a
  let u := a / 64 % 4
  let fromLanes := ((s.stack k).badLanes.fget ch []).filterMap fun l =>
    let (u', sym, bits) := laneSymbol ((s.carriedBy k ch l).getD 999)
    if u' = u && Config.laneWrong (laneIx k ch l) s.free g then some (sym, bits) else none
  fromLanes.foldl (fun acc x =>
    if acc.any (fun y => y.1 == x.1) then acc.map (fun y => if y.1 == x.1 then (y.1, y.2 ||| x.2) else y) else acc ++ [x])
    (s.ecc.fget g [])

/-- The lanes on which the changed bits of a symbol travel (R248). -/
def symLanes (u : Nat) (x : Nat × Nat) : List Nat :=
  let first := if x.1 < 32 then 64 * u + 2 * x.1 else 256 + 8 * u + 2 * (x.1 - 32)
  (if x.2 &&& 0x5555 ≠ 0 then [first] else []) ++ (if x.2 &&& 0xAAAA ≠ 0 then [first + 1] else [])

/-- A retrain window of a stack becomes pending (R257). -/
def State.pendWindow (s : State) (k : Nat) : State :=
  if s.fb .MEM_STATUS_PENDING k then s else
    let c := s.sched (schedKey ((s.dieOwner (k / 2)).getD 0) (s.f .MEM_CTRL_SCHEDULE k))
    (s.setF .MEM_STATUS_PENDING k 1).setStack k { s.stack k with pendAt := s.eng, nextDeal := c.after s.now }

/-- A lane of a channel without free spares becomes carried (R259); with the third the channel's range is to be retired
(`State.settleRetire`). -/
def State.carryLane (s : State) (k ch lane : Nat) : State :=
  let s := (s.setF .MEM_LANE_FLAGGED (laneIx k ch lane) 0).setF .MEM_LANE_CARRIED (laneIx k ch lane) 1
  let n := s.f .MEM_CHAN_CARRIED (32 * k + ch)
  let s := s.setF .MEM_CHAN_CARRIED (32 * k + ch) (min (n + 1) 3)
  if n = 2 && !s.fb .MEM_CHAN_RETIRED (32 * k + ch) then
    s.setStack k { s.stack k with retiring := (s.stack k).retiring ++ [ch] }
  else s

/-- The lowest spare of a channel that works and replaces no lane. -/
def State.freeSpare (s : State) (k ch : Nat) : Option Nat :=
  (List.range 4).find? fun i => !s.fb .MEM_LANE_SPARE_IN_USE (laneIx k ch (288 + i)) && !bitOf ((s.stack k).badSpares.fget ch 0) i

/-- A spare that can replace no lane: it failed training, or it has been flagged. -/
def State.loseSpare (s : State) (k ch i : Nat) : State :=
  s.setStack k { s.stack k with badSpares := (s.stack k).badSpares.fput ch (setBit ((s.stack k).badSpares.fget ch 0) i) 0 }

/-- A lane is flagged (R256): a window becomes pending while a spare of its channel is free (R257), else the lane becomes carried
(R259). A spare that carries nothing is flagged and lost: no window is pending for it, since nothing is to be replaced (DESIGN CHOICE,
notes/assumptions/72). -/
def State.flagLane (s : State) (k ch lane : Nat) : State :=
  if s.fb .MEM_LANE_FLAGGED (laneIx k ch lane) || s.fb .MEM_LANE_CARRIED (laneIx k ch lane) || s.fb .MEM_LANE_SPARED (laneIx k ch lane) then s
  else
    let s := if lane < 288 then s else s.loseSpare k ch (lane - 288)
    let s := s.setF .MEM_LANE_FLAGGED (laneIx k ch lane) 1
    if 288 ≤ lane && !s.fb .MEM_LANE_SPARE_IN_USE (laneIx k ch lane) then s
    else
      let x := s.stack k
      let s := s.setStack k { x with badLanes := x.badLanes.fput ch (x.badLanes.fget ch [] ++ [lane]) [] }
      if (s.freeSpare k ch).isSome then s.pendWindow k else s.carryLane k ch lane

/-- A free spare takes the bits that a lane of the channel carries: of a data or check lane, or of the spare that replaced one. -/
def State.replaceLane (s : State) (k ch lane spare : Nat) : State :=
  let d := (s.carriedBy k ch lane).getD lane
  let s := if lane < 288 then s else
    (s.setF .MEM_LANE_SPARE_IN_USE (laneIx k ch lane) 0).decF .MEM_CHAN_SPARES_USED (32 * k + ch)
  let s := ((s.setF .MEM_LANE_FLAGGED (laneIx k ch lane) 0).setF .MEM_LANE_SPARED (laneIx k ch d) 1).setF .MEM_LANE_SPARE (laneIx k ch d) spare
  let s := (s.setF .MEM_LANE_SPARE_IN_USE (laneIx k ch (288 + spare)) 1).incF .MEM_CHAN_SPARES_USED (32 * k + ch)
  let x := s.stack k
  s.setStack k { x with badLanes := x.badLanes.fput ch ((x.badLanes.fget ch []).erase lane) [] }

/-- A stack that is in a retrain window leaves it (R257): the lane counters are cleared. -/
def State.endMemWindow (s : State) (k : Nat) : State :=
  if !s.fb .MEM_STATUS_WINDOW k then s
  else
    let s := (s.setF .MEM_STATUS_WINDOW k 0).setF .MEM_STATUS_SELF_REFRESH k 0
    let lo := Fld.MEM_LANE_ERRORS.key (laneIx k 0 0)
    let hi := Fld.MEM_LANE_ERRORS.key (laneIx k 31 291)
    { s with regs := s.regs.filter fun (e : Nat × Nat) => !(decide (lo ≤ e.1) && decide (e.1 ≤ hi)) }

/-- A corrected read: error counts, and the lane counters of the bits changed (R256). -/
def State.noteCorrected (s : State) (g : Nat) (bad : List (Nat × Nat)) : State :=
  let k := granStack g
  let ch := channelOf (granOff g)
  let u := granOff g / 64 % 4
  let s := (s.incF .MEM_ERR_CORRECTED k).incF .MEM_CHAN_CORRECTED (32 * k + ch)
  (bad.flatMap (symLanes u)).foldl (fun s d =>
    let l := s.carrier k ch d
    let s := s.satF .MEM_LANE_ERRORS (laneIx k ch l)
    if s.f .MEM_CTRL_LANE_LIMIT k ≤ s.f .MEM_LANE_ERRORS (laneIx k ch l) then s.flagLane k ch l else s) s

/-- The 36 symbols of a codeword that is free of errors: its data symbols, then its check symbols (R247). -/
def cleanWord (b : Bytes) : List Nat := (List.range 32).map (dataSymbol b) ++ checkSymbols b

/-- The 36 symbols of a codeword as its arrays hold them, data symbols 0 to 31 and check symbols 0 to 3, errors included (R236, R247). -/
def State.storedWord (s : State) (g : Nat) : List Nat :=
  let raw := s.memBytes (granStack g * 2 ^ 37 + granOff g) 64
  let bad := s.badSyms g
  (cleanWord raw).zipIdx.map fun (x : Nat × Nat) =>
    bad.foldl (fun v (y : Nat × Nat) => if y.1 == x.2 then v ^^^ y.2 else v) x.1

/-- The symbols in which the corrected codeword differs from the one read, with the bits that differ. -/
def changedSyms (read : List Nat) (b : Bytes) : List (Nat × Nat) :=
  (List.range 36).filterMap fun i =>
    let x := read.getD i 0 ^^^ (cleanWord b).getD i 0
    if x = 0 then none else some (i, x)

/-- The codeword as the controller reads it: `none` when it is uncorrectable (R249). A stack in a retrain window serves after it (R257). -/
def State.readWord (s : State) (g : Nat) : Option Bytes × State :=
  let s := s.endMemWindow (granStack g)
  let bad := s.badSyms g
  let raw := s.memBytes (granStack g * 2 ^ 37 + granOff g) 64
  if bad = [] then (some raw, s)
  else
    let s' := { s with free := s.free + 1 }
    if bad.length ≤ 2 then (some raw, s'.noteCorrected g bad)
    else match Config.miscorrect s.free g with
      | some b => (some (sliceB b 0 64), s'.noteCorrected g (changedSyms (s.storedWord g) (sliceB b 0 64)))
      | none => (none, s'.incF .MEM_ERR_UNCORRECTABLE (granStack g))

/-- The codewords of the sector of a stack offset that `mine` does not name, read and discarded (R242). -/
def State.readRest (s : State) (k off : Nat) (mine : Nat → Bool) : State :=
  ([0, 64, 128, 192].filter fun o => !mine o).foldl (fun s o => (s.readWord (granKey k (off / 256 * 256 + o))).2) s

/-- Whether a codeword is uncorrectable now, without counting a read. -/
def State.isUncorr (s : State) (g : Nat) : Bool :=
  decide (2 < (s.badSyms g).length) && (Config.miscorrect s.free g).isNone

/-! ## Memory closed to writes -/

/-- A stack offset lies in an enabled cellar region. -/
def State.inCellar (s : State) (k a : Nat) : Bool :=
  let c := s.cel k
  decide (0 < c.casks) && decide (c.base ≤ a) && decide (a < c.base + c.casks * 65536)

/-- A physical address lies in a boot image closed to writes (R451). -/
def State.inBootImage (s : State) (pa : Nat) : Bool :=
  s.keeper.bootRange.any fun (_, lo, hi) => decide (lo ≤ pa) && decide (pa < hi)

/-! ## Masks of bytes -/

/-- The bytes of `new` where the mask has a bit, those of `old` elsewhere. -/
def mergeMask (old new : Bytes) (mask : Nat) : Bytes :=
  (List.range 64).map fun i => if bitOf mask i then new.getD i 0 else old.getD i 0

def fullMask : Nat := 2 ^ 64 - 1

/-- The mask of `len` bytes at offset `off` of a granule. -/
def byteMask (off len : Nat) : Nat := (2 ^ len - 1) * 2 ^ off % 2 ^ 64

end Sys2Proof.Machine
end

