-- ==== Sys2Proof/Machine/Domain.lean ====
section
/-!
DEFINITION. The coherent domain (R264, R273 to R281, R340): copies, directory entries, messages in flight, what homes, owners and requesters
do with each message, and the accesses of groups, node cores and engines, which are made when no message for their granule is in flight.
-/

namespace Sys2Proof.Machine

open Sys2Proof

/-! ## Paths (R244) -/

/-- The path an access takes (R244). -/
inductive Path where
  | bulk | narrow
deriving DecidableEq, Repr

/-- A stack of a partition in NAP that is accessed leaves self-refresh (R404). -/
def State.touchStack (s : State) (k : Nat) : State :=
  match s.dieOwner (k / 2) with
  | some p =>
    if s.f .PWR_IDLE_STATE p = 2 then
      ({ s with power := { s.power with woken := s.power.woken.fput k (s.eng + 1) 0 } }).setF .MEM_STATUS_SELF_REFRESH k 0
    else s
  | none => s

/-- Channel slots a granule access counts: a codeword on the narrow path, a sector on the bulk path (R455, Table 18-1). -/
def State.countPath (s : State) (k : Nat) (path : Path) (n : Nat) : State :=
  match path with
  | .narrow => s.evDie (k / 2) 0x0C (k % 2) n
  | .bulk => s.evDie (k / 2) 0x0B (k % 2) n

/-- A stack cleared, sector by sector on the bulk path (R34, R244): 2^29 of them. -/
def State.wipeStack (s : State) (k : Nat) : State := (s.zeroStack k).countPath k .bulk (2 ^ 29)

/-! ## Copies and directory entries -/

/-- Key of an agent's copy of a granule. -/
def copyKey (agent g : Nat) : Nat := agent * 2 ^ 37 + g

def State.copy (s : State) (agent g : Nat) : Copy := s.caches.copies.fget (copyKey agent g) {}

/-- A granule leaves a node core's L2 (R265): its L1 instruction cache loses it, and a reservation on it is gone; agents 4 to 19 of a die
are the L2s of its cores. -/
def dropFetched (cores : FMap NodeCore) (agent g : Nat) : FMap NodeCore :=
  cores.map fun (e : Nat × NodeCore) =>
    if e.1 / 16 == agent / 32 && e.1 % 16 + 4 == agent % 32 then
      (e.1, { e.2 with icache := e.2.icache.fput g [] [], resv := if e.2.resv == some g then none else e.2.resv }) else e

def State.setCopy (s : State) (agent g : Nat) (c : Copy) : State :=
  { s with caches := { s.caches with copies := s.caches.copies.fput (copyKey agent g) c {} }
           cores := if c.st == .i then dropFetched s.cores agent g else s.cores }
def State.dirOf (s : State) (g : Nat) : Dir := s.caches.dir.fget g {}
def State.setDir (s : State) (g : Nat) (d : Dir) : State :=
  { s with caches := { s.caches with dir := s.caches.dir.fput g d {} } }

/-- The agent that holds the value of the granule in place of memory: the recorded owner, with data (R276). -/
def State.ownerOf (s : State) (g : Nat) : Option Nat :=
  let d := s.dirOf g
  if (d.st == .e || d.st == .o) && (s.copy d.owner g).data.length == 64 then some d.owner else none

/-- Home die of a granule. -/
def granDie (g : Nat) : Nat := granStack g / 2

/-- Without the holding that an agent has of a granule; what waits, and a write-back buffer, stay. -/
def Copy.dropped (c : Copy) : Copy := { c with st := .i, data := if c.wb then c.data else [] }

/-- Every holder of a granule gives it up (R276): copies, reservations of node cores (R265) and the holders of the directory entry; a
collection in progress goes on. -/
def State.dropCopies (s : State) (g : Nat) : State :=
  let s := { s with
    caches := { s.caches with copies := (s.caches.copies.map fun (e : Nat × Copy) =>
      if e.1 % 2 ^ 37 == g then (e.1, e.2.dropped) else e).filter fun (e : Nat × Copy) => e.2 != ({} : Copy) }
    cores := s.cores.map fun (e : Nat × NodeCore) =>
      (e.1, { e.2 with resv := if e.2.resv == some g then none else e.2.resv, icache := e.2.icache.fput g [] [] }) }
  s.setDir g { wait := (s.dirOf g).wait, txn := (s.dirOf g).txn }

/-- Whole granules written at the home, with new check symbols (R251). A stack in a retrain window serves after it (R257). -/
def State.homeStore (s : State) (g : Nat) (b : Bytes) : State :=
  ({ (s.endMemWindow (granStack g)) with ecc := s.ecc.fput g [] [] }).putBytes (granStack g * 2 ^ 37 + granOff g) (sliceB b 0 64)

/-- A granule that only the cellar may write (R195). -/
def State.granClosed (s : State) (g : Nat) : Bool := s.inCellar (granStack g) (granOff g)

/-- The path of an agent's accesses: narrow for a node core, bulk for a slice or an engine (Table 9-3). -/
def agentPath (a : Nat) : Path := if a < 512 && 4 ≤ a % 32 then .narrow else .bulk

/-- Counts the access that reads or writes a codeword for an agent. -/
def State.countHome (s : State) (a g : Nat) : State := s.countPath (granStack g) (agentPath a) 1

/-- Counts a write for an agent; one of part of a codeword reads first, on the bulk path the whole sector (R242, R243). -/
def State.countWrite (s : State) (a g : Nat) (whole : Bool) : State :=
  let s := s.countPath (granStack g) (agentPath a) (if whole then 1 else 2)
  if whole || agentPath a == .narrow then s
  else s.readRest (granStack g) (granOff g) fun o => o == granOff g % 256 / 64 * 64

/-- Data that caching agent `a` writes back; none goes into a cellar region. -/
def State.ownerStore (s : State) (a g : Nat) (b : Bytes) : State :=
  if b.length == 64 && !s.granClosed g then (s.countHome a g).homeStore g b else s

/-! ## Shift registers (R264) -/

/-- Reset value: of a slice by its region index, of a home by its stack, of any other agent by its number (notes/assumptions/30). -/
def lfsrInit (k : Nat) : Nat :=
  let ix := if 2048 ≤ k then k - 2048 else if k < 512 && k % 32 < 4 then 4 * (k / 32) + k % 32 else k
  0xACE1 ^^^ (ix * 256 % 65536)

def State.lfsr (s : State) (k : Nat) : Nat := s.caches.lfsr.fget k (lfsrInit k)

def lfsrStep (x : Nat) : Nat :=
  (2 * x + (x / 2 ^ 15 + x / 2 ^ 13 + x / 2 ^ 12 + x / 2 ^ 10) % 2) % 65536

def State.shiftLfsr (s : State) (k : Nat) : State :=
  { s with caches := { s.caches with lfsr := s.caches.lfsr.fput k (lfsrStep (s.lfsr k)) (lfsrInit k) } }

/-- The first way from `w` on, wrapping at 16, that is not busy (R264). -/
def victimWay (busy : Nat → Bool) (w : Nat) : Option Nat :=
  ((List.range 16).map fun i => (w + i) % 16).find? fun i => !busy i

def State.ways (s : State) (k : Nat) : List Nat := s.caches.ways.fget k (List.replicate 16 0)
def State.setWays (s : State) (k : Nat) (l : List Nat) : State :=
  { s with caches := { s.caches with ways := s.caches.ways.fput k l (List.replicate 16 0) } }

/-! ## Fills (R270) -/

/-- The sector of a fill that is delivered next: from the critical sector on, of the granules that come. -/
def Fill.nextSector (f : Fill) : Option Nat :=
  ((List.range 4).map fun i => (f.first + i) % 4).find? fun i => bitOf f.have_ (i / 2) && !bitOf f.arrived i

/-- Every sector has been delivered. -/
def Fill.over (f : Fill) : Bool := f.nextSector.isNone

/-- Fills without those that are over and that nothing waits on. -/
def openFills (l : List Fill) : List Fill := l.filter fun f => !f.over || !f.waiters.isEmpty

/-! ## Messages in flight (R340)

A requester below 512 is a caching agent; 512 + 32 × node + i is non-caching agent i of a node, a die below 16 or hub node − 16
(notes/assumptions/48). -/

/-- The node of a requester. -/
def reqNode (a : Nat) : Nat := if a < 512 then a / 32 else (a - 512) / 32

/-- The granule of a message. -/
def CMsg.gran : CMsg → Nat
  | .request _ g _ _ | .writeBack _ g | .evictClean _ g | .fwd _ _ _ g | .inv _ g | .recall _ g | .data _ _ g _ _ | .invAck _ g
  | .wbAck _ g _ | .done _ g _ | .nak _ _ g => g

/-- The VC of a message (Table 13-3) and its source and destination nodes. -/
def CMsg.chan : CMsg → Nat × Nat × Nat
  | .request a g k _ => (if k = 5 then 3 else 0, reqNode a, granDie g)
  | .writeBack a g => (3, reqNode a, granDie g)
  | .evictClean a g => (0, reqNode a, granDie g)
  | .fwd _ o _ g => (1, granDie g, reqNode o)
  | .inv a g | .recall a g => (1, granDie g, reqNode a)
  | .data src a _ _ _ => (3, src, reqNode a)
  | .invAck a g => (2, reqNode a, granDie g)
  | .wbAck a g _ | .done a g _ => (2, granDie g, reqNode a)
  | .nak src a _ => (2, src, reqNode a)

def State.setNet (s : State) (l : List (Nat × CMsg)) : State := { s with caches := { s.caches with net := l } }

/-- A message sent, under the present routes. -/
def State.sendCoh (s : State) (m : CMsg) : State := s.setNet (s.caches.net ++ [(s.f .ID_DIST_GEN_GEN, m)])

/-- The first message that `p` names, when it may arrive: none of its VC, its pair of nodes and its routes was sent before it, and no module
of its route is in a window. -/
def State.arriving (s : State) (p : CMsg → Bool) : Option (Nat × CMsg) :=
  match s.caches.net.find? fun x => p x.2 with
  | some x =>
    if (s.caches.net.takeWhile fun y => !p y.2).any (fun y => y.1 == x.1 && y.2.chan == x.2.chan) || s.hopsHeld x.2.chan.2.1 x.2.chan.2.2 then none
    else some x
  | none => none

/-- A message arrives and is acted on; while none that `p` names may arrive nothing happens. -/
def State.take (s : State) (p : CMsg → Bool) (act : CMsg → State → State) : State :=
  match s.arriving p with
  | some x => act x.2 (s.setNet (s.caches.net.erase x))
  | none => s

/-- The order of messages sent before a window of a module holds after it (R347, R349). -/
def State.keepOrder (s : State) : State := s.setNet (s.caches.net.map fun x => (s.f .ID_DIST_GEN_GEN, x.2))

/-- Routes are fixed anew after a change of the state `old` (R28, R340): messages of a pair whose route stays keep their order. -/
def State.rerouted (s old : State) : State :=
  let t := s.updateRoutes
  t.setNet (s.caches.net.map fun x =>
    if x.1 = s.f .ID_DIST_GEN_GEN && old.hops x.2.chan.2.1 x.2.chan.2.2 == s.hops x.2.chan.2.1 x.2.chan.2.2 then (t.f .ID_DIST_GEN_GEN, x.2) else x)

/-! ## Requests of non-caching agents -/

def State.nc (s : State) (a g : Nat) : NcReq := s.caches.nc.fget (copyKey a g) {}
def State.setNc (s : State) (a g : Nat) (x : NcReq) : State :=
  { s with caches := { s.caches with nc := s.caches.nc.fput (copyKey a g) x {} } }

/-- One more, or one less, write or atomic of the requester that is not yet answered Done. -/
def State.openWrite (s : State) (req : Nat) : State :=
  { s with caches := { s.caches with openW := s.caches.openW.fput req (s.caches.openW.fget req 0 + 1) 0 } }
def State.closeWrite (s : State) (req : Nat) : State :=
  { s with caches := { s.caches with openW := s.caches.openW.fput req (s.caches.openW.fget req 0 - 1) 0 } }

/-- A request ends without its effect: uncorrectable data (R250, R251, R271), or a write into a cellar region (R195). -/
def State.endRequest (s : State) (a g : Nat) : State :=
  let c := s.copy a g
  let r := s.nc a g
  let s := if c.want = 0 then s else s.setCopy a g { c with want := 0, full := false, naks := 0, held := false, inved := false }
  if r.kind = 0 then s else (if r.kind = 4 then s else s.closeWrite a).setNc a g {}

/-! ## Directory entries (Table 10-4) -/

/-- The home collects acknowledgements for the granule. -/
def Dir.busy (d : Dir) : Bool := d.txn.isSome || !d.wait.isEmpty

/-- An entry that names no copy. -/
def Dir.free (d : Dir) : Bool := d.st == .u && !d.busy

/-- The entry names an owner. -/
def Dir.owned (d : Dir) : Bool := d.st == .e || d.st == .o

/-- Agents to invalidate: the sharers, or all 20 agents of each die of a coarse mask, without `but` and without the owner. -/
def Dir.targets (d : Dir) (but : Nat) : List Nat :=
  let l := if d.coarse then (bitList d.dieMask 16).flatMap fun n => (List.range 20).map fun a => 32 * n + a else d.sharers
  l.filter fun a => a != but && !(d.owned && a == d.owner)

/-- A sharer added; a fifth makes the entry coarse. -/
def Dir.addSharer (d : Dir) (a : Nat) : Dir :=
  if d.coarse then { d with dieMask := setBit d.dieMask (a / 32) }
  else if d.sharers.contains a then d
  else if d.sharers.length < 4 then { d with sharers := d.sharers ++ [a] }
  else { d with coarse := true, dieMask := maskOf ((a :: d.sharers).map (· / 32)), sharers := [] }

/-- The entry without its owner: S while sharers remain. -/
def Dir.dropOwner (d : Dir) : Dir :=
  { d with st := if d.coarse || !d.sharers.isEmpty then .s else .u, owner := 0 }

/-- Key of the set of a granule's entry (R274). -/
def dirSetKey (g : Nat) : Nat := 64 * 8192 + granStack g * 131072 + Config.dirHash (granOff g) % 131072

/-- Starts a collection: Inv to the sharers, Recall to an owner when `toOwner`. -/
def State.collect (s : State) (g : Nat) (x : Txn) (but : Nat) (toOwner : Bool) : State :=
  let d := s.dirOf g
  let inv := d.targets but
  let own := if toOwner && d.owned && d.owner != but then [d.owner] else []
  let s := inv.foldl (fun s a => s.sendCoh (.inv a g)) s
  let s := own.foldl (fun s a => s.sendCoh (.recall a g)) s
  s.setDir g { d with wait := inv ++ own, txn := some x }

/-- A way of the set that holds granule g's entry, or that may take it. -/
def State.dirWay (s : State) (g : Nat) : Option Nat :=
  let ws := s.ways (dirSetKey g)
  if ws.contains (g + 1) then some (ws.idxOf (g + 1))
  else (List.range 16).find? fun i => ws.getD i 0 == 0 || (s.dirOf (ws.getD i 0 - 1)).free

/-- The eviction of a victim of granule g's full set is started; `none` while every entry is busy. `next` is served after it. -/
def State.evictDir (s : State) (g : Nat) (x : Txn) : Option State :=
  let ws := s.ways (dirSetKey g)
  let home := 2048 + granStack g
  let s := s.shiftLfsr home
  (victimWay (fun i => (s.dirOf (ws.getD i 0 - 1)).busy) (s.lfsr home % 16)).map fun i => s.collect (ws.getD i 0 - 1) x (2 ^ 20) true

/-- Room for an entry of granule g; `false` when a victim's eviction was started, or every way is busy, and the request waits (R264). -/
def State.dirRoom (s : State) (g : Nat) (next : Nat × Nat × Nat × Bool) : Bool × State :=
  match s.dirWay g with
  | some i => (true, s.setWays (dirSetKey g) ((s.ways (dirSetKey g)).set i (g + 1)))
  | none =>
    match s.evictDir g { kind := 3, req := next.2.1, next := some next } with
    | some s => (false, s)
    | none => (false, { s with caches := { s.caches with dirWait := s.caches.dirWait ++ [next] } })

/-! ## Serving requests at the home (R276) -/

/-- Memory read at the home for a requester; a request that meets uncorrectable data ends (R271). -/
def State.homeRead (s : State) (a g : Nat) : Option Bytes × State :=
  match (s.countHome a g).readWord g with
  | (some b, s) => (some b, s)
  | (none, s) => (none, s.endRequest a g)

/-- ReadShared served. A recorded owner that asks again holds nothing. -/
def State.serveShared (s : State) (a g : Nat) : State :=
  match s.dirRoom g (g, a, 1, false) with
  | (false, s) => s
  | (true, s) =>
    let d := if (s.dirOf g).owned && (s.dirOf g).owner == a then (s.dirOf g).dropOwner else s.dirOf g
    match d.st with
    | .u =>
      match s.homeRead a g with
      | (none, s) => s
      | (some b, s) => (s.setDir g { st := .e, owner := a }).sendCoh (.data (granDie g) a g 2 b)
    | .s =>
      match s.homeRead a g with
      | (none, s) => s
      | (some b, s) => (s.setDir g (d.addSharer a)).sendCoh (.data (granDie g) a g 1 b)
    | _ => (s.setDir g { d.addSharer a with st := .o }).sendCoh (.fwd 0 d.owner a g)

/-- A ReadOwn or Upgrade whose sharers are gone is granted M: by the owner, from its own copy, or from memory. -/
def State.grantOwn (s : State) (a g : Nat) (full : Bool) : State :=
  let d := s.dirOf g
  let mine : Dir := { st := .e, owner := a }
  let c := s.copy a g
  if d.owned && d.owner != a then (s.setDir g mine).sendCoh (.fwd (if full then 4 else 1) d.owner a g)
  else if full then (s.setDir g mine).sendCoh (.data (granDie g) a g 3 [])
  else if c.st != .i then (s.setDir g mine).sendCoh (.data (granDie g) a g 3 c.data)
  else match s.homeRead a g with
    | (none, s) => s.setDir g { d with wait := [], txn := none }
    | (some b, s) => (s.setDir g mine).sendCoh (.data (granDie g) a g 3 b)

/-- ReadOwn, or Upgrade, served. -/
def State.serveOwn (s : State) (a g : Nat) (full : Bool) : State :=
  match s.dirRoom g (g, a, 2, full) with
  | (false, s) => s
  | (true, s) =>
    if (s.dirOf g).targets a = [] then s.grantOwn a g full
    else s.collect g { kind := 0, req := a, full := full } a false

/-- NoAllocRead served: no state changes. -/
def State.serveSnoop (s : State) (a g : Nat) : State :=
  let d := s.dirOf g
  if d.owned then s.sendCoh (.fwd 2 d.owner a g)
  else match s.homeRead a g with
    | (none, s) => s
    | (some b, s) => s.sendCoh (.data (granDie g) a g 0 b)

/-- The home keeps the identity and answer of a transaction it has performed (R430). -/
def State.rememberTxn (s : State) (req g answer : Nat) : State :=
  { s with crxTxns := s.crxTxns ++ [⟨granStack g, req, g, s.eng, answer⟩] }

/-- The value of a granule at its home: the recorded owner's data, or memory. -/
def State.valueAt (s : State) (g : Nat) : Option Bytes × State :=
  match s.ownerOf g with
  | some a => (some (s.copy a g).data, s)
  | none => s.readWord g

/-- A write at the home under a mask: every copy is given up, the owner's data merged first, and memory written whole with new check symbols.
It answers whether it was performed: a partial write to an uncorrectable codeword is not (R251). -/
def State.homeWrite (s : State) (g mask : Nat) (data : Bytes) : Bool × State :=
  if mask % 2 ^ 64 = fullMask then (true, (s.dropCopies g).homeStore g (sliceB data 0 64))
  else
    match s.valueAt g with
    | (none, s) => (false, s)
    | (some old, s) => (true, (s.dropCopies g).homeStore g (mergeMask old data mask))

/-- An atomic at the home (R281): the codeword read on the narrow path, the lanes performed in order, the codeword written back. -/
def State.homeAtom (s : State) (g : Nat) (lanes : List AtomLane) : Option (List Nat) × State :=
  match s.valueAt g with
  | (none, s) => (none, s)
  | (some d, s) =>
    let (e, ps, _) := atomLanes d lanes
    (some ps, ((s.countPath (granStack g) .narrow 2).dropCopies g).homeStore g e)

/-- The agent is the cellar of its die, which alone writes cellar regions. -/
def cellarAgent (req : Nat) : Bool := decide (512 ≤ req) && decide (req < 1024) && (req % 32 == 4 || req % 32 == 5)

/-- A write or atomic of the requester is not performed on the granule (R195). -/
def State.barred (s : State) (req g : Nat) : Bool := s.granClosed g && !cellarAgent req

/-- A WriteInv whose copies are gone is performed (R279, R251). -/
def State.performWrite (s : State) (req g mask : Nat) (data : Bytes) : State :=
  if s.barred req g then s.endRequest req g
  else match (s.countWrite req g (mask % 2 ^ 64 == fullMask)).homeWrite g mask data with
    | (true, s) => (s.rememberTxn req g 0).sendCoh (.done req g [])
    | (false, s) => s.endRequest req g

/-- An Atomic whose copies are gone is performed (R281). -/
def State.performAtomic (s : State) (req g : Nat) (lanes : List AtomLane) : State :=
  if s.barred req g then s.endRequest req g
  else match s.homeAtom g lanes with
    | (some ps, s) => (s.rememberTxn req g (ps.headD 0)).sendCoh (.done req g ps)
    | (none, s) => s.endRequest req g

/-- A WriteInv or Atomic served: performed at once when no copy exists, else after every copy is given up. -/
def State.serveWrite (s : State) (a g : Nat) : State :=
  let r := s.nc a g
  let d := s.dirOf g
  if d.targets (2 ^ 20) = [] && !d.owned then
    if r.kind = 5 then s.performWrite a g r.mask r.data else s.performAtomic a g r.lanes
  else s.collect g { kind := r.kind - 4, req := a, mask := r.mask, data := r.data, lanes := r.lanes } (2 ^ 20) true

/-- A request of a kind served. -/
def State.serveKind (s : State) (a g kind : Nat) (full : Bool) : State :=
  if kind = 1 then s.serveShared a g
  else if kind ≤ 3 then s.serveOwn a g full
  else if kind = 4 then s.serveSnoop a g
  else s.serveWrite a g

/-! ## NAKs and STARVING requests (R277, R278) -/

def State.starving (s : State) (k : Nat) : List (Nat × Nat × Bool) := s.caches.starve.fget k []
def State.setStarving (s : State) (k : Nat) (l : List (Nat × Nat × Bool)) : State :=
  { s with caches := { s.caches with starve := s.caches.starve.fput k l [] } }

/-- The kind of the request that a requester has open for a granule, and the NAKs it has received. -/
def State.wantOf (s : State) (a g : Nat) : Nat := if (s.nc a g).kind = 0 then (s.copy a g).want else (s.nc a g).kind
def State.naksOf (s : State) (a g : Nat) : Nat := if (s.nc a g).kind = 0 then (s.copy a g).naks else (s.nc a g).naks

/-- Serves the recorded requests of a granule, oldest first, while the granule is not BUSY. -/
def State.serveStarving (s : State) (g : Nat) : Nat → State
  | 0 => s
  | n + 1 =>
    let k := granStack g
    if (s.dirOf g).busy then s else
      match (s.starving k).find? fun x => x.1 == g with
      | none => s
      | some x =>
        let s := s.setStarving k ((s.starving k).erase x)
        (s.serveKind x.2.1 g (s.wantOf x.2.1 g) x.2.2).serveStarving g n

/-- A request reaches its home: NAK while the granule is BUSY or another requester has priority, else served. A STARVING request is recorded
while there is room. -/
def State.onRequest (s : State) (a g kind : Nat) (full : Bool) : State :=
  let k := granStack g
  let held := (s.starving k).any fun x => x.1 == g
  if (s.dirOf g).busy || held then
    if (s.starving k).any fun x => x.1 == g && x.2.1 == a then s
    else if s.naksOf a g < 8 || 8 ≤ (s.starving k).length then
      (s.sendCoh (.nak (granDie g) a g)).evDie (granDie g) 0x0D 0 1
    else (s.setStarving k (s.starving k ++ [(g, a, full)])).evDie (granDie g) 0x0E 0 1
  else s.serveKind a g kind full

/-! ## Acknowledgements -/

/-- Requests that wait for an entry of the set of granule g ask again: an entry of the set is no longer busy (R264, R274). -/
def State.retryDir (s : State) (g : Nat) : State :=
  let mine := fun (x : Nat × Nat × Nat × Bool) => dirSetKey x.1 == dirSetKey g
  let l := s.caches.dirWait.filter mine
  if l = [] then s
  else l.foldl (fun s (g', a, kind, full) => s.onRequest a g' kind full)
    { s with caches := { s.caches with dirWait := s.caches.dirWait.filter fun x => !mine x } }

/-- The last acknowledgement: BUSY clears and the request is performed; requests recorded as STARVING come next. -/
def State.finishCollect (s : State) (g : Nat) (x : Txn) : State :=
  let d := s.dirOf g
  let bare : Dir := if (x.kind = 0 || x.kind = 4) && d.owned then { st := d.st, owner := d.owner }
    else if x.kind = 0 && (s.copy x.req g).st != .i then { st := .s, sharers := [x.req] } else { st := .u }
  let s := if x.kind = 0 || x.kind = 4 then s.setDir g bare else s.setDir g { d with wait := [], txn := none }
  match x.kind with
  | 0 => (s.grantOwn x.req g x.full).serveStarving g 8
  | 1 => (s.performWrite x.req g x.mask x.data).serveStarving g 8
  | 2 => (s.performAtomic x.req g x.lanes).serveStarving g 8
  | 4 => s.serveStarving g 8
  | _ =>
    -- a directory eviction: an owner's data goes to memory, the entry is reused
    let s := if d.owned then s.ownerStore d.owner g (s.copy d.owner g).data else s
    let s := (s.dropCopies g).serveStarving g 8
    match x.next with
    | some (g', a, kind, full) => s.onRequest a g' kind full
    | none => s

/-- A collection ends, and the requests that waited for an entry of its set ask again. -/
def State.endCollect (s : State) (g : Nat) (x : Txn) : State := (s.finishCollect g x).retryDir g

def State.onInvAck (s : State) (a g : Nat) : State :=
  let d := s.dirOf g
  match d.txn with
  | none => s
  | some x => if d.wait.erase a = [] then s.endCollect g x else s.setDir g { d with wait := d.wait.erase a }

/-- A WriteBack from the recorded owner is written to memory and removes it; any other is superseded. An EvictClean only removes it. -/
def State.onGiveUp (s : State) (a g : Nat) (dirty : Bool) : State :=
  let d := s.dirOf g
  if d.owned && d.owner == a then
    let s := if dirty then s.ownerStore a g (s.copy a g).data else s
    (s.setDir g d.dropOwner).sendCoh (.wbAck a g false)
  else s.sendCoh (.wbAck a g true)

/-! ## Owners, sharers and requesters -/

/-- Data for the agent is on its way. -/
def State.dataComes (s : State) (a g : Nat) : Bool :=
  s.caches.net.any fun x => match x.2 with
    | .data _ b h _ _ => b == a && h == g
    | _ => false

/-- The agent's own data has not arrived, so forwards are queued: a request is out that would make it an owner, or bring its data. An owner in
O whose Upgrade has not been granted serves forwards from its copy: it is the owner that they reached (R276). -/
def State.early (s : State) (a g : Nat) : Bool :=
  let c := s.copy a g
  c.want != 0 && !c.held && !c.wb && (c.st == .i || (c.st == .s && c.want != 1) || s.dataComes a g)

/-- A forward or recall served from the copy or the write-back buffer: 0 FwdShared, 1 FwdOwn, 2 FwdSnoop, 3 recall, 4 FwdOwn for a request
with FULL, which sends no data (Table 10-5). -/
def State.serveFwd (s : State) (o req g kind : Nat) : State :=
  let c := s.copy o g
  let keep := fun (x : Copy) => if c.wb then s else s.setCopy o g x
  if kind = 3 then
    let dirty := c.st == .m || c.st == .o
    let s := s.setCopy o g { c with st := .i, wb := c.wb || dirty, data := if c.wb || dirty then c.data else [] }
    (if dirty then s.sendCoh (.writeBack o g) else s).sendCoh (.invAck o g)
  else if c.st == .i && !c.wb then s.sendCoh (.nak (reqNode o) req g)
  else match kind with
    | 0 => (keep { c with st := .o }).sendCoh (.data (reqNode o) req g 1 c.data)
    | 1 => (keep { c with st := .i, data := [] }).sendCoh (.data (reqNode o) req g 3 c.data)
    | 4 => (keep { c with st := .i, data := [] }).sendCoh (.data (reqNode o) req g 3 [])
    | _ => s.sendCoh (.data (reqNode o) req g 0 c.data)

/-- The forwards of a granule on their way to, or queued at, agents other than `o`: (agent, requester, kind). -/
def State.strayFwds (s : State) (o g : Nat) : List (Nat × Nat × Nat) :=
  (s.caches.net.filterMap fun x => match x.2 with
    | .fwd k a r g' => if g' == g && a != o then some (a, r, k) else none
    | .recall a g' => if g' == g && a != o then some (a, a, 3) else none
    | _ => none) ++
  (s.caches.copies.filter fun (e : Nat × Copy) => e.1 % 2 ^ 37 == g && e.1 / 2 ^ 37 != o).flatMap fun (e : Nat × Copy) =>
    e.2.queue.map fun (r, k) => (e.1 / 2 ^ 37, r, k)

/-- A FwdOwn that owner `o` answers NAK is undone (notes/assumptions/49): `o` stays the recorded owner, forwards sent after it are answered
NAK, and a recall goes to `o`. -/
def State.undoOwn (s : State) (o req g : Nat) : State :=
  let l := s.strayFwds o g
  let d := s.dirOf g
  let stray := fun (m : CMsg) => match m with
    | .fwd _ a _ g' | .recall a g' => g' == g && a != o
    | _ => false
  let s := { s with caches := { s.caches with
    net := s.caches.net.filter fun x => !stray x.2
    copies := s.caches.copies.map fun (e : Nat × Copy) =>
      if e.1 % 2 ^ 37 == g && e.1 / 2 ^ 37 != o then (e.1, { e.2 with queue := [] }) else e } }
  let recalled := l.any fun x => x.2.2 == 3
  let s := s.setDir g { d with st := .e, owner := o, sharers := [], coarse := false, dieMask := 0
                               wait := if recalled then [o] else d.wait }
  let s := l.foldl (fun s x => if x.2.2 == 3 then s.sendCoh (.recall o g) else s.sendCoh (.nak (granDie g) x.2.1 g)) s
  s.sendCoh (.nak (reqNode o) req g)

/-- A forward reaches an owner: queued, at most four, while its own data has not arrived; a fifth is answered NAK. -/
def State.onFwd (s : State) (o req g kind : Nat) : State :=
  let c := s.copy o g
  if s.early o g then
    if c.queue.length < 4 || kind = 3 then s.setCopy o g { c with queue := c.queue ++ [(req, kind)] }
    else if kind = 1 || kind = 4 then s.undoOwn o req g
    else s.sendCoh (.nak (reqNode o) req g)
  else s.serveFwd o req g kind

/-- Inv: an S copy is dropped. -/
def State.onInv (s : State) (a g : Nat) : State :=
  let c := s.copy a g
  let s := if c.st == .s || c.want != 0 then
      s.setCopy a g { (if c.st == .s then c.dropped else c) with inved := c.want != 0 && !c.held } else s
  s.sendCoh (.invAck a g)

/-- The queued forwards of an agent served, in order. -/
def State.serveQueue (s : State) (a g : Nat) (l : List (Nat × Nat)) : State :=
  l.foldl (fun s (req, kind) => s.serveFwd a req g kind) s

/-- Data reaches a requester that waits for it: it takes the granted state, performs its access and serves its queued forwards. A grant of S
that an Inv has overtaken is used and not kept. -/
def State.onData (s : State) (a g grant : Nat) (b : Bytes) : State :=
  let c := s.copy a g
  if grant = 0 then (if (s.nc a g).kind = 4 then s.setNc a g { value := b } else s)
  else if c.want = 0 then s
  else
    -- FULL brings no data: what the store writes is not in the message
    let (d, s) := if b = [] then s.takeBytes 8 else (b, s)
    let x : Copy := if grant = 1 && c.inved then {} else { st := if grant = 1 then .s else if grant = 2 then .e else .m, data := d }
    (s.setCopy a g x).serveQueue a g c.queue

/-- WbAck: the write-back buffer is released. -/
def State.onWbAck (s : State) (a g : Nat) : State :=
  let c := s.copy a g
  if c.wb then s.setCopy a g { c with wb := false, data := if c.st == .i then [] else c.data } else s

/-- Done: a write or atomic of a non-caching agent has been performed. -/
def State.onDone (s : State) (a g : Nat) (prior : List Nat) : State :=
  (if (s.nc a g).kind < 5 then s else s.setNc a g { prior := prior }).closeWrite a

/-- The wait after the n-th NAK, ns. -/
def State.nakWait (s : State) (a n : Nat) : Nat := 40 * (1 + s.lfsr a % 2 ^ min n 5)

/-- The queued forwards of an agent that holds nothing: recalls are acknowledged, requesters are answered NAK. -/
def State.refuseQueue (s : State) (a g : Nat) (l : List (Nat × Nat)) : State :=
  l.foldl (fun s (req, kind) => s.sendCoh (if kind = 3 then .invAck a g else .nak (reqNode a) req g)) s

/-- NAK: the retry wait of R277. An agent that still holds the granule serves the forwards it queued, as its request was not granted. -/
def State.onNak (s : State) (a g : Nat) : State :=
  let c := s.copy a g
  let r := s.nc a g
  if r.kind ≠ 0 then s.setNc a g { r with naks := r.naks + 1, held := true, retryAt := s.eng + s.nakWait a (r.naks + 1) }
  else if c.want = 0 then s
  else
    let s := s.setCopy a g { c with naks := c.naks + 1, held := true, retryAt := s.eng + s.nakWait a (c.naks + 1), inved := false, queue := [] }
    if c.st == .i then s.refuseQueue a g c.queue else s.serveQueue a g c.queue

/-! ## Delivery -/

/-- What a message does where it arrives. -/
def State.deliver (s : State) : CMsg → State
  | .request a g k full => s.onRequest a g k full
  | .writeBack a g => s.onGiveUp a g true
  | .evictClean a g => s.onGiveUp a g false
  | .fwd k o req g => s.onFwd o req g k
  | .inv a g => s.onInv a g
  | .recall a g => s.onFwd a a g 3
  | .data _ a g grant b => s.onData a g grant b
  | .invAck a g => s.onInvAck a g
  | .wbAck a g _ => s.onWbAck a g
  | .done a g ps => s.onDone a g ps
  | .nak _ a g => s.onNak a g

/-- Messages delivered in the order they were sent, those they cause among them, until none is left. -/
def State.quiesce (s : State) : Nat → State
  | 0 => s
  | n + 1 =>
    match s.caches.net with
    | [] => s
    | x :: t => ((s.setNet t).deliver x.2).quiesce n

/-- No message for the granule is in flight and its home collects nothing. -/
def State.settled (s : State) (g : Nat) : Bool := !(s.caches.net.any fun x => x.2.gran == g) && !(s.dirOf g).busy

/-- The state in which an access of the granule is made (notes/assumptions/50): what is in flight for it has arrived. The access of a BUSY
granule has met one NAK (R277). -/
def State.settle (s : State) (g : Nat) : State :=
  if s.settled g then s else (if (s.dirOf g).busy then s.evDie (granDie g) 0x0D 0 1 else s).quiesce 4096

/-! ## Accesses made at once -/

/-- A granule's current value (NoAllocRead, R279): the owner's copy when the directory names one, memory otherwise. -/
def State.readGran (s : State) (g : Nat) : Option Bytes × State := (s.settle g).valueAt g

/-- A write of a non-caching agent (WriteInv, R279, R251). -/
def State.writeGran (s : State) (g mask : Nat) (data : Bytes) : Bool × State := (s.settle g).homeWrite g mask data

/-- An atomic of a unit, or of an agent that is not cached (Atomic, R281). -/
def State.atomGran (s : State) (g : Nat) (lanes : List AtomLane) : Option (List Nat) × State := (s.settle g).homeAtom g lanes

/-- Room made for an entry of granule g, evicting entries to their end (R274). -/
def State.makeRoom (s : State) (g : Nat) : Nat → State
  | 0 => s
  | n + 1 =>
    match s.dirWay g with
    | some i => s.setWays (dirSetKey g) ((s.ways (dirSetKey g)).set i (g + 1))
    | none => (((s.evictDir g { kind := 3, req := 0 }).getD s).quiesce 4096).makeRoom g n

/-- A granule obtained for reading by a caching agent, its sector or codeword counted when `count`: its bytes, none when uncorrectable. -/
def State.obtainShared (s : State) (a g : Nat) (count : Bool) : Option Bytes × State :=
  let s := s.settle g
  let c := s.copy a g
  if c.st != .i then (some c.data, s)
  else
    let s := s.makeRoom g 16
    let d := s.dirOf g
    match s.ownerOf g with
    | some o =>
      let x := s.copy o g
      let s := if x.st == .i then s else s.setCopy o g { x with st := .o }
      (some x.data, (s.setDir g { d.addSharer a with st := .o }).setCopy a g { st := .s, data := x.data })
    | none =>
      match (if count then s.countHome a g else s).readWord g with
      | (none, s) => (none, s)
      | (some b, s) =>
        if d.st == .s then (some b, (s.setDir g (d.addSharer a)).setCopy a g { st := .s, data := b })
        else (some b, (s.setDir g { st := .e, owner := a }).setCopy a g { st := .e, data := b })

/-- A granule granted in E without being asked for, when its home shows no copy and no transaction and has room for its entry (R269); the bytes
of one that is not granted, or is uncorrectable (R271), are read and discarded. -/
def State.grantClean (s : State) (a g : Nat) : State :=
  match s.readWord g with
  | (none, s) => s
  | (some b, s) =>
    match s.dirWay g with
    | some i =>
      if (s.dirOf g).free then
        ((s.setWays (dirSetKey g) ((s.ways (dirSetKey g)).set i (g + 1))).setDir g { st := .e, owner := a }).setCopy a g { st := .e, data := b }
      else s
    | none => s

def State.acquireShared (s : State) (a g : Nat) : Option Bytes × State := s.obtainShared a g true

/-- A granule obtained in M: every other copy given up. `full`: all 64 bytes will be written, so memory is not read. -/
def State.acquireOwn (s : State) (a g : Nat) (full : Bool) : Option Bytes × State :=
  let s := s.settle g
  let c := s.copy a g
  let take := fun (s : State) (b : Bytes) => (some b, ((s.dropCopies g).setDir g { st := .e, owner := a }).setCopy a g { st := .m, data := b })
  if c.st == .m then (some c.data, s)
  else if c.st == .e then (some c.data, s.setCopy a g { c with st := .m })
  else if c.st != .i then take s c.data
  else
    let s := s.makeRoom g 16
    if full then take s (zeroBytes 64)
    else
      let s := if (s.ownerOf g).isSome then s else s.countHome a g
      match s.valueAt g with
      | (none, s) => (none, s)
      | (some b, s) => take s b

/-- An agent gives up a granule (R264, R275): M and O go by WriteBack, E by EvictClean, from the write-back buffer; S is dropped silently. -/
def State.giveUp (s : State) (a g : Nat) : State :=
  let c := s.copy a g
  match c.st with
  | .i => s
  | .s => s.setCopy a g c.dropped
  | .e => (s.setCopy a g { c with st := .i, wb := true }).sendCoh (.evictClean a g)
  | _ => (s.setCopy a g { c with st := .i, wb := true }).sendCoh (.writeBack a g)

/-- The granules that agents of `p` hold, in any state but I. -/
def State.heldBy (s : State) (p : Nat → Bool) : List (Nat × Nat) :=
  (s.caches.copies.filter fun (e : Nat × Copy) => p (e.1 / 2 ^ 37) && e.2.st != .i).map fun (e : Nat × Copy) => (e.1 / 2 ^ 37, e.1 % 2 ^ 37)

/-- Every copy of the agents of `p` given up, and everything in flight delivered: memory is current for them. -/
def State.giveUpAll (s : State) (p : Nat → Bool) : State :=
  let s := s.quiesce 4096
  ((s.heldBy p).foldl (fun s x => s.giveUp x.1 x.2) s).quiesce (16 * (s.caches.copies.length + 1))

end Sys2Proof.Machine
end

