-- ==== Sys2Proof/Machine/Access.lean ====
section
/-!
DEFINITION. Byte ranges of physical memory (R25, R238, R242, R244), read, written and changed by atomics as a non-caching agent, and host
memory behind a PCIe port (R317).
-/

namespace Sys2Proof.Machine

open Sys2Proof

/-! ## Byte ranges in the physical space -/

/-- Why an access of physical memory was not performed. -/
inductive MErr where
  /-- a hole, or outside the requester's partition (R25, R238) -/
  | outside
  /-- uncorrectable data (R250), or a partial write into it (R251) -/
  | uncorr
  /-- a failed stack, or one stopped under R254 -/
  | failed
  /-- a write into a cellar region (R195) or into a boot image closed to writes (R451) -/
  | closed
deriving DecidableEq, Repr

/-- The 64-byte pieces of a range: offset in the request, address, length. -/
def pieces (pa len : Nat) : List (Nat × Nat × Nat) :=
  if len = 0 then [] else
    (List.range ((pa + len - 1) / 64 - pa / 64 + 1)).map fun i =>
      let lo := max pa ((pa / 64 + i) * 64)
      let hi := min (pa + len) ((pa / 64 + i + 1) * 64)
      (lo - pa, lo, hi - lo)

/-- Where a piece lies, for a requester confined to partition `part` (`none`: the host, R313). -/
def State.locate (s : State) (part : Option Nat) (pa : Nat) : Except MErr (Nat × Nat) :=
  match s.decodePA pa with
  | none => .error .outside
  | some (k, a) =>
    match part with
    | some p => if s.dieOwner (k / 2) ≠ some p then .error .outside
                else if (s.stack k).failed || s.fb .MEM_STATUS_STOPPED k then .error .failed else .ok (k, a)
    | none => if (s.stack k).failed || s.fb .MEM_STATUS_STOPPED k then .error .failed else .ok (k, a)

/-- A piece at `a` of a request that begins at `pa` is the first of its sector. -/
def firstOfSector (pa a : Nat) : Bool := decide (a % 256 < 64) || a == pa

/-- A sector slot, or codeword, of a read at `a` of the request [pa, pa + len): on the bulk path the rest of its sector is read too. -/
def State.slotRead (s : State) (k off : Nat) (path : Path) (pa len a : Nat) : State :=
  match path with
  | .narrow => s.countPath k .narrow 1
  | .bulk =>
    if firstOfSector pa a then
      (s.countPath k .bulk 1).readRest k off fun o => decide (pa < a / 256 * 256 + o + 64) && decide (a / 256 * 256 + o < pa + len)
    else s

/-- Slots of a write at `a` of the request that begins at `pa`; a codeword written in part is read first, on the bulk path with its
sector (R242, R243). -/
def State.slotWrite (s : State) (k off : Nat) (path : Path) (whole : Bool) (pa a : Nat) : State :=
  match path with
  | .narrow => s.countPath k .narrow (if whole then 1 else 2)
  | .bulk =>
    let s := s.countPath k .bulk (b2n (firstOfSector pa a) + b2n !whole)
    if whole then s else s.readRest k off fun o => o == off % 256 / 64 * 64

/-- Reads a range of physical memory as a non-caching agent: the bytes before the first piece that fails, and its error and address. -/
def State.readSome (s : State) (part : Option Nat) (path : Path) (pa len : Nat) : Bytes × Option (MErr × Nat) × State :=
  (pieces pa len).foldl (fun (b, err, s) (_, a, n) =>
    match err with
    | some e => (b, some e, s)
    | none =>
      match s.locate part a with
      | .error e => (b, some (e, a), s)
      | .ok (k, off) =>
        let s := s.touchStack k
        let s := s.slotRead k off path pa len a
        match s.readGran (granKey k off) with
        | (none, s) => (b, some (.uncorr, a), s)
        | (some d, s) => (b ++ sliceB d (off % 64) n, none, s)) (([], none, s) : Bytes × Option (MErr × Nat) × State)

/-- The whole range, or the error that names the address of the failing piece. -/
def State.readPhys (s : State) (part : Option Nat) (path : Path) (pa len : Nat) : Except (MErr × Nat) Bytes × State :=
  match s.readSome part path pa len with
  | (b, none, s) => (.ok b, s)
  | (_, some e, s) => (.error e, s)

/-- Writes the bytes of a range of physical memory whose mask bit is set, as a non-caching agent, in ascending address; `own` is set for the
cellar and for the node cores of a boot image's partition, to which R195 and R451 do not apply. -/
def State.writeMasked (s : State) (part : Option Nat) (path : Path) (own : Bool) (pa : Nat) (data : Bytes) (mask : Nat) :
    Option (MErr × Nat) × State :=
  (pieces pa data.length).foldl (fun (acc, s) (o, a, n) =>
    match acc with
    | some e => (some e, s)
    | none =>
      match s.locate part a with
      | .error e => (some (e, a), s)
      | .ok (k, off) =>
        if !own && (s.inCellar k off || s.inBootImage a) then (some (.closed, a), s)
        else
          let m := bitsOf mask o n * 2 ^ (off % 64)
          if m = 0 then (none, s)
          else
            let whole := decide (m = fullMask)
            let s := s.touchStack k
            let s := s.slotWrite k off path whole pa a
            let d := zeroBytes (off % 64) ++ sliceB data o n
            match s.writeGran (granKey k off) m d with
            | (true, s) => (none, s)
            | (false, s) => (some (.uncorr, a), s)) (none, s)

/-- Writes a range of physical memory whole. -/
def State.writePhys (s : State) (part : Option Nat) (path : Path) (own : Bool) (pa : Nat) (data : Bytes) :
    Option (MErr × Nat) × State :=
  s.writeMasked part path own pa data (2 ^ data.length - 1)

/-- Atomics on words of one granule of physical memory for partition `part`, sent to its home as one Atomic (R281): the prior values. -/
def State.atomLanesPhys (s : State) (part : Option Nat) (pa : Nat) (lanes : List AtomLane) : Except (MErr × Nat) (List Nat) × State :=
  match s.locate part pa with
  | .error e => (.error (e, pa), s)
  | .ok (k, off) =>
    if s.inCellar k off || s.inBootImage pa then (.error (.closed, pa), s)
    else
      let s := s.touchStack k
      match s.atomGran (granKey k off) lanes with
      | (some ps, s) => (.ok ps, s)
      | (none, s) => (.error (.uncorr, pa), s)

/-- The lane of an Atomic that acts on the word at a physical address. -/
def atomLane (pa width : Nat) (op : AtomOp) (b c : Nat) : AtomLane := ⟨op, pa % 64, width, BitVec.ofNat 64 b, BitVec.ofNat 64 c⟩

/-- One atomic on a word of physical memory for partition `part`. -/
def State.atomPhys (s : State) (part : Option Nat) (pa width : Nat) (op : AtomOp) (b c : Nat) : Except (MErr × Nat) Nat × State :=
  match s.atomLanesPhys part pa [atomLane pa width op b c] with
  | (.ok ps, s) => (.ok (ps.headD 0), s)
  | (.error e, s) => (.error e, s)

/-! ## Host memory through a PCIe port -/

/-- The module may master on the port: hub working, link up, Bus Master Enable set, not stopped (R317), the function in D0. -/
def State.portOk (s : State) (k : Nat) : Bool :=
  s.hubWorks k && s.fb .PCI_LINK_UP k && s.fb .PCI_LINK_BME k && !s.fb .PCI_LINK_STOPPED k && !(s.port k).d3hot

/-- Key of a byte of host memory behind a port. -/
def hostKey (port addr : Nat) : Nat := port * 2 ^ 64 + addr

/-- Host memory as the module last knew it. -/
def State.readHost (s : State) (port addr len : Nat) : Option Bytes × State :=
  if s.portOk port then
    (some ((List.range len).map fun i => FMap.fget s.hostMem (hostKey port ((addr + i) % 2 ^ 64)) 0), s.evHub port 0x22 0 0 len)
  else (none, s)

def State.writeHost (s : State) (port addr : Nat) (data : Bytes) : Bool × State :=
  if s.portOk port then
    let m := (List.range data.length).foldl (fun m i =>
      FMap.fput m (hostKey port ((addr + i) % 2 ^ 64)) (data.getD i 0) 0) s.hostMem
    (true, ({ s with hostMem := m }).evHub port 0x22 0 0 data.length)
  else (false, s)

end Sys2Proof.Machine
end

