-- ==== Sys2Proof/Machine/CellarRec.lean ====
section
/-!
DEFINITION. Cask records and the free lists (R194, R196), pins (R212), and what becomes of the casks that a cellar command or a TAP holds when
it ends early (R208, R209, R213).
-/

namespace Sys2Proof.Machine

open Sys2Proof

def noCask : Nat := 0xFFFFFFFF

/-- Bytes of `b` with `d` written at offset `off`. -/
def putAt (b : Bytes) (off : Nat) (d : Bytes) : Bytes :=
  (List.range b.length).map fun i => if off ≤ i && i < off + d.length then d.getD (i - off) 0 else b.getD i 0

/-- Stack offset of the record of cask i, and of the cask. -/
def State.recOff (s : State) (k i : Nat) : Nat := (s.cel k).base + 64 * i
def State.caskOff (s : State) (k i : Nat) : Nat := (s.cel k).base + 65536 * i

/-- The record of cask i of stack k. -/
def State.crec (s : State) (k i : Nat) : Bytes := s.memBytes (k * 2 ^ 37 + s.recOff k i) 64

/-- A record written whole, over the narrow path (R244). -/
def State.setCrec (s : State) (k i : Nat) (b : Bytes) : State :=
  ((s.countPath k .narrow 1).writeGran (granKey k (s.recOff k i)) fullMask b).2

/-- Fields of a record (Table 7-3). -/
def crState (b : Bytes) : Nat := fldB b 0 1 % 4
def crHold (b : Bytes) : Bool := bitOf (fldB b 0 1) 2
def crWriter (b : Bytes) : Bool := bitOf (fldB b 0 1) 3
def crDamaged (b : Bytes) : Bool := bitOf (fldB b 0 1) 4
def crGen (b : Bytes) : Nat := fldB b 3 1 % 64
def crFill (b : Bytes) : Nat := fldB b 4 2
def crPins (b : Bytes) : Nat := fldB b 6 2
def crNext (b : Bytes) : Nat := fldB b 24 4

/-- Byte 0 of a record with STATE, HOLD and WRITER given, DAMAGED kept. -/
def crFlags (b : Bytes) (st : Nat) (hold writer : Bool) : Bytes :=
  putAt b 0 [BitVec.ofNat 8 (st + 4 * b2n hold + 8 * b2n writer + 16 * b2n (crDamaged b))]

/-- The region is ready: casks may be allocated and resolved. -/
def State.celReady (s : State) (k : Nat) : Bool := s.fb .CLR_STATUS_READY k && decide (0 < (s.cel k).casks)

/-- Casks on the free list of a stack that is READY: those that a CASK_ALLOC has reserved have left it (R202, R203). -/
def State.celListed (s : State) (k : Nat) : Nat := if s.celReady k && !(s.stack k).failed then s.f .CLR_STATUS_FREE k else 0

/-- Pops the top of a stack's free list. -/
def State.celPop (s : State) (k : Nat) : Option Nat × State :=
  if s.celListed k = 0 then (none, s)
  else
    let i := (s.cel k).top
    let s := s.setCel k { s.cel k with top := crNext (s.crec k i) }
    (some i, s.decF .CLR_STATUS_FREE k)

/-- Puts a cask on the free list, its record otherwise as given. -/
def State.celPush (s : State) (k i : Nat) (b : Bytes) : State :=
  let s := s.setCrec k i (putAt b 24 (leBytes 4 (s.cel k).top))
  let s := s.setCel k { s.cel k with top := i }
  if (s.cel k).dropping then s else s.incF .CLR_STATUS_FREE k

/-- A popped cask returns to the list without any change to its record; a range retired meanwhile keeps it off (R214), and one whose region was
dropped is gone. -/
def State.celUnpop (s : State) (k i : Nat) : State :=
  let b := s.crec k i
  if !s.celReady k then s
  else if crDamaged b then s.setCrec k i (crFlags b 2 false false) else s.celPush k i b

/-- A cask of each stack popped in turn; the last popped comes first. -/
def State.celPopAll (s : State) : List Nat → List (Nat × Nat) → List (Nat × Nat) × State
  | [], acc => (acc, s)
  | k :: t, acc =>
    match s.celPop k with
    | (some i, s) => s.celPopAll t ((k, i) :: acc)
    | (none, s) => s.celPopAll t acc

/-- A cask is freed (R196), or RETIRED when it is DAMAGED. `counted`: it was counted ALLOCATED. -/
def State.celFree (s : State) (k i : Nat) (counted : Bool) : State :=
  let b := s.crec k i
  let s := if counted then s.decF .CLR_USE_ALLOCATED k else s
  if crDamaged b then s.setCrec k i (crFlags b 2 false false)
  else
    let b := putAt (putAt (crFlags b 0 false false) 3 [BitVec.ofNat 8 ((crGen b + 1) % 64)]) 4 (leBytes 2 0)
    (s.celPush k i b).incF .CLR_EVENTS_FREES k

/-- HOLD and WRITER cleared on a cask. -/
def State.celClear (s : State) (k i : Nat) : State :=
  let b := s.crec k i
  s.setCrec k i (crFlags b (crState b) false false)

/-! ## Commands in progress -/

def State.cop? (s : State) (r pos : Nat) : Option COp := s.cops.find? fun c => c.ring == r && c.pos == pos
def State.dropCop (s : State) (r pos : Nat) : State := { s with cops := s.cops.filter fun c => !(c.ring == r && c.pos == pos) }
def State.setCop (s : State) (c : COp) : State := { s with cops := (s.dropCop c.ring c.pos).cops ++ [c] }

/-- The opcode of a command in the tally. -/
def State.opOf (s : State) (r pos : Nat) : Nat := ((s.entry? r pos).map (·.op)).getD 0

/-- The cask that CASK_FREE holds, its entry zeroed, is freed now, or once its last pin is released. -/
def State.celFreeLater (s : State) (k i : Nat) : State :=
  if crPins (s.crec k i) = 0 then s.celFree k i true else s.setCel k { s.cel k with toFree := i :: (s.cel k).toFree }

/-- A cellar command is broken off: HOLD and WRITER are cleared on the cask it holds; a CASK_FREE frees the cask of an entry it has
written to zero; the destination of a move whose entry still names the source is freed; casks reserved return to their lists (R204). -/
def State.breakCop (s : State) (r pos : Nat) : State :=
  match s.cop? r pos with
  | none => s
  | some c =>
    let s :=
      if c.phase == .take then s
      else if s.opOf r pos == 0x1A then s.celFreeLater c.stack c.cask
      else s.celClear c.stack c.cask
    let s := match c.popped with
      | some (k, i) => s.celFree k i false
      | none => s
    (c.reserved.reverse.foldl (fun s (x : Nat × Nat) => s.celUnpop x.1 x.2) s).dropCop r pos

/-! ## Pins (R212) -/

/-- PINS of a cask raised. -/
def State.pin (s : State) (k i : Nat) : State :=
  let b := s.crec k i
  s.setCrec k i (putAt b 6 (leBytes 2 (crPins b + 1)))

/-- PINS of a cask lowered; at zero a cask that waits to be freed is freed (R209). -/
def State.unpin (s : State) (k i : Nat) : State :=
  let b := s.crec k i
  let s := s.setCrec k i (putAt b 6 (leBytes 2 (crPins b - 1)))
  if crPins b ≤ 1 && (s.cel k).toFree.contains i then
    (s.setCel k { s.cel k with toFree := (s.cel k).toFree.erase i }).celFree k i true
  else s

/-- Every pin of a TAP released. -/
def State.dropPins (s : State) (r pos : Nat) : State :=
  let mine := (s.taps.filter fun t => t.ring == r && t.pos == pos).flatMap fun t => t.pins.filter fun p => p.left != 0
  let s := mine.foldl (fun s p => s.unpin p.stack p.cask) s
  { s with taps := s.taps.map fun t => if t.ring == r && t.pos == pos then { t with pins := [] } else t }

/-- Some command or TAP holds HOLD, WRITER or a pin on a cask of the stack (R218). -/
def State.celHeld (s : State) (k : Nat) : Bool :=
  (s.cops.any fun c => c.phase != .take && c.stack == k) || !(s.cel k).toFree.isEmpty || (s.taps.any fun t => t.pins.any fun p => p.stack == k && p.left != 0)

/-! ## Retirement (R214) -/

/-- A CASK_MOVE or CASK_ALLOC has popped the cask and not yet written its record. -/
def State.celPopped (s : State) (k i : Nat) : Bool := s.cops.any fun c => c.popped == some (k, i) || c.reserved.contains (k, i)

/-- Every data cask of the stack overlaps a retired range: free casks become RETIRED and leave the list, allocated casks, and those popped
for a move, gain DAMAGED. -/
def State.celRetire (s : State) (k : Nat) : State :=
  if !s.celReady k then s
  else
    let n := (s.cel k).casks
    let first := s.f .CLR_FIRST_FIRST k
    let s := (List.range (n - first)).foldl (fun s j =>
      let i := first + j
      let b := s.crec k i
      if crState b = 0 && !s.celPopped k i then s.setCrec k i (putAt b 0 [2])
      else if crState b ≠ 2 then s.setCrec k i (putAt b 0 [BitVec.ofNat 8 (fldB b 0 1 ||| 16)])
      else s) s
    ((s.setCel k { s.cel k with top := noCask }).setF .CLR_STATUS_FREE k 0).setF .CLR_USE_RETIRED k (n - first)

end Sys2Proof.Machine
end

