-- ==== Sys2Proof/Machine/Faults.lean ====
section
/-!
DEFINITION. Locations of any kind, and fault records and fault queues (R305 to R307): writing and coalescing records, the pending buffer, and
ending a command with a fault record, stalled while the queue has no room.
-/

namespace Sys2Proof.Machine

open Sys2Proof

/-! ## Reading and writing a location -/

/-- Why an access of a location was not performed. -/
inductive AErr where
  | mem (e : MErr) (pa : Nat)
  /-- the PCIe port is lost or stopped -/
  | host (port : Nat)
  /-- the location lies in another module: the access goes out as window requests -/
  | remote
deriving DecidableEq, Repr

def State.readLoc (s : State) (l : Loc) (path : Path) (len : Nat) : Except AErr Bytes × State :=
  match l with
  | .phys p pa =>
    match s.readPhys (some p) path pa len with
    | (.ok b, s) => (.ok b, s)
    | (.error (e, a), s) => (.error (.mem e a), s)
  | .host k a =>
    match s.readHost k a len with
    | (some b, s) => (.ok b, s)
    | (none, s) => (.error (.host k), s)
  | .remote .. => (.error .remote, s)

def State.writeLoc (s : State) (l : Loc) (path : Path) (data : Bytes) : Option AErr × State :=
  match l with
  | .phys p pa =>
    match s.writePhys (some p) path false pa data with
    | (none, s) => (none, s)
    | (some (e, a), s) => (some (.mem e a), s)
  | .host k a =>
    match s.writeHost k a data with
    | (true, s) => (none, s)
    | (false, s) => (some (.host k), s)
  | .remote .. => (some .remote, s)

/-- A location moved on by `n` bytes. -/
def Loc.add : Loc → Nat → Loc
  | .phys p pa, n => .phys p (pa + n)
  | .host k a, n => .host k (a + n)
  | .remote nd w o f, n => .remote nd w (o + n) f

/-! ## Fault queues -/

/-- The words of a queue: status word address, with the consumer word 8 bytes on (R305). -/
def State.fqLoc (s : State) (q addr : Nat) : Loc :=
  match s.f .XL_FQ_CTRL_LOC q with
  | 0 => .phys q addr
  | k + 1 => .host k addr

def State.fqWords (s : State) (q : Nat) : Nat := s.f .XL_FQ_WORDS_ADDR q * 16
def State.fqBase (s : State) (q : Nat) : Nat := s.f .XL_FQ_BASE_ADDR q * 64
def State.fqSize (s : State) (q : Nat) : Nat := 2 ^ s.f .XL_FQ_CTRL_SIZE_LOG2 q

/-- D of R305. -/
def fqD (prod cons : Nat) : Nat := (prod + 2 ^ 32 - cons % 2 ^ 32) % 2 ^ 32

/-- Writes the status word: PROD and FULL (R305). -/
def State.fqStatus (s : State) (q : Nat) : Bool × State :=
  let w := s.f .XL_FQ_STATUS_PROD q + s.f .XL_FQ_STATUS_FULL q * 2 ^ 32
  match s.writeLoc (s.fqLoc q (s.fqWords q)) .narrow (leBytes 8 w) with
  | (none, s) => (true, s)
  | (some _, s) => (false, s.setF .XL_FQ_STATUS_ACCESS_ERR q 1)

/-- FULL set or cleared; the status word is written when it changes. -/
def State.fqSetFull (s : State) (q v : Nat) : State :=
  if s.f .XL_FQ_STATUS_FULL q = v then s else
    let s := s.setF .XL_FQ_STATUS_FULL q v
    if s.fb .XL_FQ_CTRL_ENABLE q then (s.fqStatus q).2 else s

/-- Reads the consumer word and judges it (R305, R307): whether the words could be accessed. -/
def State.fqReadCons (s : State) (q : Nat) : Bool × State :=
  match s.readLoc (s.fqLoc q (s.fqWords q + 8)) .narrow 8 with
  | (.ok b, s) =>
    let c := leNat b % 2 ^ 32
    if s.fqSize q < fqD (s.f .XL_FQ_STATUS_PROD q) c then (true, s.setF .XL_FQ_STATUS_CONS_ERR q 1)
    else (true, s.setFq q { s.fq q with cons := c })
  | (.error _, s) => (false, s.setF .XL_FQ_STATUS_ACCESS_ERR q 1)

/-- The consumer word is read, and FULL follows from it (R307): whether the queue has room, `none` while it is not enabled or its words
cannot be accessed, when it has none either. -/
def State.fqRoom (s : State) (q : Nat) : Option Bool × State :=
  if !s.fb .XL_FQ_CTRL_ENABLE q then (none, s.fqSetFull q 1) else
    match s.fqReadCons q with
    | (false, s) => (none, s.fqSetFull q 1)
    | (true, s) =>
      let room := decide (fqD (s.f .XL_FQ_STATUS_PROD q) (s.fq q).cons < s.fqSize q)
      (some room, s.fqSetFull q (b2n !room))

/-- The 64 bytes of record `i` (Table 11-11). -/
def FRec.bytes (x : FRec) (i : Nat) : Bytes :=
  leBytes 8 x.addr ++ leBytes 8 x.mask ++ leBytes 8 (x.pos.getD (2 ^ 64 - 1)) ++ leBytes 8 x.info ++ leBytes 8 x.time ++
    leBytes 2 (x.ring.getD 0xFFFF) ++ leBytes 2 x.cause ++ leBytes 2 x.count ++ leBytes 2 x.asid ++
    leBytes 4 (x.agentKind * 2 ^ 28 + x.agentIx) ++ leBytes 4 x.info2 ++
    leBytes 8 (x.kind + x.access * 16 + b2n x.merged * 256 + (i + 1) % 2 ^ 32 * 2 ^ 32)

/-- Writes record `i`: bytes 0 to 55 before the completion word. -/
def State.fqPut (s : State) (q i : Nat) (x : FRec) : Bool × State :=
  let a := s.fqBase q + 64 * (i % s.fqSize q)
  let b := x.bytes i
  match s.writeLoc (s.fqLoc q a) .narrow (b.take 56) with
  | (some _, s) => (false, s.setF .XL_FQ_STATUS_ACCESS_ERR q 1)
  | (none, s) =>
    match s.writeLoc (s.fqLoc q (a + 56)) .narrow (b.drop 56) with
    | (some _, s) => (false, s.setF .XL_FQ_STATUS_ACCESS_ERR q 1)
    | (none, s) => (true, s)

/-- The hub whose counters see fault records of a queue. -/
def State.fqHub (s : State) (q : Nat) : Nat :=
  if q < 16 then s.f .ID_PART_HUB_ACTING q else s.rst.modActing.headD 0

/-- A record counted in one of the 64 newest unconsumed records of its cause and address (R306), the consumer word just read; `none` when
there is no such record, else whether its update was written. -/
def State.fqJoin (s : State) (q : Nat) (x : FRec) : Option Bool × State :=
  let d := fqD (s.f .XL_FQ_STATUS_PROD q) (s.fq q).cons
  match (s.fq q).recent.find? fun (e : Nat × FRec) => decide (fqD (s.f .XL_FQ_STATUS_PROD q) e.1 ≤ d) && e.2.cause == x.cause &&
      e.2.kind == x.kind && e.2.addr == x.addr with
  | none => (none, s)
  | some (i, y) =>
    let y := { y with count := min (y.count + x.count) 65535, merged := y.merged || x.merged }
    match s.fqPut q i y with
    | (true, s) =>
      (some true, s.setFq q { s.fq q with recent := (s.fq q).recent.map fun (e : Nat × FRec) => if e.1 == i then (i, y) else e })
    | (false, s) => (some false, s)

/-- A new record in a queue that has room. -/
def State.fqNew (s : State) (q : Nat) (x : FRec) : Bool × State :=
  let prod := s.f .XL_FQ_STATUS_PROD q
  match s.fqPut q prod x with
  | (false, s) => (false, s.fqSetFull q 1)
  | (true, s) =>
    let s := s.setFq q { s.fq q with recent := ((prod, x) :: (s.fq q).recent).take 64 }
    let s := s.incF .XL_FQ_STATUS_PROD q
    let s := s.setF .XL_FQ_STATUS_FULL q (b2n (decide (s.fqSize q ≤ fqD (s.f .XL_FQ_STATUS_PROD q) (s.fq q).cons)))
    let s := (s.fqStatus q).2
    (true, s.evHub (s.fqHub q) 0x28 0 q 1)

/-- Tries to write a record: coalesced (R306), or, when `fresh`, as a new record while there is room (R307). -/
def State.fqTry (s : State) (q : Nat) (x : FRec) (fresh : Bool) : Bool × State :=
  match s.fqRoom q with
  | (none, s) => (false, s)
  | (some room, s) =>
    match s.fqJoin q x with
    | (some done, s) => (done, s)
    | (none, s) => if room && fresh then s.fqNew q x else (false, s)

def State.fqWrite (s : State) (q : Nat) (x : FRec) : Bool × State := s.fqTry q x true

/-- Merges a record into a full pending buffer (R307): newest pending of the same cause, else the newest pending; the list is oldest
first. -/
def mergePend (l : List FRec) (x : FRec) : List FRec :=
  let hit := (l.zipIdx.filter fun e => e.1.cause == x.cause).getLast?
  match hit with
  | some (y, i) => l.set i { y with count := min (y.count + x.count) 65535, addr := min y.addr x.addr }
  | none =>
    match l.getLast? with
    | some y => l.set (l.length - 1) { y with count := min (y.count + x.count) 65535, merged := true }
    | none => [x]

/-- A fault with no stalled requester: written, or held in the queue's pending buffer. -/
def State.postEvent (s : State) (q : Nat) (x : FRec) : State :=
  match s.fqTry q x ((s.fq q).pend = []) with
  | (true, s) => s
  | (false, s) =>
    let l := (s.fq q).pend
    s.setPend q (if l.length < 64 then l ++ [x] else mergePend l x)

/-- A channel with a third carried lane retires its range (R259). -/
def State.retireChannel (s : State) (k c : Nat) : State :=
  let s := (s.setF .MEM_CHAN_RETIRED (32 * k + c) 1).setF .MEM_RETIRED_CHANNELS k (setBit (s.f .MEM_RETIRED_CHANNELS k) c)
  let s := s.postEvent ((s.dieOwner (k / 2)).getD 16) { time := s.now, cause := 0x11, agentKind := 8, agentIx := k, info := k + c * 256 }
  s.celRetire k

/-- The channels of stack k that have come to a third carried lane are retired. -/
def State.retireOf (s : State) (k : Nat) : State :=
  let l := (s.stack k).retiring
  l.foldl (fun s c => s.retireChannel k c) (s.setStack k { s.stack k with retiring := [] })

/-- Every stack with such a channel. -/
def State.settleRetire (s : State) : State :=
  ((s.stk.filter fun (e : Nat × Stack) => !e.2.retiring.isEmpty).map fun (e : Nat × Stack) => e.1).foldl (fun s k => s.retireOf k) s

/-- The outcome of a row that reads stacks: a channel in which a read left a third lane carried is retired with it (R259). -/
def runR (i : Instr) (s t : State) : Out := run i s t.settleRetire

/-- The fault-wait limit of a queue, µs (R307). -/
def State.waitUs (s : State) (q : Nat) : Nat :=
  if s.f .XL_FQ_CTRL_WAIT_US q = 0 then 10000 else s.f .XL_FQ_CTRL_WAIT_US q

/-! ## Ending a command with a fault record -/

/-- The record of a fault of command (r, pos). -/
def State.cmdRec (s : State) (r pos cause kind addr access : Nat) (agentKind agentIx : Nat) : FRec :=
  { addr := addr, pos := some pos, time := s.now, ring := some r, cause := cause,
    asid := if s.ringModule r then 0 else s.ringAsid r,
    agentKind := agentKind, agentIx := agentIx, kind := kind, access := access }

/-- The agent of Table 11-11 that makes a command's accesses: the copy engine that runs it, the coordinator of a TAP, the cellar at which a
CASK_ command works, else its hub's command processor. -/
def State.cmdAgent (s : State) (r pos : Nat) : Nat × Nat :=
  match s.engines.find? fun (e : Nat × Engine) => e.2.run == some (r, pos) with
  | some (e, _) => if e < 32 then (3, e) else (2, e - 32)
  | none =>
    match s.entry? r pos with
    | none => (7, s.ringHub r)
    | some e =>
      if e.op = 0x1C then (4, s.coordinatorOf (s.ringPart r))
      else if 0x18 ≤ e.op && e.op ≤ 0x1B then (5, s.celAgent r)
      else (7, s.ringHub r)

/-- What a command has done so far, as its RESULT gives it when it ends early: bytes moved, entries, or rows. -/
def State.progress (s : State) (r pos : Nat) : Nat :=
  match s.movers.find? fun m => m.ring == r && m.pos == pos with
  | some m => m.off
  | none =>
    match s.cop? r pos with
    | some c => c.count
    | none => ((s.entry? r pos).map (·.prog)).getD 0

/-- The command ends with `res` and a fault record; while the queue has no room it stalls, and a further record of a command that has stalled or
ended is written when there is room (R307). -/
def State.failRec (s : State) (r pos : Nat) (res : Result) (x : FRec) : State :=
  let q := s.ringQueue r
  match s.fqWrite q x with
  | (true, s) => if (s.entry? r pos).any fun e => e.stall.isSome then s else s.finish r pos { res with faultRec := true }
  | (false, s) =>
    if (s.entry? r pos).any fun e => e.res.isSome || e.stall.isSome then s.keepRec q x
    else (s.modEntry r pos fun e => { e with stall := some ⟨q, x, res, s.eng⟩ }).incF .XL_FQ_STATUS_STALLS q

/-! ## Interruption by a part failure (R428) -/

/-- An instruction of the group has issued and is not complete. -/
def Group.busy (x : Group) : Bool := x.wait != .stopped && (x.begun || match x.wait with | .remote _ => true | _ => false)

/-- Groups leave their units; answers still to come for them find no one (group 65536). -/
def State.dropWhere (s : State) (on : Group → Bool) : State :=
  let mine := fun g => (s.group g).live && on (s.group g)
  { s with
    groups := s.groups.filter fun (g : Nat × Group) => !mine g.1
    caches := { s.caches with
      fills := openFills (s.caches.fills.map fun f => { f with waiters := f.waiters.filter fun g => !mine g }) }
    rreqs := s.rreqs.map fun (e : Nat × RReq) =>
      match e.2.wait with
      | .group g l d w c => if mine g then (e.1, { e.2 with wait := .group 65536 l d w c }) else e
      | .cmd .. | .chk _ | .flag .. | .table .. => e
    xl := { s.xl with svc := s.xl.svc.map fun (e : Nat × Svc) =>
      (e.1, { e.2 with open_ := e.2.open_.map fun (t : Nat × SvcReq) => (t.1, { t.2 with groups := t.2.groups.filter fun g => !mine g }) }) } }

/-- A kernel stops: its groups leave their units, but for those whose instruction has issued and is not complete (R145, R168). -/
def State.stopGroups (s : State) (k : Nat) : State :=
  s.dropWhere fun x => x.kernel == k && !x.busy

/-- A kernel with its teams, groups and faults on their way is gone. -/
def State.killKernel (s : State) (k : Nat) : State :=
  let s := s.dropWhere fun x => x.kernel == k
  { s with
    kernels := s.kernels.drop fun x => x == k
    teams := s.teams.drop fun x => x / 2 ^ 40 == k
    gfaults := s.gfaults.filter fun x => x.kernel != k }

/-- The kernels that a command launched. -/
def State.kernelsOf (s : State) (r pos : Nat) : List Nat :=
  (s.kernels.filter fun (k : Nat × Kernel) => k.2.live && k.2.ring == r && k.2.pos == pos).map (·.1)

/-- Copy engines that run the command are free; `n` finished commands are counted for a hub's. -/
def State.clearRun (s : State) (r pos n : Nat) : State :=
  (s.engines.filter fun (e : Nat × Engine) => e.2.run == some (r, pos)).foldl (fun s (e : Nat × Engine) =>
    let s := s.setEngine e.1 { s.engine e.1 with run := none }
    if e.1 < 32 then s.incF .PCI_CPY_COMMANDS e.1 n else s) s

/-- The command has ended: its engine is free, and has finished one more command. -/
def State.leaveEngines (s : State) (r pos : Nat) : State := s.clearRun r pos 1

/-- A command with a result leaves its engine; a stalled one keeps it (R307). -/
def State.settleEngine (s : State) (r pos : Nat) : State := if s.isOpen r pos then s else s.leaveEngines r pos

/-- The work of a command outside its tally entry stops: data movers, cellar and tap work, kernels, waits. Its window requests are still
answered, and the engine that runs it stays its own. -/
def State.dropParts (s : State) (r pos : Nat) : State :=
  let is := fun (a b : Nat) => a == r && b == pos
  let s := (s.breakCop r pos).dropPins r pos
  let s := (s.kernelsOf r pos).foldl (fun s k => s.killKernel k) s
  let s := { s with
    movers := s.movers.filter fun m => !is m.ring m.pos
    engines := s.engines.map fun (e : Nat × Engine) =>
      (e.1, { e.2 with queue := e.2.queue.filter fun c => !(c == (r, pos)) })
    cops := s.cops.filter fun c => !is c.ring c.pos
    taps := s.taps.filter fun t => !is t.ring t.pos
    ctrOps := s.ctrOps.filter fun c => !is c.ring c.pos
    power := { s.power with limits := s.power.limits.filter fun l => !is l.ring l.pos }
    keeper := { s.keeper with
      waiting := s.keeper.waiting.filter fun c => !(c == (r, pos))
      reports := s.keeper.reports.filter fun x => !is x.1 x.2.1 } }
  { s with xl := { s.xl with acks := s.xl.acks.filter fun a => !is a.1 a.2.1 }
           tapEng := s.tapEng.map fun (e : Nat × TapEng) =>
             (e.1, { e.2 with run := e.2.run.filter fun p => !is p.1.ring p.1.pos
                              queue := e.2.queue.filter fun p => !is p.ring p.pos }) }

/-- The work of a command stops, and its engine is free. -/
def State.dropEngines (s : State) (r pos : Nat) : State := (s.leaveEngines r pos).dropParts r pos

/-- A request of the module is gone with the command that waits for it. -/
def RWait.ofCmd (w : RWait) (r pos : Nat) : Bool := w == .cmd r pos || w == .flag r pos

/-- Everything a command keeps outside its tally entry but its engine is dropped, its window requests too. -/
def State.dropAll (s : State) (r pos : Nat) : State :=
  let s := s.dropParts r pos
  { s with rreqs := s.rreqs.filter fun (e : Nat × RReq) => !e.2.wait.ofCmd r pos }.modEntry r pos fun e =>
    { e with remoteOpen := 0, fwd := [] }
def State.dropWork (s : State) (r pos : Nat) : State := (s.leaveEngines r pos).dropAll r pos

/-- A running command is interrupted: PART_FAILED, or re-executed once from the start when REPLAYABLE. -/
def State.interrupt (s : State) (r pos : Nat) : State :=
  match s.entry? r pos with
  | none => s
  | some e =>
    if e.st != .running || e.res.isSome then s else
      let got := if 0x18 ≤ e.op && e.op ≤ 0x1B then s.progress r pos else 0
      let again := e.replayable && !e.retried
      let s := (s.clearRun r pos (b2n !again)).dropAll r pos
      if again then
        ((s.keepStall r pos).modEntry r pos fun e =>
          { pos := e.pos, pkt := e.pkt, st := .accepted, retried := true, key := e.key }).incF .RST_COUNTS_REPLAYED 0
      else (s.finish r pos { status := stPARTFAILED, result := got }).incF .RST_COUNTS_PART_FAILED 0

/-- A command whose access of a location failed: the status and fault record of R25, R195, R250 and R317, with RESULT `result`. -/
def State.failAccess (s : State) (r pos : Nat) (err : AErr) (access agentKind agentIx : Nat) (result : Nat := 0) : State :=
  match err with
  | .mem .outside pa =>
    s.failRec r pos { status := stRIGHTS, result := result } (s.cmdRec r pos 0x09 2 pa access agentKind agentIx)
  | .mem .uncorr pa =>
    s.failRec r pos { status := stUNCORR, result := result } (s.cmdRec r pos 0x10 2 pa access agentKind agentIx)
  | .mem .closed pa =>
    s.failRec r pos { status := stRIGHTS, result := result } (s.cmdRec r pos 0x08 2 pa access agentKind agentIx)
  | .mem .failed _ => s.interrupt r pos
  | .host k => (s.endWith r pos stHOSTLOST (s.port k).lastEvent).incF .PCI_LOST_COMMANDS k
  | .remote => s.endWith r pos stREMOTELOST

end Sys2Proof.Machine
end

