-- ==== Sys2Proof/Machine/Trans.lean ====
section
/-!
DEFINITION. Translation (chapter 11): the address-space table and the page-table walk (R286 to R292), the translation caches (R293), service
requests (R295), import windows as the first lookup (R304), and held translations (R300).
-/

namespace Sys2Proof.Machine

open Sys2Proof

/-- What a translation answers. -/
inductive XOut where
  | ok (l : Loc)
  /-- the status and fault cause of the failure -/
  | fail (status cause : Nat)
  /-- uncorrectable walk data at a physical address -/
  | uncorr (pa : Nat)
  /-- a service request is open, with its tag at a die's queue; without a tag when all are in use -/
  | wait (die : Nat) (tag : Option Nat)
deriving DecidableEq, Repr

/-! ## Caches (Table 11-3) -/

def clusterCache (c : Nat) : Nat := c
def dieCache (n : Nat) : Nat := 512 + n
def hubCache (h : Nat) : Nat := 528 + h
/-- Engine caches: copy engines (hub 8h + e, die 32 + 2n + k), tap controllers, cellars, check units. -/
def copyCache (e : Nat) : Nat := 600 + e
def tapCache (k : Nat) : Nat := 664 + k
def celCache (k : Nat) : Nat := 696 + k
def chkCache (u : Nat) : Nat := 728 + u

/-- The die or hub cache behind a cluster or engine cache; a die or hub cache is its own. -/
def walkerOf (c : Nat) : Nat :=
  if c < 512 then dieCache (c / 32)
  else if c < 600 then c
  else if c < 632 then hubCache ((c - 600) / 8)
  else if c < 664 then dieCache ((c - 632) / 2)
  else if c < 696 then dieCache ((c - 664) / 2)
  else if c < 728 then dieCache ((c - 696) / 2)
  else hubCache ((c - 728) / 8)

def State.tlb (s : State) (c : Nat) : List TlbEnt := s.xl.tlb.fget c []

/-- The entry of a cache that maps the address. -/
def State.tlbHit (s : State) (c part asid va : Nat) : Option TlbEnt :=
  (s.tlb c).find? fun e => e.part == part && e.asid == asid && decide (e.va ≤ va) && decide (va < e.va + e.size)

/-- Ways of a set of a cache, and how many entries it holds (Table 11-3): engine caches are one set. -/
def tlbWays (c : Nat) : Nat := if c < 544 then 8 else 16
def tlbSize (c : Nat) : Nat := if c < 512 then 512 else if c < 544 then 16384 else 16

/-- The set of a translation. -/
def tlbSetOf (c : Nat) (x : TlbEnt) : Nat := if c < 544 then Config.tlbSet c x.asid (x.va / x.size) % (tlbSize c / 8) else 0

/-- Installs a translation in a cache. In a full set it takes the place of one that the spec does not name (notes/assumptions/53). -/
def State.tlbPut (s : State) (c : Nat) (x : TlbEnt) : State :=
  let old := (s.tlb c).filter fun e => !(e.part == x.part && e.asid == x.asid && e.va == x.va)
  let put := fun (s : State) (l : List TlbEnt) => { s with xl := { s.xl with tlb := s.xl.tlb.fput c (x :: l) [] } }
  if old.length < tlbWays c then put s old
  else
    let same := old.filter fun e => tlbSetOf c e == tlbSetOf c x
    if same.length < tlbWays c then put s old
    else
      let out := same.getD ((Config.freeBits s.free).toNat % same.length) x
      put { s with free := s.free + 1 } (old.erase out)

/-- Installs an entry in a walk cache of 256. -/
def State.walkPut (s : State) (c : Nat) (x : WalkEnt) : State :=
  let l := s.xl.walk.fget c []
  let put := fun (s : State) (l : List WalkEnt) => { s with xl := { s.xl with walk := s.xl.walk.fput c (x :: l) [] } }
  if l.length < 256 then put s l
  else put { s with free := s.free + 1 } (l.eraseIdx ((Config.freeBits s.free).toNat % 256))

/-! ## The walk (R287 to R291) -/

/-- What a walk finds. -/
inductive Walk where
  | leaf (x : TlbEnt)
  | fail (cause : Nat)
  /-- an entry with V 0: its address, its level, and its SVC bit -/
  | absent (entry level : Nat) (svc : Bool)
  | uncorr (pa : Nat)
deriving DecidableEq, Repr

/-- Lowest address bit and width of a level's index (Table 11-1). -/
def levelLo (level : Nat) : Nat := [16, 21, 30, 39, 48].getD level 16
def levelBits (level : Nat) : Nat := if level = 0 then 5 else 9

/-- An address lies in the stacks of the partition. -/
def State.inPart (s : State) (part pa : Nat) : Bool := s.paPart pa == some part

/-- A 64-bit word read by a walker (R293: NoAllocRead on the narrow path). -/
def State.walkRead (s : State) (part pa : Nat) : Option Nat × State :=
  match s.readPhys (some part) .narrow pa 8 with
  | (.ok b, s) => (some (leNat b), s)
  | (.error _, s) => (none, s)

/-- Sign-extended 57-bit address of the start of a range (R286). -/
def canonVa (va : Nat) : Nat := if bitOf va 56 then va % 2 ^ 57 + (2 ^ 64 - 2 ^ 57) else va % 2 ^ 57

/-- A page-table entry with V 1 is malformed at its level (R290). -/
def State.badPte (s : State) (part level pte : Nat) : Bool :=
  let leaf := bitOf pte 1
  let target := bitsOf pte 5 2
  let addr := bitsOf pte 8 44 * 256
  bitsOf pte 52 12 != 0 || target == 3 || (leaf && decide (3 ≤ level)) || (!leaf && level == 0) ||
    (!leaf && (target != 0 || bitsOf pte 2 3 != 0)) ||
    (if leaf then addr % 2 ^ levelLo level != 0 else level != 1 && addr % 4096 != 0) ||
    (!leaf && !s.inPart part addr)

/-- The walk from a table at `level`; `c` is the walker, whose walk cache holds entries of levels 4 to 1. -/
def State.walkAt (s : State) (c part asid va : Nat) : Nat → Nat → Walk × State
  | level, table =>
    let lo := levelLo level
    let ea := table + 8 * bitsOf va lo (levelBits level)
    let key := va / 2 ^ lo % 2 ^ (57 - lo)
    let hit := if level = 0 then none else
      (s.xl.walk.fget c []).find? fun e => e.part == part && e.asid == asid && e.level == level && e.va == key
    let got : Option Nat × State :=
      match hit with
      | some e => (some e.pte, s)
      | none => s.walkRead part ea
    match got with
    | (none, s) => (.uncorr ea, s)
    | (some pte, s) =>
      if !bitOf pte 0 then (.absent ea level (bitOf pte 7), s)
      else if s.badPte part level pte then (.fail 0x02, s)
      else
        let s := if level = 0 || hit.isSome then s else
          s.walkPut c ⟨part, asid, level, key, pte⟩
        if bitOf pte 1 then
          (.leaf ⟨part, asid, canonVa (va / 2 ^ lo * 2 ^ lo), 2 ^ lo, bitsOf pte 5 2, bitsOf pte 8 44 * 256, bitsOf pte 2 3⟩, s)
        else
          match level with
          | 0 => (.fail 0x02, s)
          | l + 1 => s.walkAt c part asid va l (bitsOf pte 8 44 * 256)
  termination_by structural level => level

/-- A walk from the address-space table (R287). -/
def State.walkVa (s : State) (c part asid va : Nat) : Walk × State :=
  let base := s.f .XL_AST_BASE part * 65536
  let ea := base + 16 * asid
  if 2 ^ s.f .XL_AST_LOG2 part ≤ asid || !s.fb .XL_AST_ENABLE part || !s.inPart part ea then (.fail 0x03, s)
  else match s.readPhys (some part) .narrow ea 16 with
    | (.error (.uncorr, _), s) => (.uncorr ea, s)
    | (.error _, s) => (.fail 0x03, s)
    | (.ok b, s) =>
      let e := leNat b
      if !bitOf e 0 then (.fail 0x03, s)
      else if bitsOf e 1 11 ≠ 0 || bitsOf e 52 76 ≠ 0 || !s.inPart part (bitsOf e 12 40 * 4096) then (.fail 0x02, s)
      else s.walkAt c part asid va 4 (bitsOf e 12 40 * 4096)

/-! ## Service requests (R295) -/

/-- The die whose service queue takes the misses of a walker (R295). -/
def State.svcDie (s : State) (part walker : Nat) : Nat :=
  if 512 ≤ walker && walker < 528 then walker - 512 else s.firstDie part

/-- The request that an unused tag stands for. -/
def noSvc : SvcReq := { part := 0, asid := 0, page := 0, entry := 0, level := 0, access := 0 }

/-- FULL follows whether the queue has room (R297). -/
def State.svcFull (s : State) (n : Nat) : State :=
  s.setF .XL_SVC_STATUS_FULL n (b2n (decide (2 ^ s.f .XL_SVC_CTRL_SIZE_LOG2 n ≤ fqD (s.f .XL_SVC_PROD_PROD n) (s.f .XL_SVC_CONS_CONS n))))

/-- Writes a request's record while the queue has room. -/
def State.svcWrite (s : State) (n tag : Nat) (x : SvcReq) : State :=
  let prod := s.f .XL_SVC_PROD_PROD n
  let size := 2 ^ s.f .XL_SVC_CTRL_SIZE_LOG2 n
  if size ≤ fqD prod (s.f .XL_SVC_CONS_CONS n) then s.setF .XL_SVC_STATUS_FULL n 1
  else
    let a := s.f .XL_SVC_BASE_ADDR n * 64 + 32 * (prod % size)
    let body := leBytes 8 x.page ++ leBytes 8 x.entry ++ leBytes 2 x.asid ++ leBytes 2 tag ++ leBytes 1 x.access ++
      leBytes 1 x.level ++ zeroBytes 2
    let s := (s.writePhys (some x.part) .narrow false a body).2
    let s := (s.writePhys (some x.part) .narrow false (a + 24) (leBytes 8 ((prod + 1) % 2 ^ 32 * 2 ^ 32))).2
    let s := (s.setF .XL_SVC_PROD_PROD n (prod + 1)).svcFull n
    s.setSvc n { s.svc n with open_ := (s.svc n).open_.fput tag { x with written := true, at_ := s.eng } noSvc }

/-- Opens, or joins, the service request of a page (R295). -/
def State.svcOpen (s : State) (part asid va entry level access walker : Nat) : XOut × State :=
  let n := s.svcDie part walker
  if !s.fb .XL_SVC_CTRL_ENABLE n then (.fail stXLATE 0x01, s)
  else
    let l := (s.svc n).open_
    match l.find? fun (e : Nat × SvcReq) => e.2.asid == asid && e.2.page / 65536 == va / 65536 with
    | some (tag, x) =>
      let x := { x with access := x.access ||| access }
      (.wait n (some tag), s.setSvc n { s.svc n with open_ := l.fput tag x noSvc })
    | none =>
      match (List.range 1024).find? fun t => !(l.any fun (e : Nat × SvcReq) => e.1 == t) with
      | none => (.wait n none, s)
      | some tag =>
        let x : SvcReq := { part := part, walker := walker, asid := asid, page := va, entry := entry, level := level, access := access, at_ := s.eng }
        let s := s.setSvc n { s.svc n with open_ := l.fput tag x noSvc }
        let s := s.incF .XL_SVC_STATUS_OPEN n
        (.wait n (some tag), s.svcWrite n tag x)

/-! ## Translating an access -/

/-- The address is not canonical (R286). -/
def nonCanonical (va : Nat) : Bool := bitsOf va 57 7 != (if bitOf va 56 then 127 else 0)

/-- Rights that an access kind needs of its leaf: 1 read, 2 write, 4 atomic; a fetch (8) needs read (R292). -/
def needRights (need : Nat) : Nat := if need = 8 then 1 else need

/-- A leaf judged for an access (R292). -/
def State.judge (s : State) (part va need : Nat) (e : TlbEnt) : XOut :=
  if needRights need &&& e.rights ≠ needRights need then .fail stRIGHTS 0x08
  else
    let a := e.addr + (va - e.va)
    if e.target = 0 then (if s.inPart part a then .ok (.phys part a) else .fail stRIGHTS 0x09)
    else .ok (.host (e.target - 1) a)

/-- The import window of an address space that covers an address (R304). -/
def State.importOf (s : State) (part asid va : Nat) : Option (Nat × Win) :=
  s.xl.imports.find? fun (e : Nat × Win) =>
    e.1 / 256 == part && e.2.live && e.2.asid == asid && decide (e.2.base ≤ va) && decide (va < e.2.base + e.2.size)

/-- A translation by the page tables: the caches on the path, then a walk (R293). -/
def State.xlatePage (s : State) (c part asid va need : Nat) : XOut × State :=
  if nonCanonical va then (.fail stXLATE 0x04, s)
  else
    let wk := walkerOf c
    match s.tlbHit c part asid va with
    | some e => (s.judge part va need e, s)
    | none =>
      match (if wk = c then none else s.tlbHit wk part asid va) with
      | some e => let s := s.tlbPut c e; (s.judge part va need e, s)
      | none =>
        let s := if 512 ≤ wk && wk < 528 then
            (s.incF .XL_TC_STATS_MISSES (wk - 512)).evDie (wk - 512) 0x11 0 1 else s
        match s.walkVa wk part asid va with
        | (.leaf e, s) =>
          let s := s.tlbPut wk e
          let s := if wk = c then s else s.tlbPut c e
          (s.judge part va need e, s)
        | (.fail cause, s) => (.fail stXLATE cause, s)
        | (.uncorr pa, s) => (.uncorr pa, s)
        | (.absent ea level svc, s) =>
          if svc then s.svcOpen part asid va ea level (if need = 8 then 1 else need % 8) wk else (.fail stXLATE 0x01, s)

/-- Translates one access of a partition's ring or kernel: import windows first (R304), then the page tables. -/
def State.xlate (s : State) (c part asid va need : Nat) : XOut × State :=
  match s.importOf part asid va with
  | some (k, w) =>
    if needRights need &&& w.rights ≠ needRights need then (.fail stRIGHTS 0x08, s)
    else (.ok (.remote w.node w.remote (w.offset + (va - w.base)) k), s)
  | none => s.xlatePage c part asid va need

/-- The wait of an access, begun now unless the same access was waiting already. -/
def State.waitingFor (s : State) (old : Option Waiting) (va need : Nat) : Option Waiting :=
  match old with
  | some w => if w.va = va then some w else some ⟨va, need, s.eng⟩
  | none => some ⟨va, need, s.eng⟩

/-- Something more waits on a service request. -/
def State.svcJoin (s : State) (n : Nat) (tag : Option Nat) (g : SvcReq → SvcReq) : State :=
  match tag with
  | none => s
  | some t => s.setSvc n { s.svc n with open_ := (s.svc n).open_.fput t (g ((s.svc n).open_.fget t noSvc)) noSvc }

/-- A waiting command or group recorded with an open service request. -/
def State.svcWait (s : State) (n : Nat) (tag : Option Nat) (cmd : Option (Nat × Nat)) (group : Option Nat) (va need : Nat) : State :=
  let s := match cmd with
    | some (r, pos) => s.modEntry r pos fun e => { e with waiting := s.waitingFor e.waiting va need }
    | none => s
  let s := match group with
    | some g => s.setGroup g { s.group g with waiting := s.waitingFor (s.group g).waiting va need }
    | none => s
  s.svcJoin n tag fun x =>
    { x with cmds := x.cmds ++ (cmd.toList.filter fun c => !x.cmds.contains c)
             groups := x.groups ++ (group.toList.filter fun g => !x.groups.contains g) }

/-! ## Addresses of commands -/

/-- The translation of an address of a command, through cache `c`; on a module ring a bus address behind the ring's port (R78). -/
def State.cmdXlate (s : State) (c r va need : Nat) : XOut × State :=
  if s.ringModule r then (.ok (.host (s.ringPort r) va), s)
  else s.xlate c (s.ringPart r) (s.ringAsid r) va need

/-- A started command waits for a service reply: its row is taken again. -/
def State.cmdWait (s : State) (r pos n : Nat) (tag : Option Nat) (va need : Nat) : State :=
  (s.modEntry r pos fun e => { e with phase := 9 }).svcWait n tag (some (r, pos)) none va need

/-- A command whose translation failed: its status and fault record, or its wait. -/
def State.failXlate (s : State) (r pos : Nat) (x : XOut) (va need agentKind agentIx : Nat) (result : Nat := 0) : State :=
  match x with
  | .ok _ => s
  | .fail st cause =>
    s.failRec r pos { status := st, result := result } (s.cmdRec r pos cause 1 va need agentKind agentIx)
  | .uncorr pa =>
    s.failRec r pos { status := stUNCORR, result := result } (s.cmdRec r pos 0x10 2 pa 1 agentKind agentIx)
  | .wait n tag => s.cmdWait r pos n tag va need

/-- The agent of Table 11-11 that a command's own hub work is reported under: hub command processor. -/
def State.hubAgent (s : State) (r : Nat) : Nat := s.ringHub r

/-- The cache of the hub that runs a command. -/
def State.cmdCache (s : State) (r : Nat) : Nat := hubCache (s.ringHub r)

/-- A held translation made now. -/
def State.holdOf (s : State) (r va : Nat) (l : Loc) : Held := ⟨s.ringPart r, s.ringAsid r, va, some l⟩

/-- A held translation of a command that has been renewed. -/
def State.renewHeld (s : State) (r pos : Nat) (h : Held) (l : Loc) : State :=
  if h.loc.isSome then s
  else s.modEntry r pos fun e => { e with holds := e.holds.map fun x => if x == h then { x with loc := some l } else x }

/-- The location of a held translation; translated again when an invalidation dropped it (R300). -/
def State.useHeld (s : State) (c : Nat) (h : Held) (need : Nat) : XOut × State :=
  match h.loc with
  | some l => (.ok l, s)
  | none => s.xlate c h.part h.asid h.va need

end Sys2Proof.Machine
end

