-- ==== Sys2Proof/Machine/Window.lean ====
section
/-!
DEFINITION. Atomic operations (R129, R281), Tilus packets, routing and sending (R366, R369 to R372), window requests of this module (R374) and
the service of those that reach it (R304).
-/

namespace Sys2Proof

/-! ## Packets -/

/-- 16-byte units of a packet: the header is two. -/
def TPacket.units (p : TPacket) : Nat := 2 + (p.data.length + 15) / 16

/-- The buffer its units came from: its channel, or the pool (8). -/
def TPacket.buffer (p : TPacket) : Nat := if p.pooled then 8 else p.vc
def TPacket.prio (p : TPacket) : Bool := p.vc / 2 == 3
def TPacket.response (p : TPacket) : Bool := p.vc / 2 == 1

/-- A request, marker, record or TABLE_CTL, which a failure answers with ROUTE_FAIL (R371). -/
def TPacket.answerable (p : TPacket) : Bool := !(0x08 ≤ p.op && p.op ≤ 0x0B)

/-- Bytes that a window request touches: offset adjustment and length. -/
def TPacket.span (x : TPacket) : Nat :=
  match x.op with
  | 0x01 => 16 * (x.info % 16 + 1)
  | 0x03 => if x.info.testBit 4 then 8 else 4
  | _ => if x.masked then x.data.length - 16 else x.data.length

def TPacket.needs (x : TPacket) : Nat := if x.op = 1 then 1 else if x.op = 2 then 2 else 4

/-- A response packet to a request (R374): on RSP, whatever channel the request came on (Table 14-5), in the global class until it enters its
destination's group (R373). -/
def TPacket.reply (x : TPacket) (node hops op info : Nat) (data : Bytes) : TPacket :=
  { vc := 2, last := false, masked := false, op := op, hops := hops, dest := x.src, src := node,
    window := 0, offset := 0, tag := x.tag, flow := x.flow, info := info, data := data }

end Sys2Proof

namespace Sys2Proof.Machine

open Sys2Proof

/-! ## Routing -/

/-- Own node identifier. -/
def State.node (s : State) : Nat := s.f .TLS_NODE_NODE
def nodeGroup (n : Nat) : Nat := bitsOf n 9 8
def nodeMember (n : Nat) : Nat := n % 512

/-- A port is UP on a working hub. -/
def State.tlsUp (s : State) (p : Nat) : Bool := s.f .TLS_PSTAT_STATE p == 2 && s.hubWorks (p / 4)

def State.tilusUpMask (s : State) : Nat := maskOf ((List.range 16).filter s.tlsUp)

/-- The reservations in force that hold a packet's flow: port and reservation (R376, R378). A reserved flow is one of this module's: its requests
through an import, or the packets of a table. -/
def State.resvFor (s : State) (x : TPacket) : List (Nat × Nat) :=
  let tableOp := 0x10 ≤ x.op
  if x.src != s.node || !(tableOp || x.op ≤ 3) then [] else
  ((List.range 16).flatMap fun p => (List.range 16).map fun r => (p, r)).filter fun (p, r) =>
    let ix := 16 * p + r
    s.fb .TLS_RES_FLOW_VALID ix &&
      (if s.f .TLS_RES_FLOW_KIND ix = 0 then tableOp && s.f .TLS_RES_FLOW_FLOW_ID ix % 65536 == x.flow
       else !tableOp && s.f .TLS_RES_FLOW_PART ix * 256 + s.f .TLS_RES_FLOW_FLOW_ID ix % 256 == x.flow)

/-- A port has packets of the flow in flight (R372). -/
def State.flowOn (s : State) (p : Nat) (x : TPacket) : Bool :=
  let same := fun (y : TPacket) => y.flow == x.flow && y.src == x.src && y.dest == x.dest
  (s.tls p).queue.any same || (s.tls p).replay.any fun (e : Nat × List TPacket) => e.2.any same

/-! ## Sending on a port (R365, R366, R378) -/

/-- The credit a packet is sent against, and the packet as sent: its channel's own, else the pool, for which it is marked. -/
def TlsPort.spend (t : TlsPort) (x : TPacket) : Option (TlsPort × TPacket) :=
  let n := x.units
  if n ≤ t.credit.getD x.vc 0 then some ({ t with credit := t.credit.set x.vc (t.credit.getD x.vc 0 - n) }, { x with pooled := false })
  else if n ≤ t.pool then some ({ t with pool := t.pool - n }, { x with pooled := true })
  else none

/-- ns that a frame takes on a port (R364). -/
def State.frameNs (s : State) (p : Nat) : Nat := if s.f .TLS_PSTAT_WIDTH p = 3 then 2 else 4

/-- Index of the queued packet a port sends next: first of its virtual channel, with credit; packets of a flow whose slot is open first, then
PRIO packets in arrival order while the interval allows them, then the rest (R378). -/
def State.pickNext (s : State) (p : Nat) : Option Nat :=
  let t := s.tls p
  let q := t.queue.zipIdx
  let firsts := q.filter fun (x, i) => !((t.queue.take i).any fun y => y.vc == x.vc) && (t.spend x).isSome
  let prioOk := decide (t.prioNs + s.frameNs p ≤ 750)
  let usable := firsts.filter fun (x, _) => !x.prio || prioOk
  let open_ := usable.find? fun (x, _) => (s.resvFor x).any fun (p', r) =>
    p' == p && (s.resvOf (16 * p + r)).openUntil.isSome
  match open_ with
  | some (_, i) => some i
  | none =>
    match usable.find? fun (x, _) => x.prio with
    | some (_, i) => some i
    | none => (usable.head?).map (·.2)

/-- The request of this module that a packet carries has left by a port (R381). -/
def State.markPort (s : State) (p : Nat) (x : TPacket) : State :=
  if x.src = s.node && x.op ≤ 3 then
    { s with rreqs := s.rreqs.map fun (e : Nat × RReq) => if e.1 == x.tag then (e.1, { e.2 with port := some p }) else e }
  else s

/-- A frame leaves by a port, with the port's ACK and NAK and the credit it owes: that of two channels and of the pool (R364 to R366). -/
def State.sendFrame (s : State) (p typ seq : Nat) (payload : Bytes) : State :=
  let t := s.tls p
  let cr := ((List.range 8).filter fun v => t.back.getD v 0 != 0).map fun v => (v, t.back.getD v 0)
  let a := cr.getD 0 (0, 0)
  let b := cr.getD 1 (0, 0)
  let s := s.setTls p { t with back := ((t.back.set a.1 0).set b.1 (if cr.length < 2 then (t.back.set a.1 0).getD b.1 0 else 0)).set 8 0 }
  { s with out := { s.out with tls := (p, tilusFrame seq t.rxSeq t.nakOut typ a b (t.back.getD 8 0) payload) :: s.out.tls } }

/-- An idle frame, which carries only ACK, NAK and credit. -/
def State.sendIdle (s : State) (p : Nat) : State := if s.tlsUp p then s.sendFrame p 1 0 [] else s

/-- The data frame of a packet; a packet is a frame's only one (DESIGN CHOICE, notes/assumptions/70). -/
def State.sendData (s : State) (p seq : Nat) (l : List TPacket) : State := s.sendFrame p 0 seq (l.flatMap tilusBytes)

/-- Sends queued packets as data frames while credit and the replay buffer of 1,024 frames allow. -/
def State.pump (s : State) (p : Nat) : Nat → State
  | 0 => s
  | fuel + 1 =>
    let t := s.tls p
    if !s.tlsUp p || decide (1024 ≤ t.replay.length) then s
    else match s.pickNext p with
      | none =>
        if t.queue.any (·.prio) && decide (750 < t.prioNs + s.frameNs p) then s.setTls p { t with prioOver := true } else s
      | some i =>
        match t.queue[i]? with
        | none => s
        | some x =>
          match t.spend x with
          | none => s
          | some (t, x) =>
            let seq := (t.txSeq + 1) % 65536
            let t := { t with
              queue := t.queue.eraseIdx i, txSeq := seq, replay := t.replay ++ [(seq, [x])]
              prioNs := if x.prio then t.prioNs + s.frameNs p else t.prioNs }
            let s := ((s.setTls p t).sendData p seq [x]).markPort p x
            let s := s.evHub (p / 4) 0x20 (p % 4) 0 1
            let s := if x.prio then (s.incF .TLS_PFRAME_PRIO_FRAMES p).evHub (p / 4) 0x21 (p % 4) 0 1 else s
            s.pump p fuel

/-- A packet queued at a port, and the port's queue sent as far as it can be. -/
def State.enqueue (s : State) (p : Nat) (x : TPacket) : State :=
  let t := s.tls p
  (s.setTls p { t with queue := t.queue ++ [x] }).pump p (t.queue.length + 1)

/-- Where R371 sends a packet on hub h. -/
inductive Hop where
  | deliver
  | out (port : Nat) (x : TPacket)
  | fail
deriving DecidableEq, Repr

/-- The routing of R371. -/
def State.routePkt (s : State) (h : Nat) (x : TPacket) : Hop × State :=
  if x.dest = s.node then (.deliver, s)
  else if x.hops = 0 then (.fail, s)
  else
    let far := nodeGroup x.dest ≠ nodeGroup s.node
    let x := if far then x else { x with vc := x.vc ||| 1 }
    let k := if far then nodeGroup x.dest else nodeMember x.dest
    let mask := (if far then s.f .TLS_GROUTE_MASK k else s.f .TLS_LROUTE_MASK k) &&& s.tilusUpMask
    if mask = 0 then (.fail, s)
    else
      let res := s.resvFor x
      let x := if res.isEmpty then x else { x with vc := 6 + x.vc % 2 }
      let port :=
        match res.find? fun (p, _) => bitOf mask p with
        | some (p, _) => p
        | none =>
          match (bitList mask 16).find? fun p => s.flowOn p x with
          | some p => p
          | none =>
            let mine := bitList mask 16 |>.filter fun p => p / 4 == h
            let l := if mine.isEmpty then bitList mask 16 else mine
            l.getD (Config.routeHash x.src x.dest x.flow % l.length) 0
      let s := (((res.map (·.1)).eraseDups).filter fun p => p != port).foldl (fun s p => s.incF .TLS_PFRAME_RESV_MISS p) s
      (.out port { x with hops := x.hops - 1 }, s)

/-! ## Messages of check units (R329, R332) -/

/-- The command is one message: a COPY, or a COPY_STRIDED, with CHECK. -/
def Entry.checks (e : Entry) : Bool := (e.op == 0x10 && bitOf (e.body 24 1) 0) || (e.op == 0x13 && bitOf (e.body 40 1) 0)

/-- Transfer offset of a destination address of a COPY or COPY_STRIDED. -/
def Entry.xferOff (e : Entry) (dva : Nat) : Nat :=
  let d := (dva + 2 ^ 64 - e.body 8 8) % 2 ^ 64
  let stride := e.body 32 8
  if e.op = 0x10 || stride = 0 || e.body 20 4 ≤ 1 then d else d / stride * e.body 16 4 + d % stride

/-- Bytes put among the parts of a message by their offset. -/
def putPart (o : Nat) (b : Bytes) : List (Nat × Bytes) → List (Nat × Bytes)
  | [] => [(o, b)]
  | (p, c) :: t => if o < p then (o, b) :: (p, c) :: t else (p, c) :: putPart o b t

/-- The bytes of a message. -/
def ChkMsg.bytes (m : ChkMsg) : Bytes := m.parts.flatMap (·.2)

/-- A message begins at a unit: messages of a ring stand in acceptance order, and a re-execution begins its message anew. -/
def beginMsg (m : ChkMsg) (l : List ChkMsg) : List ChkMsg :=
  let l := l.filter fun x => x.key != m.key || x.ended.isSome
  (l.takeWhile fun x => decide (x.key.2 < m.key.2)) ++ m :: l.dropWhile fun x => decide (x.key.2 < m.key.2)

/-- A command of ring r on which check units of `kind` are bound begins its message, unless it started before the binding (R332). -/
def State.chkBegin (s : State) (r pos kind : Nat) : State :=
  let no := ((s.entry? r pos).map (·.startNo)).getD 0
  ((List.range 32).filter fun u => s.fb .CHK_BIND_BOUND u && s.f .CHK_BIND_KIND u == kind && s.f .CHK_BIND_SOURCE u == r &&
    !(s.chkUnit u).stopping && decide ((s.chkUnit u).since ≤ no)).foldl (fun s u => s.setChk u { s.chkUnit u with msgs := beginMsg { key := (r, pos) } (s.chkUnit u).msgs }) s

/-- A change to the messages in progress of a ring's command. -/
def State.chkEach (s : State) (r pos : Nat) (g : Nat → ChkMsg → ChkMsg) : State :=
  let one (e : Nat × ChkUnit) : Nat × ChkUnit :=
    if s.f .CHK_BIND_KIND e.1 == 2 then e
    else (e.1, { e.2 with msgs := e.2.msgs.map fun m => if m.key == (r, pos) && m.ended.isNone then g e.1 m else m })
  { s with chk := s.chk.map one }

/-- The command runs on a hub, or on none (a die's engine): units of other hubs do not see its message. -/
def State.chkHub (s : State) (r pos : Nat) (hub : Option Nat) : State := s.chkEach r pos fun u m => { m with seen := hub == some (u / 8) }

/-- Source bytes of the command at a transfer offset. -/
def State.chkFeed (s : State) (r pos off : Nat) (b : Bytes) : State := s.chkEach r pos fun _ m => { m with parts := putPart off b m.parts }

/-- The command has ended: a message is cut short by a failure. -/
def State.chkEnd (s : State) (r pos st : Nat) : State :=
  s.chkEach r pos fun _ m => { m with ended := some (st != 0x00 && st != 0x02) }

/-- The bytes that a W_WRITE writes, at the offset of the first: those its mask enables. -/
def writtenBytes (x : TPacket) : Nat × Bytes :=
  if x.masked then
    let m := leNat (x.data.take 16)
    let l := (List.range 128).filter fun i => m.testBit i
    (x.offset + l.headD 0, l.map fun i => x.data.getD (16 + i) 0)
  else (x.offset, x.data)

/-- A W_WRITE of a remote copy has been served at hub h. -/
def State.chkFlow (s : State) (h : Nat) (x : TPacket) (ok : Bool) : State :=
  let key := (x.src, x.flow)
  let s := { s with xl := { s.xl with midMsg :=
    let l := s.xl.midMsg.filter fun y => y != (x.window, x.src, x.flow)
    if x.last then l else (x.window, x.src, x.flow) :: l } }
  ((List.range 32).filter fun u => s.fb .CHK_BIND_BOUND u && s.f .CHK_BIND_KIND u == 2 && s.f .CHK_BIND_SOURCE u == x.window % 256 &&
    s.f .CHK_BIND_PART u == x.window / 256 && ((s.chkUnit u).anyNode || (s.chkUnit u).node == x.src)).foldl (fun s u =>
      let c := s.chkUnit u
      if c.skip.contains key then (if x.last then s.setChk u { c with skip := c.skip.erase key } else s)
      else
        let old := c.msgs.find? fun m => m.key == key && m.ended.isNone
        if old.isNone && c.stopping then s
        else
          let m := old.getD { key := key }
          let m := { m with parts := putPart (writtenBytes x).1 (writtenBytes x).2 m.parts, seen := m.seen && h == u / 8, bad := m.bad || !ok }
          let m := if x.last then { m with ended := some m.bad } else m
          s.setChk u { c with msgs := (c.msgs.filter fun y => y.key != key || y.ended.isSome) ++ [m] }) s

/-! ## Window requests of this module (R374) -/

/-- A kernel fault that a group raises, on its way to the launch controller (R145). -/
def State.groupFault (s : State) (g : Nat) (res : Result) (x : FRec) : State :=
  { s with gfaults := s.gfaults ++ [⟨g, (s.group g).kernel, g / 32, res, x⟩] }

/-- The lanes of the path a group runs. -/
def Group.lanes (x : Group) : Nat := (x.stack.headD ⟨0, 0, 0⟩).mask

/-- Destination of the answers that are words of an instruction. -/
def fetchDst : Nat := 512

/-- One answer of a waiting group counted; at the last the instruction's registers are written. -/
def State.groupAnswer (s : State) (g : Nat) : State :=
  let x := s.group g
  match x.wait with
  | .remote n =>
    if n ≤ 1 then
      s.setGroup g { x with wait := .none, late := [], v := x.late.foldl (fun v (e : Nat × Nat) => v.fput e.1 (e.2 % 2 ^ 32) 0) x.v }
    else s.setGroup g { x with wait := .remote (n - 1) }
  | _ => s

/-- The flag of a command that has its result cannot be written: a command that would have ended with DONE ends with `status` instead, and its
record is written first, or the command stalls until it can be (R89, R307). -/
def State.failFlag (s : State) (r pos status : Nat) (x : FRec) : State :=
  match s.entry? r pos with
  | none => s
  | some e =>
    match e.res with
    | none => s
    | some y =>
      if e.st != .running && e.st != .finished then s
      else
        let ok := y.status == stDONE || y.status == stREPLAYED
        let res : Result := if ok then { status := status } else y
        let s := s.modEntry r pos fun e => { e with st := .running, res := none, flag := none, sent := false, waiting := none }
        s.failRec r pos res x

/-- RESULT of a command whose window request has failed: the first byte of the failing span, the first byte of a request that met uncorrectable
data (DESIGN CHOICE, notes/assumptions/71), or what the command has done so far (R301, R324). -/
def State.reqResult (s : State) (r pos : Nat) (q : RReq) (status : Nat) : Nat :=
  match q.place with
  | some (off, span) => if status = stUNCORR then off else span
  | none => s.progress r pos

/-- An answer that a command awaits has come. -/
def State.oneAnswer (s : State) (r pos : Nat) : State := s.modEntry r pos fun e => { e with remoteOpen := e.remoteOpen - 1 }

/-- An answer that a table awaits has come, unless the table that asked is gone. -/
def State.tabAnswer (s : State) (k r pos : Nat) (g : TabReq → TabReq) : State :=
  let t := s.table k
  if t.live && t.ring == r && t.pos == pos then s.setTable k { t with reqs := t.reqs - 1, req := g t.req } else s

/-- A request of the module has ended with a failure status (Table 14-6), with its requester's fault record (Table 11-10). -/
def State.failReq (s : State) (key : Nat) (status cause kstatus ksub : Nat) : State :=
  match s.rreqs.find? fun (e : Nat × RReq) => e.1 == key with
  | none => s
  | some (_, q) =>
    let s := { s with rreqs := s.rreqs.drop fun k => k == key }
    let access := match q.wait, q.op with
      | .group _ _ d _ _, _ => if d = fetchDst then 8 else if q.op = 1 then 1 else if q.op = 2 then 2 else 4
      | _, 1 => 1
      | _, 2 => 2
      | _, _ => 4
    -- remote causes name the other node and the window (Table 11-11)
    let info := if 0x0C ≤ cause && cause ≤ 0x0E then q.node + q.win * 2 ^ 32 else 0
    match q.wait with
    | .cmd r pos =>
      let s := s.oneAnswer r pos
      let (kind, ix) := s.cmdAgent r pos
      let x := { s.cmdRec r pos cause 1 q.va access kind ix with info := info }
      let res : Result := { status := status, result := s.reqResult r pos q status }
      if s.isActive r pos then ((s.dropParts r pos).failRec r pos res x).settleEngine r pos else s.failRec r pos res x
    | .flag r pos =>
      let s := s.oneAnswer r pos
      s.failFlag r pos status { s.cmdRec r pos cause 1 q.va access 7 (s.hubAgent r) with info := info }
    | .table k r pos => s.tabAnswer k r pos fun x => if x == .none then x else .failed cause info
    | .chk u => s.incF .CHK_MSGS_LOST_ENTRIES u
    | .group g _ _ _ _ =>
      let x := s.group g
      if !x.live then s else
      let k := s.kernel x.kernel
      let s := s.setGroup g { x with wait := .stopped, late := [] }
      let kf := kstatus == stKFAULT
      s.groupFault g { status := kstatus, sub := ksub, result := if kf then x.ipc else 0, detail := if kf then x.team * k.team + x.inTeam else 0 }
        { addr := q.va, mask := if kf then x.lanes else 0, pos := some k.pos, time := s.now, ring := some k.ring,
          cause := if kf then 0x20 + ksub else cause, asid := k.asid, agentKind := 0, agentIx := g / 32, kind := 1,
          access := access, info := if kf then x.ipc else info }

/-- RESULT of a command whose fetched bytes could not be written: the first byte of the failing codeword, or of its span (R301, R324). -/
def writeResult (q : RReq) (l : Loc) (e : AErr) : Nat :=
  match q.place, l, e with
  | some (off, _), .phys _ pa, .mem .uncorr a => off + (a - pa)
  | some (_, span), _, .mem _ _ => span
  | _, _, _ => 0

/-- A request answered: data delivered to the place that waits for it. -/
def State.okReq (s : State) (key : Nat) (data : Bytes) : State :=
  match s.rreqs.find? fun (e : Nat × RReq) => e.1 == key with
  | none => s
  | some (_, q) =>
    let s := { s with rreqs := s.rreqs.drop fun k => k == key }
    match q.wait with
    | .cmd r pos =>
      let d := sliceB data (if q.op = 1 then q.off % 16 else 0) (if q.dst.isSome then q.len else 8)
      let s := (s.oneAnswer r pos).modEntry r pos fun e =>
        if q.op = 2 || q.dst.isSome then e
        -- data a command waits for, or the word of a WAIT_FLAG or an atomic
        else if q.op = 1 && e.phase = 9 then { e with got := e.got ++ [(q.va, sliceB data (q.off % 16) q.len)] }
        else { e with prog := leNat d }
      let s := match q.dst, s.entry? r pos with
        | some _, some e => if e.checks then s.chkFeed r pos (e.xferOff q.dstVa) d else s
        | _, _ => s
      match q.dst with
      | none => s
      | some (.remote nd w o f) => s.modEntry r pos fun e => { e with fwd := e.fwd ++ [⟨.remote nd w o f, q.dstVa, q.place, d⟩] }
      | some l =>
        match s.writeLoc l .bulk d with
        | (none, s) => s
        | (some e, s) =>
          let (kind, ix) := s.cmdAgent r pos
          if s.isActive r pos then
            ((s.dropParts r pos).failAccess r pos e 2 kind ix (writeResult q l e)).settleEngine r pos
          else s
    | .chk _ => s
    | .flag r pos => s.oneAnswer r pos
    | .table k r pos => s.tabAnswer k r pos fun x => if x == .read then .got (sliceB data (q.off % 16) q.len) else x
    | .group g lane dst width cas =>
      let d := sliceB data (if q.op = 1 then q.off % 16 else 0) width
      let (low, s) := s.widen width (fldB d 0 (min width 4))
      let x := s.group g
      if !x.live then s else
      let late := if 256 ≤ dst then x.late else
        x.late ++ (List.range (max (width / 4) 1)).map fun i => (64 * (dst + i) + lane, if i = 0 then low else fldB d (4 * i) 4)
      -- a CAS whose comparison held is a store (R131)
      let hit := cas != 0 && fldB d 0 width + 1 == cas
      (s.setGroup g { x with
        late := late, code := if dst = fetchDst then x.code ++ [(q.va, d)] else x.code
        bb := if hit then 0 else x.bb, fy := if hit then 0 else x.fy }).groupAnswer g

/-! ## Service at the receiver (R304, Table 11-10, Table 14-6) -/

/-- A fault record of the receiver of window traffic. -/
def State.windowRec (s : State) (x : TPacket) (cause kind addr access : Nat) : State :=
  let p := x.window / 256
  s.postEvent (if s.partValid p then p else 16)
    { addr := addr, time := s.now, cause := cause, agentKind := 10, agentIx := x.src, kind := kind, access := access,
      info := x.src + x.window * 2 ^ 32 }

/-- An answer to a window request: operation, INFO and data; none when it waits on a service request. -/
abbrev Answer : Type := Option (Nat × Nat × Bytes)

/-- Performs a request at its physical address, for the window's partition, as a non-caching agent (R279). -/
def State.performWindow (s : State) (x : TPacket) (p pa : Nat) : Answer × State :=
  let fail := fun (s : State) (e : MErr) (a : Nat) =>
    match e with
    | .uncorr => (some (0x0A, 3, []), s.windowRec x 0x10 2 a x.needs)
    | .failed => (some (0x0A, 5, []), s)
    | _ => (some (0x0A, 1, []), s.windowRec x 0x0C 4 x.offset x.needs)
  match x.op with
  | 0x01 =>
    match s.readPhys (some p) .bulk pa x.span with
    | (.ok b, s) => (some (0x08, 0, b), s)
    | (.error (e, a), s) => fail s e a
  | 0x02 =>
    if x.masked then
      match s.writeMasked (some p) .bulk false pa (x.data.drop 16) (leNat (x.data.take 16)) with
      | (none, s) => (some (0x09, 0, []), s)
      | (some (e, a), s) => fail s e a
    else match s.writePhys (some p) .bulk false pa x.data with
      | (none, s) => (some (0x09, 0, []), s)
      | (some (e, a), s) => fail s e a
  | _ =>
    match s.atomPhys (some p) pa x.span (atomOfCode (x.info % 16)) (fldB x.data 0 8) (fldB x.data 8 8) with
    | (.ok v, s) => (some (0x09, 0, leBytes 16 v), s)
    | (.error (e, a), s) => fail s e a

/-- The window's partition is stopped, in reset, or being formed: a PARTITION_SET that names it has begun (Table 14-6). -/
def State.partDown (s : State) (p : Nat) : Bool :=
  (s.partValid p && (s.f .RST_PART_STATE p == 2 || s.f .RST_PART_STATE p == 3)) ||
    s.openCmds.any fun (_, e) => e.op == 0x81 && e.active && e.phase == 9 && e.body 2 1 == p

/-- The checks of R304 in order, the translation of the export, and the access. -/
def State.serveWindow (s : State) (h : Nat) (x : TPacket) : Answer × State :=
  let p := x.window / 256
  let w := s.xl.exports.fget x.window {}
  let deny := fun (s : State) (reason cause : Nat) => (some (0x0A, reason, []), s.windowRec x cause 4 x.offset x.needs)
  if s.partDown p then (some (0x0A, 5, []), s)
  else if !w.live || !(w.anyNode || w.node == x.src) || decide (w.size < x.offset + x.span) || x.needs &&& w.rights != x.needs then
    deny s 1 0x0C
  else if x.op = 3 && x.info % 16 == 10 && !bitOf (s.f .ID_FEAT_FEAT) 2 then (some (0x0A, 4, []), s)
  else match s.xlatePage (hubCache h) p w.asid (w.base + x.offset) x.needs with
    | (.ok (.phys _ pa), s) => s.performWindow x p pa
    | (.ok _, s) => deny s 1 0x0C
    | (.fail st _, s) => if st = stRIGHTS then deny s 1 0x0C else deny s 2 0x0D
    | (.uncorr pa, s) => (some (0x0A, 3, []), s.windowRec x 0x10 2 pa 1)
    | (.wait n tag, s) =>
      match tag with
      | none => (none, { s with xl := { s.xl with parked := s.xl.parked ++ [(n, h, x)] } })
      | some t =>
        let q := (s.svc n).open_.fget t noSvc
        (none, s.setSvc n { s.svc n with open_ := (s.svc n).open_.fput t { q with pkts := q.pkts ++ [(h, x)] } noSvc })

/-- The open request that a response answers: its TAG, its flow and, but for a ROUTE_FAIL, which any module may send, its node. -/
def State.reqOf (s : State) (x : TPacket) : Option (Nat × RReq) :=
  s.rreqs.find? fun (e : Nat × RReq) => e.1 == x.tag && e.2.flow == x.flow && (x.op == 0x0B || e.2.node == x.src)

/-- A response that reaches the module's own requests (Table 14-6); one whose request has ended is counted late (R375). -/
def State.takeResponse (s : State) (x : TPacket) : State :=
  let key := x.tag
  if (s.reqOf x).isNone then s.incF .TLS_STATUS_LATE_RESP 0
  else match x.op with
    | 0x08 => s.okReq key x.data
    | 0x09 => s.okReq key x.data
    | 0x0A =>
      match x.info with
      | 1 => s.failReq key stRIGHTS 0x08 stRIGHTS 0
      | 2 => s.failReq key stXLATE 0x01 stKFAULT 3
      | 3 => s.failReq key stUNCORR 0x10 stUNCORR 0
      | 4 => s.failReq key stUNSUPPORTED 0x0C stKFAULT 1
      | _ => s.failReq key stREMOTELOST 0x0E stREMOTELOST 0
    | _ => s.failReq key stREMOTELOST 0x0E stREMOTELOST 0

/-- A response of this module goes out, or is taken at once when the request came from this module (R304); one that cannot be routed is
discarded and counted. -/
def State.sendResponse (s : State) (h : Nat) (x : TPacket) : State :=
  match s.routePkt h x with
  | (.deliver, s) => s.takeResponse x
  | (.out p y, s) => s.enqueue p y
  | (.fail, s) => s.incF .TLS_STATUS_ROUTE_FAILS 0

/-- A request is served and its answer sent. -/
def State.serveAndReply (s : State) (h : Nat) (x : TPacket) : State :=
  match s.serveWindow h x with
  | (some (op, info, data), s) => (if x.op = 2 then s.chkFlow h x (op == 0x09) else s).sendResponse h (x.reply s.node (s.f .TLS_CTRL_HOPS) op info data)
  | (none, s) => s

/-- A packet that this module originates or carries on, routed under R371. A failed request answers ROUTE_FAIL. -/
def State.sendPkt (s : State) (h : Nat) (x : TPacket) : State :=
  match s.routePkt h x with
  | (.deliver, s) => if x.response then s.takeResponse x else if x.op ≤ 3 then s.serveAndReply h x else s
  | (.out p y, s) => s.enqueue p y
  | (.fail, s) =>
    let s := s.incF .TLS_STATUS_ROUTE_FAILS 0
    if x.answerable then s.sendResponse h (x.reply s.node (s.f .TLS_CTRL_HOPS) 0x0B 0 []) else s

/-- The first of `n` tags of a hub, from `t` on, that no request uses. -/
def firstTag (used : List Nat) (h : Nat) : Nat → Nat → Option Nat
  | 0, _ => none
  | n + 1, t => if used.contains (8192 * h + t % 8192) then firstTag used h n (t + 1) else some (8192 * h + t % 8192)

/-- The tag of a hub's next request, while it holds fewer than 4,096 (R374): each hub has 8,192 of its own, taken in turn, so that the answer of
a request that has ended does not meet another's (DESIGN CHOICE, notes/assumptions/70). -/
def State.freeTag (s : State) (h : Nat) : Option Nat :=
  let used := (s.rreqs.filter fun (e : Nat × RReq) => e.2.hub == h && e.2.unsent.isNone).map fun (e : Nat × RReq) => e.1
  if 4096 ≤ used.length then none else firstTag used h 4097 (s.tags.fget h 0)

/-- The packet of a request, with its tag. -/
def RReq.packet (q : RReq) (tag : Nat) : Option TPacket := q.unsent.map fun x => { x with tag := tag }

/-- Requests that wait for a tag of a hub sent in the order they were made, while tags are free (R375). -/
def State.feedTags (s : State) (h : Nat) : Nat → State
  | 0 => s
  | n + 1 =>
    match s.rreqs.find? fun (e : Nat × RReq) => e.2.hub == h && e.2.unsent.isSome, s.freeTag h with
    | some (key, q), some tag =>
      match q.packet tag with
      | none => s
      | some x =>
        let s := { s with
          rreqs := (s.rreqs.drop fun k => k == key).fput tag { q with unsent := none, sentAt := s.eng } { q with hub := 99 }
          tags := s.tags.fput h ((tag + 1) % 8192) 0 }
        (s.sendPkt h x).feedTags h n
    | _, _ => s

/-- A window request of hub h for a waiter; it is sent when its hub has a free tag. -/
def State.sendReq (s : State) (h : Nat) (l : Loc) (op len info : Nat) (last masked : Bool) (data : Bytes) (w : RWait) (dst : Option Loc)
    (va : Nat) (dstVa : Nat := 0) (place : Option (Nat × Nat) := none) : State :=
  match l with
  | .remote nd win off flow =>
    let x : TPacket :=
      { vc := 0, last := last, masked := masked, op := op, hops := s.f .TLS_CTRL_HOPS, dest := nd, src := s.node, window := win,
        offset := if op = 1 then off / 16 * 16 else off, tag := 0, flow := flow,
        info := if op = 1 then divUp (off % 16 + len) 16 - 1 else info, data := data }
    let key := (s.rreqs.map fun (e : Nat × RReq) => e.1).foldl max 65535 + 1
    let q : RReq := { hub := h, node := nd, win := win, off := off, len := len, op := op, sentAt := s.eng, wait := w, dst := dst, dstVa := dstVa,
                      flow := flow, va := va, unsent := some x, place := place }
    let s := { s with rreqs := s.rreqs.fput key q { q with hub := 99 } }
    let s := match w with
      | .cmd r pos | .flag r pos => s.modEntry r pos fun e => { e with remoteOpen := e.remoteOpen + 1 }
      | .table k _ _ => s.setTable k { s.table k with reqs := (s.table k).reqs + 1 }
      | .group .. | .chk _ => s
    s.feedTags h (s.rreqs.length + 1)
  | _ => s

/-- The window reads of a range: offset and length of each, inside 256-byte blocks. -/
def windowReads (off n : Nat) : Nat → Nat → List (Nat × Nat)
  | 0, _ => []
  | fuel + 1, i =>
    if n ≤ i then []
    else
      let len := min (n - i) (256 - (off + i) % 256)
      (i, len) :: windowReads off n fuel (i + len)

/-- Offset of a location in its window. -/
def Loc.offset : Loc → Nat
  | .remote _ _ o _ => o
  | _ => 0

/-- Bytes of a range behind an import that a command reads for itself: what its requests have brought, or, while some are still to come, its
wait. -/
def State.remoteBytes (s : State) (h r pos : Nat) (l : Loc) (va n : Nat) : Option Bytes × State :=
  match s.entry? r pos with
  | none => (none, s)
  | some e =>
    let cs := windowReads l.offset n (n + 1) 0
    let have_ := cs.map fun (i, _) => e.got.find? fun (x : Nat × Bytes) => x.1 == va + i
    if have_.all (·.isSome) then (some (have_.flatMap fun (x : Option (Nat × Bytes)) => (x.getD (0, [])).2), s)
    else
      let s := s.modEntry r pos fun e => { e with phase := 9, waiting := none }
      if e.remoteOpen ≠ 0 then (none, s)
      else (none, cs.foldl (fun s (i, len) => s.sendReq h (l.add i) 1 len 0 false false [] (.cmd r pos) none (va + i)) s)

end Sys2Proof.Machine
end

