-- ==== Sys2Proof/Machine/Coherence.lean ====
section
/-!
DEFINITION. The rows of the coherence protocol, one meaning for each message of Table 10-5 (R275 to R279, R281), and the region slices (R263,
R264). A request or eviction that is not yet on its way is sent by its row; every message acts only when it may arrive (R340).
-/

namespace Sys2Proof.Machine

open Sys2Proof

/-! ## Region slices (R263, R264) -/

/-- Set of a physical address in a region slice. -/
def sliceSet (pa : Nat) : Nat := bitsOf pa 7 13 ^^^ bitsOf pa 20 13 ^^^ bitsOf pa 33 13 ^^^ bitsOf pa 46 6

/-- Agent number of slice `sl` (region index, R20). -/
def sliceAgent (sl : Nat) : Nat := 32 * (sl / 4) + sl % 4

/-- Granule keys of a 128-byte physical line. -/
def State.lineGrans (s : State) (line : Nat) : List Nat :=
  [0, 64].filterMap fun o => (s.decodePA (line * 128 + o)).map fun (k, a) => granKey k a

/-- The line waits on a fill, a forward or a write-back acknowledgement (R264). -/
def State.lineBusy (s : State) (sl line : Nat) : Bool :=
  (s.caches.fills.any fun f => f.slice == sl && f.line == line && f.alloc && !f.over) ||
    (s.lineGrans line).any fun g =>
      let c := s.copy (sliceAgent sl) g
      c.want != 0 || c.wb || !c.queue.isEmpty

/-- The line holds no valid granule and waits on nothing: its way is invalid. -/
def State.lineInvalid (s : State) (sl line : Nat) : Bool :=
  !s.lineBusy sl line && (s.lineGrans line).all fun g => (s.copy (sliceAgent sl) g).st == .i

/-- The way that a line may take under R264, and the slice after the choice: the way that holds it, the lowest invalid way, or the victim of
the shift register; `none` when every way waits. -/
def State.sliceWay (s : State) (sl line : Nat) : Option Nat × State :=
  let ws := s.ways (sl * 8192 + sliceSet (line * 128))
  if ws.contains (line + 1) then (some (ws.idxOf (line + 1)), s)
  else match (List.range 16).find? fun i => ws.getD i 0 == 0 || s.lineInvalid sl (ws.getD i 0 - 1) with
    | some i => (some i, s)
    | none =>
      let s := s.shiftLfsr (sliceAgent sl)
      (victimWay (fun i => s.lineBusy sl (ws.getD i 0 - 1)) (s.lfsr (sliceAgent sl) % 16), s)

/-- A line allocated in its slice; the victim's granules are given up. `false` when every way of the set waits on a transfer. -/
def State.sliceAlloc (s : State) (sl line : Nat) : Bool × State :=
  let key := sl * 8192 + sliceSet (line * 128)
  match s.sliceWay sl line with
  | (none, s) => (false, s)
  | (some i, s) =>
    let ws := s.ways key
    let old := ws.getD i 0
    let s := if old = 0 || old = line + 1 then s else (s.lineGrans (old - 1)).foldl (fun s g => s.giveUp (sliceAgent sl) g) s
    (true, s.setWays key (ws.set i (line + 1)))

/-! ## Tree pseudo-LRU -/

/-- The nodes on the path to way w of a tree of `lv` levels, each with the branch taken. -/
def plruPath (lv w : Nat) : List (Nat × Nat) :=
  (List.range lv).map fun i => (2 ^ i + w / 2 ^ (lv - i), w / 2 ^ (lv - i - 1) % 2)

/-- A use of way w points every node of its path away from it. -/
def plruTouch (lv bits w : Nat) : Nat :=
  (plruPath lv w).foldl (fun b (node, br) => if br = 0 then setBit b node else clrBit b node) bits

/-- The way that the nodes point to. -/
def plruVictim (lv bits : Nat) : Nat :=
  (List.range lv).foldl (fun node _ => 2 * node + b2n (bitOf bits node)) 1 - 2 ^ lv

/-! ## Caches of a node core (Table 10-1)

Kind 0 is the L2, 1 the L1 instruction cache, 2 the L1 data cache. The L2's granules are its agent's copies. Of the L1 data cache the model keeps
which granules it holds: its bytes are those of the L2's copy. -/

/-- Agent number of a node core. -/
def coreAgent (c : Nat) : Nat := 32 * (c / 16) + 4 + c % 16

def coreLv (kind : Nat) : Nat := if kind = 0 then 4 else 3

/-- The set of a granule: PA[16:6] XOR PA[27:17], or PA[12:6]. -/
def State.coreSet (s : State) (kind g : Nat) : Nat :=
  let line := s.paOf (granStack g) (granOff g) / 64
  if kind = 0 then line % 2048 ^^^ line / 2048 % 2048 else line % 128

def coreKey (kind c set : Nat) : Nat := (kind * 256 + c) * 2048 + set

/-- The cache holds the granule, or has kept a way for one that it has asked for. -/
def State.coreHas (s : State) (kind c g : Nat) : Bool :=
  let x := s.copy (coreAgent c) g
  if kind = 1 then !((s.core c).icache.fget g []).isEmpty else x.st != .i || (kind == 0 && x.want != 0)

/-- A granule that a cache gives up to make room. -/
def State.coreEvict (s : State) (kind c g : Nat) : State :=
  if kind = 0 then s.giveUp (coreAgent c) g
  else if kind = 1 then s.setCore c { s.core c with icache := (s.core c).icache.fput g [] [] }
  else s

/-- A use of a granule that the core holds: it has, or takes, a way of its set, an invalid one or that of the pseudo-LRU victim
(notes/assumptions/57). -/
def State.coreUse (s : State) (kind c g : Nat) : State :=
  let lv := coreLv kind
  let key := coreKey kind c (s.coreSet kind g)
  let none_ := List.replicate (2 ^ lv) 0
  let ws := s.caches.coreWays.fget key none_
  let touch := fun (s : State) (ws : List Nat) (w : Nat) => { s with caches := { s.caches with
    coreWays := s.caches.coreWays.fput key (ws.set w (g + 1)) none_
    corePlru := s.caches.corePlru.fput key (plruTouch lv (s.caches.corePlru.fget key 0) w) 0 } }
  if ws.contains (g + 1) then touch s ws (ws.idxOf (g + 1))
  else match (List.range (2 ^ lv)).find? fun w => ws.getD w 0 == 0 || !s.coreHas kind c (ws.getD w 0 - 1) with
    | some w => touch s ws w
    | none =>
      let w := plruVictim lv (s.caches.corePlru.fget key 0)
      touch (s.coreEvict kind c (ws.getD w 0 - 1)) ws w

/-- A way for a granule that a caching agent asks for: of its slice, under R264, or of its L2. `false`: the allocation waits. -/
def State.agentWay (s : State) (a g : Nat) : Bool × State :=
  if a % 32 < 4 then s.sliceAlloc (4 * (a / 32) + a % 32) (s.paOf (granStack g) (granOff g) / 128)
  else (true, s.coreUse 0 (16 * (a / 32) + (a % 32 - 4)) g)

/-! ## Requests -/

/-- Requester and home lie in one partition; a hub acts for the partition of the home (R26). -/
def State.sameDomain (s : State) (a g : Nat) : Bool :=
  (s.dieOwner (granDie g)).isSome && (decide (16 ≤ reqNode a) || s.dieOwner (reqNode a) == s.dieOwner (granDie g))

/-- The requester has no request open for the granule, and its write-back buffer does not hold it. -/
def State.noRequest (s : State) (a g : Nat) : Bool := s.wantOf a g == 0 && !(s.copy a g).wb

/-- A caching agent sends a request of a kind, when it has none open for the granule: ReadShared and ReadOwn from I, once its cache has a way
for the granule (R262, R264); Upgrade from S or O. -/
def State.sendWant (s : State) (a g kind : Nat) (full : Bool) : State :=
  let c := s.copy a g
  if s.noRequest a g && (if kind = 3 then c.st == .s || c.st == .o else c.st == .i) then
    match if kind = 3 then (true, s) else s.agentWay a g with
    | (true, s) => (s.setCopy a g { s.copy a g with want := kind, full := full }).sendCoh (.request a g kind full)
    | (false, s) => s
  else s

/-- A non-caching agent sends a request, when it has none open for the granule. -/
def State.sendNc (s : State) (a g : Nat) (x : NcReq) : State :=
  if s.noRequest a g then
    ((if x.kind = 4 then s else s.openWrite a).setNc a g x).sendCoh (.request a g x.kind false)
  else s

/-- A request of a kind is sent and, when it may arrive, acted on at its home; one sent earlier arrives. -/
def State.requestRow (s : State) (a g kind : Nat) : State :=
  s.take (fun m => m == .request a g kind false || m == .request a g kind true) fun m s => s.deliver m

def effReadShared (a g : Nat) (s : State) : State :=
  if s.sameDomain a g then (s.sendWant a g 1 false).requestRow a g 1 else s
def execReadShared (a g : Nat) (s : State) : Out := runR (.readShared a g) s (effReadShared a g s)

/-- No caching agent writes a cellar region (R195): a ReadOwn of a granule there is not sent. -/
def effReadOwn (a g : Nat) (full : Bool) (s : State) : State :=
  if s.sameDomain a g && !s.granClosed g then (s.sendWant a g 2 full).requestRow a g 2 else s
def execReadOwn (a g : Nat) (full : Bool) (s : State) : Out := runR (.readOwn a g full) s (effReadOwn a g full s)

/-- Upgrade: the home treats it as a ReadOwn when the sender no longer holds the granule. -/
def effUpgrade (a g : Nat) (s : State) : State :=
  if s.sameDomain a g && !s.granClosed g then (s.sendWant a g 3 false).requestRow a g 3 else s
def execUpgrade (a g : Nat) (s : State) : Out := runR (.upgrade a g) s (effUpgrade a g s)

def effNoAllocRead (req g : Nat) (s : State) : State :=
  if s.sameDomain req g then (s.sendNc req g { kind := 4 }).requestRow req g 4 else s
def execNoAllocRead (req g : Nat) (s : State) : Out := runR (.noAllocRead req g) s (effNoAllocRead req g s)

def effWriteInv (req g mask : Nat) (d : Bytes) (s : State) : State :=
  if s.sameDomain req g && !s.barred req g then (s.sendNc req g { kind := 5, mask := mask, data := d }).requestRow req g 5 else s
def execWriteInv (req g : Nat) (mask : Word) (d : Bytes) (s : State) : Out :=
  runR (.writeInv req g mask d) s (effWriteInv req g mask.toNat d s)

def effAtomic (req g : Nat) (lanes : List AtomLane) (s : State) : State :=
  if s.sameDomain req g && !s.barred req g then (s.sendNc req g { kind := 6, lanes := lanes }).requestRow req g 6 else s
def execAtomic (req g : Nat) (lanes : List AtomLane) (s : State) : Out :=
  runR (.atomic req g lanes) s (effAtomic req g lanes s)

/-! ## Granules given up -/

/-- An agent that holds the granule in M or O, or in E, and waits for nothing gives it up. -/
def State.evict (s : State) (a g : Nat) (dirty : Bool) : State :=
  let c := s.copy a g
  let fits := if dirty then c.st == .m || c.st == .o else c.st == .e
  if fits && c.want == 0 && !c.wb then s.giveUp a g else s

def effWriteBack (a g : Nat) (s : State) : State :=
  (s.evict a g true).take (· == .writeBack a g) fun m s => s.deliver m
def execWriteBack (a g : Nat) (s : State) : Out := run (.writeBack a g) s (effWriteBack a g s)

def effEvictClean (a g : Nat) (s : State) : State :=
  (s.evict a g false).take (· == .evictClean a g) fun m s => s.deliver m
def execEvictClean (a g : Nat) (s : State) : Out := run (.evictClean a g) s (effEvictClean a g s)

/-! ## Messages from homes and owners -/

/-- The message arrives, when it is on its way and may. -/
def State.arrive (s : State) (p : CMsg → Bool) : State := s.take p fun m s => s.deliver m

def effFwdShared (o req g : Nat) (s : State) : State := s.arrive (· == .fwd 0 o req g)
def execFwdShared (o req g : Nat) (s : State) : Out := run (.fwdShared o req g) s (effFwdShared o req g s)
def effFwdOwn (o req g : Nat) (s : State) : State := s.arrive fun m => m == .fwd 1 o req g || m == .fwd 4 o req g
def execFwdOwn (o req g : Nat) (s : State) : Out := run (.fwdOwn o req g) s (effFwdOwn o req g s)
def effFwdSnoop (o req g : Nat) (s : State) : State := s.arrive (· == .fwd 2 o req g)
def execFwdSnoop (o req g : Nat) (s : State) : Out := run (.fwdSnoop o req g) s (effFwdSnoop o req g s)

def effInv (a g : Nat) (s : State) : State := s.arrive (· == .inv a g)
def execInv (a g : Nat) (s : State) : Out := run (.inv a g) s (effInv a g s)
def effRecall (a g : Nat) (s : State) : State := s.arrive (· == .recall a g)
def execRecall (a g : Nat) (s : State) : Out := run (.recall a g) s (effRecall a g s)

/-- Data with a granted state and bytes, from whichever node sent it. -/
def isData (a g grant : Nat) (b : Bytes) (m : CMsg) : Bool :=
  match m with
  | .data _ a' g' k d => a' == a && g' == g && k == grant && d == b
  | _ => false

def effData (a g grant : Nat) (b : Bytes) (s : State) : State := s.arrive (isData a g grant b)
def execData (a g grant : Nat) (b : Bytes) (s : State) : Out := run (.data a g grant b) s (effData a g grant b s)

def effInvAck (a g : Nat) (s : State) : State := s.arrive (· == .invAck a g)
def execInvAck (a g : Nat) (s : State) : Out := runR (.invAck a g) s (effInvAck a g s)

def effWbAck (a g : Nat) (sup : Bool) (s : State) : State := s.arrive (· == .wbAck a g sup)
def execWbAck (a g : Nat) (sup : Bool) (s : State) : Out := run (.wbAck a g sup) s (effWbAck a g sup s)

def isDone (a g : Nat) (m : CMsg) : Bool :=
  match m with
  | .done a' g' _ => a' == a && g' == g
  | _ => false

def effDone (req g : Nat) (s : State) : State := s.arrive (isDone req g)
def execDone (req g : Nat) (s : State) : Out := run (.done req g) s (effDone req g s)

def isNak (a g : Nat) (m : CMsg) : Bool :=
  match m with
  | .nak _ a' g' => a' == a && g' == g
  | _ => false

def effNak (a g : Nat) (s : State) : State := s.arrive (isNak a g)
def execNak (a g : Nat) (s : State) : Out := run (.nak a g) s (effNak a g s)

/-- The retry wait of a request is over: it is sent again. -/
def effNakRetry (a g dt : Nat) (s : State) : State :=
  let s := s.elapse dt
  let c := s.copy a g
  let r := s.nc a g
  if r.kind ≠ 0 then
    (if r.held && decide (r.retryAt ≤ s.eng) then (s.setNc a g { r with held := false }).sendCoh (.request a g r.kind false) else s)
  else if c.want ≠ 0 ∧ c.held ∧ c.retryAt ≤ s.eng then
    (s.setCopy a g { c with held := false }).sendCoh (.request a g c.want c.full)
  else s
def execNakRetry (a g dt : Nat) (s : State) : Out := runR (.nakRetry a g dt) s (effNakRetry a g dt s)

end Sys2Proof.Machine
end

