-- ==== Sys2Proof/Machine/Near.lean ====
section
/-!
DEFINITION. The near caches of units and clusters (R262, R266 to R268, R284): lines with valid and dirty bytes, allocation with tree
pseudo-LRU replacement, fills from the level above, and write-backs into the coherent domain. Caches 0 to 2047 are the units', 2048 + c the
clusters'.
-/

namespace Sys2Proof.Machine

open Sys2Proof

def clusterOf (u : Nat) : Nat := u / 4
def sliceOf (u : Nat) : Nat := u / 32
def clNear (c : Nat) : Nat := 2048 + c

def nearKey (cache line : Nat) : Nat := cache * 2 ^ 46 + line
def fullLine : Nat := 2 ^ 128 - 1

def State.nline (s : State) (cache line : Nat) : NLine := s.caches.near.fget (nearKey cache line) {}
def State.setNline (s : State) (cache line : Nat) (x : NLine) : State :=
  { s with caches := { s.caches with near := s.caches.near.fput (nearKey cache line) x {} } }

/-- Set index and ways (Table 10-1): PA[13:7] XOR PA[20:14] of 4 ways, PA[15:7] XOR PA[24:16] of 8. -/
def nearSet (cache line : Nat) : Nat :=
  if cache < 2048 then line % 128 ^^^ line / 128 % 128 else line % 512 ^^^ line / 512 % 512
def nearWayCount (cache : Nat) : Nat := if cache < 2048 then 4 else 8

def nearLv (cache : Nat) : Nat := if cache < 2048 then 2 else 3

def State.touchWay (s : State) (cache line w : Nat) : State :=
  let k := cache * 512 + nearSet cache line
  { s with caches := { s.caches with
      nearPlru := s.caches.nearPlru.fput k (plruTouch (nearLv cache) (s.caches.nearPlru.fget k 0) w) 0 } }

/-! ## Bytes of a line -/

/-- The bytes of `new` where the mask of 128 has a bit. -/
def mergeLine (old new : Bytes) (mask : Nat) : Bytes :=
  (List.range 128).map fun i => if bitOf mask i then new.getD i 0 else old.getD i 0

/-! ## Write-back (R268) -/

/-- The region slice that serves a near cache. -/
def nearSlice (cache : Nat) : Nat := if cache < 2048 then cache / 32 else (cache - 2048) / 8

/-- Writes of near caches that were not performed: why, the physical address, and the kernels that stored the bytes. -/
abbrev Lost : Type := List (MErr × Nat × List Nat)

/-- Dirty bytes of a line written into the coherent domain: merged into the slice's copy in M or E, else a WriteInv; the granules where the
write was not performed, because of uncorrectable data (R251), or in a cellar region or a closed boot image (R195, R451). -/
def State.domainPut (s : State) (sl line mask : Nat) (b : Bytes) (owners : List Nat) : Lost × State :=
  [0, 64].foldl (fun (bad, s) o =>
    let m := bitsOf mask o 64
    if m = 0 then (bad, s)
    else match s.decodePA (line * 128 + o) with
      | none => (bad, s)
      | some (k, a) =>
        let g := granKey k a
        let ag := sliceAgent sl
        let pa := line * 128 + o
        if s.inCellar k a || s.inBootImage pa then (bad ++ [(.closed, pa, owners)], s)
        else
          let s := s.settle g
          let c := s.copy ag g
          if c.st == .m || c.st == .e then
            (bad, (s.dieEnergy (sl / 4) (200 * 64)).setCopy ag g { c with st := .m, data := mergeMask c.data (b.drop o) m })
          else match (s.slotWrite k a .bulk (m == fullMask) pa pa).writeGran g m (b.drop o) with
            | (true, s) => (bad, s)
            | (false, s) => (bad ++ [(.uncorr, pa, owners)], s)) (([], s) : Lost × State)

/-- The dirty bytes of a cluster's line written back; the line stays, clean. -/
def State.wbCluster (s : State) (cl line : Nat) : Lost × State :=
  let x := s.nline (clNear cl) line
  if x.dirty = 0 then ([], s)
  else (s.setNline (clNear cl) line { x with dirty := 0, owners := [] }).domainPut (cl / 8) line x.dirty x.data x.owners

/-- A line of a cluster cache present in its set: touched, or allocated in an invalid way or in the victim's, whose dirty bytes go first. -/
def State.allocCluster (s : State) (cl line : Nat) : Lost × State :=
  let cache := clNear cl
  let key := cache * 512 + nearSet cache line
  let ws := s.caches.nearWays.fget key (List.replicate 8 0)
  let put := fun (s : State) (w : Nat) =>
    ({ s with caches := { s.caches with nearWays := s.caches.nearWays.fput key (ws.set w (line + 1)) (List.replicate 8 0) } }).touchWay
      cache line w
  if ws.contains (line + 1) then ([], s.touchWay cache line (ws.idxOf (line + 1)))
  else match (List.range 8).find? fun i => ws.getD i 0 == 0 || (s.nline cache (ws.getD i 0 - 1)).valid == 0 with
    | some w => ([], put s w)
    | none =>
      let w := plruVictim 3 (s.caches.nearPlru.fget key 0)
      let old := ws.getD w 0 - 1
      let (bad, s) := s.wbCluster cl old
      (bad, put (s.setNline cache old {}) w)

/-- Bytes that kernels stored put into a line, valid and dirty. -/
def NLine.put (x : NLine) (mask : Nat) (b : Bytes) (owners : List Nat) : NLine :=
  { data := mergeLine x.data b mask, valid := x.valid ||| mask, dirty := x.dirty ||| mask
    owners := owners.foldl (fun l k => if l.contains k then l else l ++ [k]) x.owners }

def State.storeCluster (s : State) (cl line mask : Nat) (b : Bytes) (owners : List Nat) : Lost × State :=
  let (bad, s) := s.allocCluster cl line
  (bad, s.setNline (clNear cl) line ((s.nline (clNear cl) line).put mask b owners))

/-- The dirty bytes of a unit's line written back into its cluster's cache. -/
def State.wbUnit (s : State) (u line : Nat) : Lost × State :=
  let x := s.nline u line
  if x.dirty = 0 then ([], s)
  else (s.setNline u line { x with dirty := 0, owners := [] }).storeCluster (clusterOf u) line x.dirty x.data x.owners

def State.allocUnit (s : State) (u line : Nat) : Lost × State :=
  let key := u * 512 + nearSet u line
  let ws := s.caches.nearWays.fget key (List.replicate 4 0)
  let put := fun (s : State) (w : Nat) =>
    ({ s with caches := { s.caches with nearWays := s.caches.nearWays.fput key (ws.set w (line + 1)) (List.replicate 4 0) } }).touchWay
      u line w
  if ws.contains (line + 1) then ([], s.touchWay u line (ws.idxOf (line + 1)))
  else match (List.range 4).find? fun i => ws.getD i 0 == 0 || (s.nline u (ws.getD i 0 - 1)).valid == 0 with
    | some w => ([], put s w)
    | none =>
      let w := plruVictim 2 (s.caches.nearPlru.fget key 0)
      let old := ws.getD w 0 - 1
      let (bad, s) := s.wbUnit u old
      (bad, put (s.setNline u old {}) w)

def State.storeUnit (s : State) (u line mask : Nat) (b : Bytes) (owners : List Nat) : Lost × State :=
  let (bad, s) := s.allocUnit u line
  (bad, s.setNline u line ((s.nline u line).put mask b owners))

/-! ## Kernel boundaries (R142 step 2, R143 step 2) -/

/-- The die of a near cache. -/
def nearDie (cache : Nat) : Nat := if cache < 2048 then cache / 128 else (cache - 2048) / 32

/-- Lines with dirty bytes of the near caches that `p` names: (cache, line). -/
def State.dirtyLines (s : State) (p : Nat → Bool) : List (Nat × Nat) :=
  (s.caches.near.filter fun (e : Nat × NLine) => e.2.dirty != 0 && p (e.1 / 2 ^ 46)).map fun e => (e.1 / 2 ^ 46, e.1 % 2 ^ 46)

/-- Every dirty byte of the units that `p` names goes to its cluster's cache. -/
def State.flushUnits (s : State) (p : Nat → Bool) : Lost × State :=
  (s.dirtyLines fun c => decide (c < 2048) && p c).foldl (fun (bad, s) (u, line) =>
    let (b, s) := s.wbUnit u line
    (bad ++ b, s)) (([], s) : Lost × State)

/-- Every dirty byte of the clusters that `p` names goes to the coherent domain. -/
def State.flushClusters (s : State) (p : Nat → Bool) : Lost × State :=
  (s.dirtyLines fun c => decide (2048 ≤ c) && p (c - 2048)).foldl (fun (bad, s) (c, line) =>
    let (b, s) := s.wbCluster (c - 2048) line
    (bad ++ b, s)) (([], s) : Lost × State)

/-- Every dirty byte of the near caches of a set of dies written back (R143 step 2). -/
def State.flushNear (s : State) (dies : List Nat) : Lost × State :=
  let (b, s) := s.flushUnits fun u => dies.contains (u / 128)
  let (c, s) := s.flushClusters fun k => dies.contains (k / 32)
  (b ++ c, s)

/-- Clean bytes of the near caches that `p` names dropped (R142 step 2, R126). -/
def State.dropClean (s : State) (p : Nat → Bool) : State :=
  { s with caches := { s.caches with
      near := (s.caches.near.map fun (e : Nat × NLine) =>
        if p (e.1 / 2 ^ 46) then (e.1, { e.2 with valid := e.2.valid &&& e.2.dirty
                                                  data := if e.2.dirty = 0 then [] else e.2.data }) else e).filter
        fun (e : Nat × NLine) => e.2 != {} } }

/-- The fault record of a write-back that could not be performed. -/
def State.lostRec (s : State) (e : MErr) (pa : Nat) : FRec :=
  { addr := pa, time := s.now, cause := if e = .closed then 0x08 else 0x10, agentKind := 9, agentIx := ((s.decodePA pa).map (·.1)).getD 0
    kind := 2, access := 2 }

/-- A fault of a kernel (R145): the first stops it and decides its final record, every one is recorded; cause 0 stands for a fault whose record
was dropped (R307). -/
def State.kernelFault (s : State) (id : Nat) (res : Result) (x : FRec) : State :=
  let k := s.kernel id
  let q := s.ringQueue k.ring
  if !k.live then s
  else if k.fault.isSome then if x.cause = 0 then s else s.postEvent q x
  else
    let s := s.stopGroups id
    let (w, s) := if x.cause = 0 then (false, s) else s.fqWrite q x
    s.setKernel id { s.kernel id with
      phase := .stopping, fault := some { res with faultRec := w }, frec := if w || x.cause == 0 then none else some x }

/-- The status of a kernel whose write-back was not performed. -/
def lostStatus (e : MErr) : Nat := if e = .closed then stRIGHTS else stUNCORR

/-- A write-back that was not performed (R251, R195): every live kernel that stored the bytes ends; with none, a record alone is written. -/
def State.loseStore (s : State) (p : Nat) (e : MErr) (pa : Nat) (owners : List Nat) : State :=
  match owners.filter fun k => (s.kernel k).live with
  | [] => s.postEvent p (s.lostRec e pa)
  | ks => ks.foldl (fun s k =>
      let x := s.kernel k
      s.kernelFault k { status := lostStatus e } { s.lostRec e pa with ring := some x.ring, pos := some x.pos, asid := x.asid }) s

def State.postLost (s : State) (p : Nat) (bad : Lost) : State := bad.foldl (fun s (e, pa, ks) => s.loseStore p e pa ks) s

/-- The first write-back of a kernel's own bytes that was not performed, and the others, with that kernel no longer among those to end. -/
def lostOf (id : Nat) (bad : Lost) : Option (MErr × Nat) × Lost :=
  let rest := fun (l : Lost) => l.map fun x => (x.1, x.2.1, x.2.2.filter (· != id))
  match bad.findIdx? fun x => x.2.2.contains id with
  | none => (none, bad)
  | some i => ((bad[i]?).map fun x => (x.1, x.2.1), rest (bad.take i) ++ ((rest ((bad.drop i).take 1)).filter fun x => x.2.2 != []) ++ rest (bad.drop (i + 1)))

end Sys2Proof.Machine
end

