-- ==== Sys2Proof/Machine/Keccak.lean ====
section
/-!
DEFINITION. The hash functions that the critical commands and boot release name: KECCAK-f[1600], SHAKE256, cSHAKE256 and KMAC256 of NIST SP
800-185, and the verification of an XMSS-SHAKE256_20_256 signature of NIST SP 800-208 (R439, R442, R451; notes/assumptions/12).
-/

namespace Sys2Proof.Machine

open Sys2Proof

/-! ## The permutation -/

def rotl64 (x n : Nat) : Nat := (x * 2 ^ n + x / 2 ^ (64 - n)) % 2 ^ 64

/-- Lane (x, y) of a state of 25 lanes, its coordinates taken modulo 5. -/
def lane (a : List Nat) (x y : Nat) : Nat := a.getD (x % 5 + 5 * (y % 5)) 0

/-- The state whose lane (x, y) is `g x y`. -/
def lanes (g : Nat → Nat → Nat) : List Nat := (List.range 25).map fun i => g (i % 5) (i / 5)

/-- θ: every lane takes in the parities of two columns. -/
def theta (a : List Nat) : List Nat :=
  let col := (List.range 5).map fun x => (List.range 5).foldl (fun p y => p ^^^ lane a x y) 0
  lanes fun x y => lane a x y ^^^ lane col (x + 4) 0 ^^^ rotl64 (lane col (x + 1) 0) 1

/-- ρ and π as one walk from lane (1, 0): at step t the lane is turned by (t + 1)(t + 2) / 2 bits and moves to (y, 2x + 3y), the next one. -/
def rhoPi (a : List Nat) : List Nat :=
  ((List.range 24).foldl (fun (w : List Nat × Nat × Nat) t =>
    let to_ := (w.2.2, (2 * w.2.1 + 3 * w.2.2) % 5)
    (w.1.set (to_.1 + 5 * to_.2) (rotl64 (lane a w.2.1 w.2.2) ((t + 1) * (t + 2) / 2 % 64)), to_)) (a, 1, 0)).1

/-- χ: each row is combined with the two lanes to its right. -/
def chi (a : List Nat) : List Nat := lanes fun x y => lane a x y ^^^ ((lane a (x + 1) y ^^^ (2 ^ 64 - 1)) &&& lane a (x + 2) y)

/-- The register that makes the round constants, x^8 + x^6 + x^5 + x^4 + 1, one step on. -/
def rcStep (q : Nat) : Nat := if bitOf q 7 then (2 * q) ^^^ 0x171 else 2 * q

/-- A round constant, whose bits 2^j − 1 are the register's next seven outputs, and the register after them. -/
def roundConst (q : Nat) : Nat × Nat :=
  (List.range 7).foldl (fun (w : Nat × Nat) j => (w.1 + w.2 % 2 * 2 ^ (2 ^ j - 1), rcStep w.2)) (0, q)

/-- KECCAK-f[1600]: 24 rounds, ι last in each. -/
def keccakF (a : List Nat) : List Nat :=
  ((List.range 24).foldl (fun (w : List Nat × Nat) _ =>
    let k := roundConst w.2
    let b := chi (rhoPi (theta w.1))
    (b.set 0 (lane b 0 0 ^^^ k.1), k.2)) (a, 1)).1

/-! ## The sponge with rate 136 -/

/-- A block of 136 bytes absorbed. -/
def absorb (a : List Nat) (blk : Bytes) : List Nat :=
  keccakF ((List.range 25).map fun i => if i < 17 then a.getD i 0 ^^^ fldB blk (8 * i) 8 else a.getD i 0)

/-- Padded message: suffix byte, zeros, and the final bit. -/
def padBytes (suffix : Nat) (m : Bytes) : Bytes :=
  let n := 136 - m.length % 136
  let p := if n = 1 then [BitVec.ofNat 8 (suffix + 0x80)] else BitVec.ofNat 8 suffix :: (zeroBytes (n - 2) ++ [(0x80 : Byte)])
  m ++ p

def absorbAll (a : List Nat) : Nat → Bytes → List Nat
  | 0, _ => a
  | k + 1, m => absorbAll (absorb a (m.take 136)) k (m.drop 136)

/-- `out` bytes (at most 136) of the sponge. -/
def sponge (suffix : Nat) (m : Bytes) (out : Nat) : Bytes :=
  let p := padBytes suffix m
  let a := absorbAll (List.replicate 25 0) (p.length / 136) p
  (a.flatMap fun x => leBytes 8 x).take out

/-- SHAKE256. -/
def shake256 (m : Bytes) (out : Nat) : Bytes := sponge 0x1F m out

/-! ## SP 800-185 -/

/-- Bytes of a number, most significant first, at least one. -/
def beMin (x : Nat) : Bytes := (leBytes (max 1 ((Nat.log2 x + 8) / 8)) x).reverse
def leftEncode (x : Nat) : Bytes := let b := beMin x; BitVec.ofNat 8 b.length :: b
def rightEncode (x : Nat) : Bytes := let b := beMin x; b ++ [BitVec.ofNat 8 b.length]
def encodeString (b : Bytes) : Bytes := leftEncode (8 * b.length) ++ b
def bytepad136 (b : Bytes) : Bytes :=
  let x := leftEncode 136 ++ b
  x ++ zeroBytes ((136 - x.length % 136) % 136)
def ascii (t : String) : Bytes := t.toList.map fun c => BitVec.ofNat 8 c.toNat

/-- KMAC256 with an output of `bits` bits. -/
def kmac256 (key m : Bytes) (bits : Nat) (custom : String) : Bytes :=
  sponge 0x04 (bytepad136 (encodeString (ascii "KMAC") ++ encodeString (ascii custom)) ++ bytepad136 (encodeString key) ++ m ++
    rightEncode bits) (bits / 8)

/-! ## XMSS-SHAKE256_20_256 -/

def beBytes (n x : Nat) : Bytes := (leBytes n x).reverse
def xorBytes (a b : Bytes) : Bytes := List.zipWith (· ^^^ ·) a b

/-- The hash address: type and its three words, with the key-and-mask word. -/
def xAdrs (typ a b c km : Nat) : Bytes := zeroBytes 12 ++ beBytes 4 typ ++ beBytes 4 a ++ beBytes 4 b ++ beBytes 4 c ++ beBytes 4 km

def xF (key m : Bytes) : Bytes := shake256 (beBytes 32 0 ++ key ++ m) 32
def xH (key m : Bytes) : Bytes := shake256 (beBytes 32 1 ++ key ++ m) 32
def xPrf (seed adrs : Bytes) : Bytes := shake256 (beBytes 32 3 ++ seed ++ adrs) 32

/-- A WOTS+ chain from step `i`, `k` steps. -/
def xChain (seed : Bytes) (leaf chain : Nat) : Nat → Nat → Bytes → Bytes
  | 0, _, x => x
  | k + 1, i, x =>
    let key := xPrf seed (xAdrs 0 leaf chain i 0)
    let bm := xPrf seed (xAdrs 0 leaf chain i 1)
    xChain seed leaf chain k (i + 1) (xF key (xorBytes x bm))

def xRandHash (seed : Bytes) (typ a b c : Nat) (l r : Bytes) : Bytes :=
  let key := xPrf seed (xAdrs typ a b c 0)
  let m0 := xPrf seed (xAdrs typ a b c 1)
  let m1 := xPrf seed (xAdrs typ a b c 2)
  xH key (xorBytes l m0 ++ xorBytes r m1)

/-- One level of an L-tree: neighbours hashed, an odd last node carried up. -/
def xPairs (seed : Bytes) (leaf height : Nat) : Nat → List Bytes → List Bytes
  | i, l :: r :: t => xRandHash seed 1 leaf height i l r :: xPairs seed leaf height (i + 1) t
  | _, t => t

/-- The root of an L-tree of at most 2^fuel nodes. -/
def xLtree (seed : Bytes) (leaf : Nat) : Nat → Nat → List Bytes → Bytes
  | 0, _, l => l.headD []
  | k + 1, h, l => if l.length ≤ 1 then l.headD [] else xLtree seed leaf k (h + 1) (xPairs seed leaf h 0 l)

/-- Base-16 digits, high nibble first. -/
def xDigits (b : Bytes) : List Nat := b.flatMap fun x => [x.toNat / 16, x.toNat % 16]

/-- The path from a leaf to the root. -/
def xPath (seed : Bytes) (idx : Nat) : Nat → List Bytes → Bytes → Bytes
  | _, [], node => node
  | k, a :: t, node =>
    let up := idx / 2 ^ (k + 1)
    let n := if idx / 2 ^ k % 2 = 0 then xRandHash seed 2 0 k up node a else xRandHash seed 2 0 k up a node
    xPath seed idx (k + 1) t n

/-- Whether `sig` (2,820 bytes) is a signature of `m` under the 68-byte public key. -/
def xmssVerify (pk sig m : Bytes) : Bool :=
  let oid := sliceB pk 0 4
  let root := sliceB pk 4 32
  let seed := sliceB pk 36 32
  let idx := leNat (sliceB sig 0 4).reverse
  let r := sliceB sig 4 32
  let digest := shake256 (beBytes 32 2 ++ r ++ root ++ beBytes 32 idx ++ m) 32
  let d := xDigits digest
  let csum := d.foldl (fun n x => n + (15 - x)) 0
  let digits := d ++ (xDigits (beBytes 2 (csum * 16))).take 3
  let ends := digits.zipIdx.map fun (x, i) => xChain seed idx i (15 - x) x (sliceB sig (36 + 32 * i) 32)
  let leaf := xLtree seed idx 7 0 ends
  let auth := (List.range 20).map fun i => sliceB sig (36 + 67 * 32 + 32 * i) 32
  decide (oid = beBytes 4 0x12) && decide (idx < 2 ^ 20) && decide (sig.length = 2820) &&
    decide (xPath seed idx 0 auth leaf = root)

end Sys2Proof.Machine
end

