-- ==== Sys2Proof/Machine/Start.lean ====
section
/-!
DEFINITION. How a ring command starts and ends (R89, R90, R96, R98, R482): the start conditions, the checks of the header in their order, the
translation of FLAG_ADDR, flushing reads (R326, R328), records and flags.
-/

namespace Sys2Proof.Machine

open Sys2Proof

/-! ## Ring structures (R78) -/

/-- A place of a ring's own structures: physical module memory of the ring's partition, or host memory behind its port. -/
def State.ringLoc (s : State) (r addr : Nat) : Loc :=
  match s.f .RING_CTRL_LOC r with
  | 0 => .phys (s.ringPart r) addr
  | k + 1 => .host k addr

def State.ringSlots (s : State) (r : Nat) : Nat := 2 ^ s.f .RING_CTRL_SLOTS_LOG2 r
def State.ringBase (s : State) (r : Nat) : Nat := s.f .RING_BASE_ADDR r * 64
def State.ringProd (s : State) (r : Nat) : Nat := s.f .RING_PROD_ADDR r * 8
def State.ringCons (s : State) (r : Nat) : Nat := s.f .RING_CONS_ADDR r * 8
def State.ringCpl (s : State) (r : Nat) : Nat := s.f .RING_CPL_ADDR r * 64

/-- Address of the completion record of a position. -/
def State.recAddr (s : State) (r pos : Nat) : Nat := s.ringCpl r + 32 * (pos % s.ringSlots r)

/-- The 32 bytes of a completion record (Table 3-3). -/
def recordBytes (e : Entry) (x : Result) : Bytes :=
  leBytes 8 e.pos ++ leBytes 8 x.result ++ leBytes 4 (e.hdr 4 4) ++ leBytes 4 x.detail ++
    leBytes 8 (x.status + x.sub * 2 ^ 8 + x.vis * 2 ^ 16 + b2n x.faultRec * 2 ^ 24 + b2n e.retried * 2 ^ 25 +
      (e.pos + 1) % 2 ^ 32 * 2 ^ 32)

/-- Writes a record, bytes 0 to 23 before the completion word; a record for a lost host port is not written (R109). One that cannot be written to
module memory is dropped: DESIGN CHOICE, notes/assumptions/62. -/
def State.writeRecord (s : State) (r : Nat) (e : Entry) (x : Result) : State :=
  let a := s.recAddr r e.pos
  let b := recordBytes e x
  let s := (s.writeLoc (s.ringLoc r a) .narrow (b.take 24)).2
  (s.writeLoc (s.ringLoc r (a + 24)) .narrow (b.drop 24)).2

/-- Writes RING_DONEr to the consumer word (R81). -/
def State.writeCons (s : State) (r : Nat) : State :=
  (s.writeLoc (s.ringLoc r (s.ringCons r)) .narrow (leBytes 8 (s.f .RING_DONE_POS r))).2

/-! ## Flushing reads (R326, R328) -/

/-- The port through which a location is host memory. -/
def Loc.port? : Loc → Option Nat
  | .host k _ => some k
  | _ => none

/-- The port and bus address of a location in host memory. -/
def Loc.hostAt? : Loc → Option (Nat × Nat)
  | .host k a => some (k, a)
  | _ => none

/-- Notes that a command of a ring wrote host memory at an address. -/
def State.noteHostW (s : State) (r : Nat) (l : Loc) : State :=
  match l with
  | .host k a => { s with lastHostW := s.lastHostW.fput (2 * r + k) (a + 1) 0 }
  | _ => s

/-- Flushing reads that wait are sent, to the addresses last written, while the port has a free tag of its 1,024 (Table 12-3). -/
def State.pumpReads (s : State) (k : Nat) : Nat → State
  | 0 => s
  | n + 1 =>
    let x := s.port k
    match x.queued, (List.range 1024).find? fun t => !(x.reads.map (·.1)).contains t with
    | (r, pos, a) :: l, some tag =>
      let s := s.setPort k { x with queued := l, reads := x.reads.fput tag ⟨r, pos, true, s.eng, a⟩ ⟨r, pos, false, 0, 0⟩ }
      ({ s with out := { s.out with pcie := (k, tag, a) :: s.out.pcie } }).pumpReads k n
    | _, _ => s

/-- Sends a zero-length read for a command on each port given, to the address given with it. -/
def State.sendFlush (s : State) (r pos : Nat) (ports : List (Nat × Nat)) : State :=
  ports.foldl (fun s (k, a) =>
    if !s.portOk k then (s.endWith r pos stHOSTLOST (s.port k).lastEvent).incF .PCI_LOST_COMMANDS k
    else
      ((s.setPort k { s.port k with queued := (s.port k).queued ++ [(r, pos, a)] }).pumpReads k 1).modEntry r pos fun e =>
        { e with flush := e.flush ++ [k] }) s

/-- The ports on which a SCOPE asks for a flush, with the address last written: those it names, or both when it names AGENTS, where the ring has
written (R328). -/
def State.scopePorts (s : State) (r scope : Nat) : List (Nat × Nat) :=
  ([0, 1].filter fun k => (bitOf scope k || bitOf scope 3) && s.lastHostW.fget (2 * r + k) 0 != 0).map fun k =>
    (k, s.lastHostW.fget (2 * r + k) 0 - 1)

/-! ## Writes through a window (R374, Table 14-5) -/

/-- The W_WRITE requests of a write: whole units unmasked up to 256 bytes in one 256-byte block, the rest masked in chunks of 128 bytes:
(offset in the data, packet offset, masked, packet data). -/
def windowChunks (off : Nat) (data : Bytes) : Nat → Nat → List (Nat × Nat × Bool × Bytes)
  | 0, _ => []
  | fuel + 1, i =>
    if data.length ≤ i then []
    else
      let a := off + i
      let room := 256 - a % 256
      let n := min room (data.length - i)
      if a % 16 = 0 && n % 16 = 0 then (i, a, false, sliceB data i n) :: windowChunks off data fuel (i + n)
      else
        let a0 := a / 16 * 16
        let n := min n (128 - a % 16)
        let len := divUp (a % 16 + n) 16 * 16
        let mask := (2 ^ n - 1) * 2 ^ (a % 16)
        (i, a0, true, leBytes 16 mask ++ sliceB (zeroBytes (a % 16) ++ sliceB data i n) 0 len) :: windowChunks off data fuel (i + n)

/-- Sends a write through a window; `last` marks the last packet of a remote copy message, `place` is that of its first byte in a transfer. -/
def State.sendWrites (s : State) (h : Nat) (l : Loc) (last : Bool) (data : Bytes) (w : RWait) (va : Nat)
    (place : Option (Nat × Nat) := none) : State :=
  match l with
  | .remote nd win off flow =>
    let cs := windowChunks off data (data.length + 1) 0
    (cs.zipIdx).foldl (fun s ((i, a, m, d), k) =>
      s.sendReq h (.remote nd win a flow) 2 d.length 0 (last && k + 1 == cs.length) m d w none (va + i) 0
        (place.map fun (o, n) => (o + i, n))) s
  | _ => s

/-! ## Opcode table (Table 3-2) -/

/-- Whether partition rings and module rings accept an opcode; `none` for an opcode absent from the table. -/
def ringKinds (op : Nat) : Option (Bool × Bool) :=
  if [0x00, 0x01, 0x02, 0x03, 0x04, 0x11, 0x28, 0x29, 0x2A, 0x30, 0x31, 0x84, 0x87, 0x88].contains op then some (true, true)
  else if [0x08, 0x09, 0x10, 0x12, 0x13, 0x18, 0x19, 0x1A, 0x1B, 0x1C, 0x20, 0x21, 0x22, 0x32, 0x38].contains op then some (true, false)
  else if [0x80, 0x81, 0x82, 0x83, 0x85, 0x86].contains op then some (false, true)
  else none

/-- The BODY that an opcode has (R482). -/
def Entry.slotsOk (e : Entry) : Bool :=
  let n := e.slots
  match e.op with
  | 0x00 => true
  | 0x11 => n == 1 + divUp (e.body 8 2) 64
  | 0x1C => n == 2
  | 0x29 => n == (if bitOf (e.body 19 1) 0 then 4 else 1)
  | _ => n == 1

/-- Header bytes are all zero. -/
def Entry.hzero (e : Entry) (lo n : Nat) : Bool := (sliceB e.pkt lo n).all (· == 0)

/-- Step 4 of R482 holds: reserved header fields zero, BODY right, FLAG_ADDR aligned. -/
def Entry.headerOk (e : Entry) : Bool :=
  let critical := decide (0x80 ≤ e.op)
  decide (e.hdr 1 1 < 16) && decide (e.hdr 2 2 < 8) &&
    (if e.flagEn then e.hdr 8 8 % 8 == 0 else e.hzero 8 16) &&
    (if critical then decide (e.hdr 24 1 < 16) else e.hzero 24 1 && e.hzero 32 24) &&
    e.hzero 25 7 && e.hzero 56 8 && e.slotsOk

/-- Steps 2 to 4 of R482: the status of the first check that fails. -/
def State.headCheck (s : State) (r : Nat) (e : Entry) : Option Nat :=
  match ringKinds e.op with
  | none => some stPARAM
  | some (p, m) =>
    if s.ringModule r && !m then some stPARAM
    else if !s.ringModule r && !p then some stRIGHTS
    else if !e.headerOk then some stPARAM
    else none

/-! ## Start (R96) -/

/-! ## The order of skipped actions (R51) -/

/-- The System Time of the action that a waiting command still has to begin: WAIT_TIME, LAUNCH_AT, COUNTER_SET or COUNTER_SNAP. -/
def State.actionTime (s : State) (r : Nat) (e : Entry) : Option Nat :=
  let at_ := fun (kind k deal : Nat) =>
    if kind = 0 then some deal
    else
      let c := s.sched (schedKey (s.ringSet r) k)
      if c.defined then some (c.boundary deal) else none
  if !e.active || !s.hubWorks (s.ringHub r) then none
  else if e.op = 0x04 then some (e.body 0 8)
  else if e.op = 0x09 && e.phase == 1 then at_ (e.body 40 1) (e.body 41 1) (e.body 32 8)
  else if (e.op == 0x29 || e.op == 0x2A) && e.phase == 0 then
    match s.ctrOps.find? fun o => o.ring == r && o.pos == e.pos with
    | some o => at_ (e.body 20 1) (e.body 21 1) (e.body 0 8 + (if e.body 20 1 = 0 then 0 else o.done))
    | none => none
  else none

/-- The boundary at which a ring's scan is due and has not begun. -/
def State.scanTime (s : State) (r : Nat) : Option Nat :=
  let c := s.sched (schedKey (s.ringSet r) (s.f .RING_CTRL_SCHEDULE r))
  if s.fb .RING_CTRL_ENABLE r && s.f .RING_CTRL_SCAN r == 1 && !s.fb .RING_STATUS_HOST_STOPPED r && s.hubWorks (s.ringHub r) &&
      (s.ring r).scan == .idle && c.due s.now (s.ring r).nextDeal then (c.current s.now).map c.boundary else none

/-- Reservation r of port p is in force; its schedule. -/
def State.resValid (s : State) (p r : Nat) : Bool := s.fb .TLS_RES_FLOW_VALID (resIx p r)
def State.resSched (s : State) (p r : Nat) : Sched :=
  s.sched (schedKey (s.f .TLS_RES_FLOW_PART (resIx p r)) (s.f .TLS_RES_FLOW_SCHEDULE (resIx p r)))

/-- The deal whose slot of a reservation is due and has not opened (R378). -/
def State.slotDeal (s : State) (p r : Nat) : Option Nat :=
  let x := s.resvOf (resIx p r)
  let c := s.resSched p r
  let off := s.f .TLS_RES_OFFSET_NS (resIx p r)
  if !s.resValid p r || !s.hubWorks (p / 4) || x.openUntil.isSome || s.now < off then none
  else (c.current (s.now - off)).filter fun k =>
    decide (x.firstDeal ≤ k) && decide (x.nextDeal ≤ k) && decide (x.since < c.boundary k) && (x.count == 0 || decide (k < x.firstDeal + x.count))

/-- When that slot opens. -/
def State.slotTime (s : State) (p r : Nat) : Option Nat :=
  (s.slotDeal p r).map fun k => (s.resSched p r).boundary k + s.f .TLS_RES_OFFSET_NS (resIx p r)

/-- The boundary at which a stack's retraining window is due (R257) and has not begun. -/
def State.memWinTime (s : State) (k : Nat) : Option Nat :=
  (s.dieOwner (k / 2)).bind fun p =>
    let c := s.sched (schedKey p (s.f .MEM_CTRL_SCHEDULE k))
    if s.fb .MEM_CTRL_WIN_SCHED k && s.fb .MEM_STATUS_PENDING k && !s.fb .MEM_STATUS_WINDOW k && !s.fb .MEM_STATUS_STOPPED k &&
        !(s.stack k).failed && !s.fb .MEM_STATUS_SELF_REFRESH k && !s.napping k && c.due s.now (s.stack k).nextDeal then
      (c.current s.now).map c.boundary else none

/-- The boundary at which a Corox window is due (R345) and has not begun. -/
def State.crxWinTime (s : State) (e : Nat) : Option Nat :=
  let c := s.sched (schedKey 16 (s.f .CRX_CTRL_SCHEDULE e))
  if (s.f .CRX_STATUS_STATE e == 2 || s.f .CRX_STATUS_STATE e == 4) && s.fb .CRX_STATUS_PENDING e && !(s.crxE e).forced &&
      s.fb .CRX_CTRL_WIN_SCHED e && c.due s.now (s.crxE e).nextDeal && !s.crxBlocked e && (crxEnds e).all s.endPartWorks then
    (c.current s.now).map c.boundary else none

/-- The last step forward skipped the time u. -/
def State.skipped (s : State) (u : Nat) : Bool := decide (s.time.skipFrom < u) && decide (u ≤ s.time.skipTo)

/-- No action that the last step forward skipped, and that has not begun, stands before time t: actions of the skipped interval begin in
the order of their times. -/
def State.inOrder (s : State) (t : Nat) : Bool :=
  let before := fun (x : Option Nat) => x.any fun u => s.skipped u && decide (u < t)
  !s.skipped t ||
    (s.openCmds.all (fun (r, e) => !before (s.actionTime r e)) && (List.range 256).all (fun r => !before (s.scanTime r)) &&
      (List.range 256).all (fun i => !before (s.slotTime (i / 16) (i % 16))) && (List.range 32).all (fun k => !before (s.memWinTime k)) &&
      (List.range 176).all fun e => !before (s.crxWinTime e))

/-! ## The mode of a launch (R71, R72) -/

/-- Units of a partition's working dies. -/
def State.partUnits (s : State) (p : Nat) : List Nat :=
  ((s.partDies p).filter s.dieWorks).flatMap fun n => (List.range 128).map fun v => 128 * n + v

/-- The epochs of a partition whose effect time has come by time t, in order, as far as no earlier one is still ahead (R72). -/
def State.effectiveAt (s : State) (p t : Nat) : List Epoch := (s.modeOf p).epochs.takeWhile fun x => decide (x.effect ≤ t)
def State.effective (s : State) (p : Nat) : List Epoch := s.effectiveAt p s.now

/-- The epoch and mode under which a kernel launched at time t runs (R71): the last whose EFFECT_TIME has come, or what the partition's units
hold. -/
def State.launchMode (s : State) (p t : Nat) : Nat × Nat :=
  let m := s.modeOf p
  match (s.effectiveAt p t).getLast?, m.epochs, s.partUnits p with
  | some x, _, _ => (x.epoch, x.mode)
  | none, x :: _, u :: _ => (x.epoch - 1, s.f .TIME_EPOCH_MODE u)
  | none, _, _ => (m.last, m.lastMode)

/-! ## Starting -/

/-- A command that counts as started: RUNNING or FINISHED, or ended at acceptance (R93). -/
def Entry.started (e : Entry) : Bool := e.st == .running || e.st == .finished || (e.st == .accepted && e.res.isSome)

/-- WAIT_FLAG and WAIT_TIME hold later commands while they run. -/
def Entry.isWait (e : Entry) : Bool := e.op == 0x03 || e.op == 0x04

/-- FENCE and SIGNAL behave as ORDERED. -/
def Entry.isOrdered (e : Entry) : Bool := e.ordered || e.op == 0x01 || e.op == 0x02

/-- The entry may start now, or, waiting on a translation, be tried again. -/
def State.canStart (s : State) (r : Nat) (e : Entry) : Bool :=
  let before := (s.ring r).entries.takeWhile fun x => x.pos != e.pos
  s.hubWorks (s.ringHub r) && e.res.isNone && e.stall.isNone &&
    ((e.st == .running && e.phase == 9 && !s.tagHeld r e.pos) ||
      (e.st == .accepted && before.all (·.started) &&
        decide (((s.ring r).entries.filter fun x => x.st == .running).length < 64) &&
        !(before.any fun x => x.isWait && x.st == .running) &&
        (!e.isOrdered || before.all fun x => x.st == .finished)))

/-- The entry marked RUNNING, with the times, the number and the mode of its start. -/
def State.markRunning (s : State) (r pos : Nat) : State :=
  State.modEntry { s with nextKernel := s.nextKernel + 1 } r pos fun (e : Entry) =>
    if e.st == .running then { e with phase := 0 }
    else
      let m := s.launchMode (s.ringPart r) s.now
      { e with st := .running, phase := 0, startAt := s.eng, pollAt := s.eng, startNo := s.nextKernel, epoch := m.1, mode := m.2 }

/-- The entry with the translation of FLAG_ADDR held. -/
def Entry.holdFlag (e : Entry) (h : Held) : Entry := { e with flag := some h }

/-- Step 5 of R482: FLAG_ADDR translated with write right and held; `body` runs when it holds. -/
def State.withFlag (s : State) (r pos : Nat) (e : Entry) (body : State → Entry → State) : State :=
  if !e.flagEn || e.flag.isSome then body s e
  else
    let va := e.hdr 8 8
    match s.cmdXlate (s.cmdCache r) r va 2 with
    | (.ok l, s) =>
      let h := s.holdOf r va l
      body (s.modEntry r pos fun e => e.holdFlag h) (e.holdFlag h)
    | (x, s) => s.failXlate r pos x va 2 7 (s.hubAgent r)

/-- Starts the command (r, pos) with opcode `op` when R96 lets it: the checks of the header, FLAG_ADDR, then `body`. -/
def State.startCmd (s : State) (r pos op : Nat) (body : State → Entry → State) : State :=
  match s.entry? r pos with
  | none => s
  | some e =>
    if e.op = op && s.canStart r e then
      let s := s.markRunning r pos
      match s.headCheck r e with
      | some st => s.endWith r pos st
      | none => s.withFlag r pos e body
    else s

/-- Starts a command whose body has no fields checked outside `body`; reserved fields that must be zero are given as (offset, size). -/
def State.startBody (s : State) (r pos op : Nat) (reserved : Entry → Bool) (body : State → Entry → State) : State :=
  s.startCmd r pos op fun s e => if reserved e then body s e else s.endWith r pos stPARAM

/-! ## The end of a command (R89, R94, R326) -/

/-- The flag's value for a final status (R89). -/
def flagValue (e : Entry) (st : Nat) : Nat :=
  let v := e.hdr 16 8
  if st = stDONE || st = stREPLAYED then v else v ^^^ 2 ^ 63

/-- Writes the flag of a command that has ended. The result and the host place the flag went to are answered; nothing while its dropped
translation waits on a service request, while it is on its way through a window, or when the write failed and its fault record comes first. -/
def State.writeFlag (s : State) (r pos : Nat) (e : Entry) (x : Result) : Option (Result × Option (Nat × Nat)) × State :=
  match e.flag with
  | none => (some (x, none), s)
  | some h =>
    let ok := x.status == stDONE || x.status == stREPLAYED
    let lose := fun (s : State) (st cause kind addr access : Nat) =>
      ((none : Option (Result × Option (Nat × Nat))), s.failFlag r pos st (s.cmdRec r pos cause kind addr access 7 (s.hubAgent r)))
    match s.useHeld (s.cmdCache r) h 2 with
    | (.ok l, s) =>
      let data := leBytes 8 (flagValue e x.status)
      match s.writeLoc l .narrow data with
      | (none, s) => (some (x, l.hostAt?), s.noteHostW r l)
      | (some .remote, s) =>
        (none, (s.modEntry r pos fun e => { e with sent := true }).sendWrites (s.ringHub r) l false data (.flag r pos) h.va)
      | (some (.host k), s) =>
        if ok then (some ({ x with status := stHOSTLOST, result := 0, detail := (s.port k).lastEvent }, none),
          s.incF .PCI_LOST_COMMANDS k) else (some (x, none), s)
      | (some (.mem .uncorr pa), s) => lose s stUNCORR 0x10 2 pa 2
      | (some (.mem .closed pa), s) => lose s stRIGHTS 0x08 2 pa 2
      | (some (.mem _ pa), s) => lose s stRIGHTS 0x09 2 pa 2
    | (.fail st cause, s) => lose s st cause 1 h.va 2
    | (.uncorr pa, s) => lose s stUNCORR 0x10 2 pa 1
    | (.wait n tag, s) => (none, s.svcWait n tag (some (r, pos)) none h.va 2)

end Sys2Proof.Machine
end

