-- ==== Sys2Proof/Machine/Rings.lean ====
section
/-!
DEFINITION. Ring processing (chapter 3): scans, packet fetch and the checks of critical commands before acceptance (R439, R440, R444), the
tally, finishing and delivery, and the generic commands.
-/

namespace Sys2Proof.Machine

open Sys2Proof

/-! ## Tally accounting (R95) -/

/-- OPEN and DRAINED follow the entries of the ring. -/
def State.syncRing (s : State) (r : Nat) : State :=
  let n := ((s.ring r).entries.filter fun e => e.st != .written).length
  (s.setF .RING_STATUS_OPEN r n).setF .RING_STATUS_DRAINED r (b2n (n == 0))

/-- Entries of a ring that have not been released: DELIVERED ones wait for their mirror (R94). -/
def Ring.held (x : Ring) : Nat := x.entries.length + x.delivered.length

/-- Tally entries a hub holds, primary and mirror (RING_HUB.TALLY_USED). -/
def State.tallyUsed (s : State) (h : Nat) : Nat :=
  s.rings.foldl (fun n (r, x) =>
    n + (if s.ringHub r = h then x.held else 0) + (if s.ringMirror r = some h then x.held else 0)) 0

/-- The hub has reached its limit of 65,536 entries. -/
def State.hubFull (s : State) (h : Nat) : Bool := decide (65536 ≤ s.tallyUsed h)

/-- A limit of R95 holds the acceptance of the ring: its own of 4,096 commands, or that of its acting hub or its mirror. -/
def State.tallyFull (s : State) (r : Nat) : Bool :=
  decide (4096 ≤ s.f .RING_STATUS_OPEN r) || s.hubFull (s.ringHub r) || (s.ringMirror r).any s.hubFull

/-- TALLY_WAIT shows whether acceptance of an enabled ring is paused. -/
def State.syncWait (s : State) (r : Nat) : State :=
  s.setF .RING_STATUS_TALLY_WAIT r (b2n (s.fb .RING_CTRL_ENABLE r && s.tallyFull r))

/-- TALLY_FULL counts the hubs that have reached their limit since `old`; TALLY_WAIT follows on ring r, and on every ring when a hub has come
to its limit or left it (R110; what one count is: DESIGN CHOICE, notes/assumptions/63). -/
def State.tallySync (s : State) (old : State) (r : Nat) : State :=
  let came := (List.range 4).filter fun h => s.hubFull h && !old.hubFull h
  let left := (List.range 4).filter fun h => old.hubFull h && !s.hubFull h
  let s := came.foldl (fun s h => s.incF .RING_HUB_TALLY_FULL h) s
  if came.isEmpty && left.isEmpty then s.syncWait r else (List.range 256).foldl State.syncWait s

/-- A partition whose rings accept nothing: resetting, stopped, or its tally lost (R254, R434). -/
def State.partStopped (s : State) (p : Nat) : Bool :=
  s.f .RST_PART_STATE p == 2 || s.f .RST_PART_STATE p == 3 || s.f .RST_PART_STATE p == 5

/-- The tally set of a ring: its partition's, or 16 and 17 for the module rings of port 0 and 1. -/
def State.tallySet (s : State) (r : Nat) : Nat := if s.ringModule r then 16 + s.ringPort r else s.ringPart r

/-- The ring scans and accepts: enabled, not stopped by a lost port, its partition running. -/
def State.ringOn (s : State) (r : Nat) : Bool :=
  s.fb .RING_CTRL_ENABLE r && !s.fb .RING_STATUS_HOST_STOPPED r && (s.ringModule r || !s.partStopped (s.ringPart r))

/-- What the ring does is held for now: its hub is not working, or copies the ring's entries to a new mirror (R434). -/
def State.ringHeld (s : State) (r : Nat) : Bool :=
  !s.hubWorks (s.ringHub r) || s.rst.copying.fget (s.tallySet r) 99 != 99

/-! ## Scanning (R84, R85, R79, R481) -/

def State.setScan (s : State) (r : Nat) (x : Scan) : State := s.setRing r { s.ring r with scan := x }

/-- A scan time has come (R84). -/
def State.scanDue (s : State) (r : Nat) : Bool :=
  match s.f .RING_CTRL_SCAN r with
  | 1 => (s.sched (schedKey (s.ringSet r) (s.f .RING_CTRL_SCHEDULE r))).due s.now (s.ring r).nextDeal
  | 2 => decide ((s.ring r).lastRead + s.f .RING_CTRL_GAP r ≤ s.eng)
  | _ => false

def effRingScan (r dt : Nat) (s : State) : State :=
  let s := s.elapse dt
  if s.ringOn r && !s.ringHeld r && s.scanDue r && (s.ring r).scan == .idle &&
      (s.scanTime r).all s.inOrder then
    let c := s.sched (schedKey (s.ringSet r) (s.f .RING_CTRL_SCHEDULE r))
    s.setRing r { s.ring r with scan := .reading 0, nextDeal := c.after s.now }
  else s
def execRingScan (r dt : Nat) (s : State) : Out := run (.ringScan r dt) s (effRingScan r dt s)

/-- A failed read of a ring structure (R481): the scan ends; uncorrectable module data writes a fault record. -/
def State.ringReadFail (s : State) (r : Nat) (e : AErr) : State :=
  let s := (s.setScan r .idle).setRing r { (s.setScan r .idle).ring r with lastRead := s.eng }
  match e with
  | .mem .uncorr pa =>
    s.postEvent (s.ringQueue r)
      { addr := pa, time := s.now, ring := some r, cause := 0x10, agentKind := 7, agentIx := s.ringHub r, kind := 2, access := 1 }
  | _ => s

def effProducerRead (r dt : Nat) (s : State) : State :=
  let s := s.elapse dt
  match (s.ring r).scan with
  | .reading prev =>
    if !s.ringOn r || s.f .RING_CTRL_SCAN r = 0 then s.setScan r .idle
    else if s.ringHeld r then s
    else
      let s := s.incF .RING_STATUS_SCANS r
      match s.readLoc (s.ringLoc r (s.ringProd r)) .narrow 8 with
      | (.error e, s) => s.ringReadFail r e
      | (.ok b, s) =>
        let v := leNat b
        let acc := s.f .RING_ACCEPT_POS r
        let s := s.setRing r { s.ring r with scan := .idle, lastRead := s.eng }
        if v < acc || s.f .RING_DONE_POS r + s.ringSlots r < v then s.setF .RING_STATUS_PROD_ERR r 1
        else if max acc prev < v then s.setScan r (.fetching v)
        else s
  | _ => s
def execProducerRead (r dt : Nat) (s : State) : Out := runR (.producerRead r dt) s (effProducerRead r dt s)

/-! ## Checks before acceptance (R439, R440, R444) -/

def State.keySlot (s : State) (i : Nat) : KeySlot := s.keeper.slots.getD i {}

/-- The module is CLAIMED: some slot is INSTALLED (R438). -/
def State.claimed (s : State) : Bool := s.keeper.slots.any fun k => k.state == 1

/-- X of R439. -/
def State.authText (s : State) (e : Entry) : Bytes :=
  leBytes 8 s.fuse.serial ++ sliceB e.pkt 0 40 ++ sliceB e.pkt 56 8 ++ e.pkt.drop 64

/-- TAG of R439 under a key. -/
def State.authTag (s : State) (key : Bytes) (e : Entry) : Bytes := kmac256 key (s.authText e) 128 "LV9-1632 CMD"

/-- A KEY_INSTALL on a module ring while the module is UNCLAIMED (R444). -/
def State.isClaim (s : State) (r : Nat) (e : Entry) : Bool := e.op == 0x82 && s.ringModule r && !s.claimed

/-- The status of the first check before acceptance that fails. -/
def State.critCheck (s : State) (r : Nat) (e : Entry) : Option Nat :=
  let n := e.hdr 24 1 % 16
  let counter := e.hdr 32 8
  let tag := sliceB e.pkt 40 16
  let newer := fun (k : KeySlot) =>
    decide (k.last < counter) || (k.lastRing == r && k.lastPos == e.pos && k.last == counter)
  if s.isClaim r e then
    if n ≠ 0 || e.body 0 1 % 16 ≠ 0 || bitOf (e.body 4 1) 0 || !bitOf (e.body 2 2) 2 ||
        !(e.body 1 1 % 32 == 16 || e.body 1 1 % 32 == 17) then some stRIGHTS
    else if s.authTag (sliceB e.pkt (64 + 16) 32) e ≠ tag then some stTAG
    else if !newer (s.keySlot 0) then some stCOUNTER
    else none
  else
    let k := s.keySlot n
    let admits := k.scope == 17 || (if s.ringModule r then k.scope == 16 else k.scope == s.ringPart r)
    if k.state ≠ 1 || !bitOf k.rights (e.op - 0x80) || !admits then some stRIGHTS
    else if s.authTag k.key e ≠ tag then some stTAG
    else if !newer k then some stCOUNTER
    else none

/-- A failure before acceptance counted (SEC_EVENTS). -/
def State.countAuth (s : State) (st : Nat) : State :=
  if st = stTAG then s.incF .SEC_EVENTS_TAG_FAILS 0
  else if st = stCOUNTER then s.incF .SEC_EVENTS_COUNTER_FAILS 0
  else s.incF .SEC_EVENTS_SLOT_FAILS 0

/-! ## Acceptance (R92, R94, R99) -/

/-- The command is accepted: its entry ACCEPTED, RING_ACCEPTr past the packet, the ACCEPTED record written. -/
def State.acceptEntry (s : State) (r pos : Nat) : State :=
  match s.entry? r pos with
  | none => s
  | some e =>
    let s := State.modEntry { s with nextKernel := s.nextKernel + 1 } r pos fun e => { e with st := .accepted, acceptNo := s.nextKernel }
    let s := s.setF .RING_ACCEPT_POS r (pos + e.slots + 1)
    let s := ((s.writeRecord r e { status := 0x01 }).syncRing r).syncWait r
    s.evHub (s.ringHub r) 0x24 0 (if s.ringModule r then 16 else s.ringPart r) 1

/-- The key that a hub holds for a critical command that has passed its checks (R442). -/
def State.cmdKey (s : State) (e : Entry) : Bytes := if 0x80 ≤ e.op then (s.keySlot (e.hdr 24 1 % 16)).key else []

/-- A tally entry written for a fetched packet; without a working mirror no acknowledgement is awaited (R426). -/
def State.writeEntry (s : State) (r pos : Nat) (pkt : Bytes) (res : Option Result) (key : Bytes) : State :=
  let x := s.ring r
  let old := s
  let s := s.setRing r { x with entries := x.entries ++ [{ pos := pos, pkt := pkt, res := res, key := if res.isNone then key else [] }]
                                fetched := none, committed := none }
  let s := match s.ringMirror r with
    | some _ => s
    | none => s.acceptEntry r pos
  s.tallySync old r

/-- A critical packet whose counter the keeper has answered for: its entry is written once the tally has room (R93, R95). -/
def State.writeCommitted (s : State) (r : Nat) (pkt : Bytes) (st : Nat) (key : Bytes) : State :=
  if s.tallyFull r then s.setRing r { s.ring r with committed := some (st, key) }
  else
    let pos := s.f .RING_ACCEPT_POS r
    if st = 0 then s.writeEntry r pos pkt none key
    else (s.writeEntry r pos pkt (some { status := st }) []).countAuth st

/-- The slots of a packet read one by one (R92 step 1). -/
def State.readSlots (s : State) (r pos : Nat) : Nat → Except AErr Bytes × State
  | 0 => (.ok [], s)
  | k + 1 =>
    match s.readSlots r pos k with
    | (.error e, s) => (.error e, s)
    | (.ok b, s) =>
      match s.readLoc (s.ringLoc r (s.ringBase r + 64 * ((pos + k) % s.ringSlots r))) .narrow 64 with
      | (.ok d, s) => (.ok (b ++ d), s)
      | (.error e, s) => (.error e, s)

/-- A fetched packet goes to the tally, by way of the keeper when it is a critical command that passes its checks (R93). -/
def State.journal (s : State) (r pos : Nat) (pkt : Bytes) : State :=
  let e : Entry := { pos := pos, pkt := pkt }
  if 0x80 ≤ e.op && (ringKinds e.op).isSome then
    match s.critCheck r e with
    | some st => (s.writeEntry r pos pkt (some { status := st }) []).countAuth st
    | none =>
      let claim := s.isClaim r e
      let slot := if claim then 0 else e.hdr 24 1 % 16
      let s := s.setRing r { s.ring r with fetched := some pkt }
      { s with keeper := { s.keeper with queue := s.keeper.queue ++ [.counter r pos slot (e.hdr 32 8) claim] } }
  else s.writeEntry r pos pkt none []

/-- The scan has fetched what its read covered: the producer word is read once more, unless scanning was switched off (R84, R85). -/
def State.scanOn (s : State) (r upTo : Nat) : State :=
  s.setScan r (if s.f .RING_CTRL_SCAN r = 0 then .idle else .reading upTo)

def effPacketFetch (r dt : Nat) (s : State) : State :=
  let s := s.elapse dt
  match (s.ring r).scan with
  | .fetching upTo =>
    let x := s.ring r
    if !s.ringOn r then s.setScan r .idle
    else if s.ringHeld r then s
    else match x.committed, x.fetched with
      | some (st, key), some pkt => s.writeCommitted r pkt st key
      | _, some _ => s
      | _, none =>
        match x.entries.find? fun e => e.st == .written with
        | some e => if (s.ringMirror r).isNone then s.acceptEntry r e.pos else s
        | none =>
          let pos := s.f .RING_ACCEPT_POS r
          if upTo ≤ pos then s.scanOn r upTo
          else if s.tallyFull r then s
          else match s.readSlots r pos 1 with
            | (.error e, s) => s.ringReadFail r e
            | (.ok h, s) =>
              let n := fldB h 1 1 % 16
              if upTo < pos + n + 1 then s.scanOn r upTo
              else match s.readSlots r pos (n + 1) with
                | (.error e, s) => s.ringReadFail r e
                | (.ok pkt, s) => s.journal r pos pkt
  | _ => s
def execPacketFetch (r dt : Nat) (s : State) : Out := runR (.packetFetch r dt) s (effPacketFetch r dt s)

def effTallyAck (r pos dt : Nat) (s : State) : State :=
  let s := s.elapse dt
  let x := s.ring r
  match s.entry? r pos with
  | some e =>
    if e.st != .written then s
    else if !s.ringOn r then
      -- acceptance has stopped: the packet is not accepted, and is fetched again if it resumes
      (s.setRing r { x with entries := x.entries.filter fun y => y.pos != pos }).tallySync s r
    else if s.ringHeld r then s
    else s.acceptEntry r pos
  | none =>
    -- DELIVERED is mirrored: the entry is released (R94)
    (s.setRing r { x with delivered := x.delivered.filter fun y => y.pos != pos }).tallySync s r
def execTallyAck (r pos dt : Nat) (s : State) : Out := run (.tallyAck r pos dt) s (effTallyAck r pos dt s)

/-! ## Finish and delivery (R89, R94, R97) -/

/-- Users of a schedule take deals of its new definition: rings, stacks and Corox ends. -/
def State.resetDeals (s : State) (key : Nat) : State :=
  { s with
    rings := s.rings.map fun (e : Nat × Ring) =>
      if schedKey (s.ringSet e.1) (s.f .RING_CTRL_SCHEDULE e.1) == key then (e.1, { e.2 with nextDeal := 0 }) else e
    stk := s.stk.map fun (e : Nat × Stack) =>
      if schedKey ((s.dieOwner (e.1 / 2)).getD 17) (s.f .MEM_CTRL_SCHEDULE e.1) == key then (e.1, { e.2 with nextDeal := 0 }) else e
    crx := s.crx.map fun (e : Nat × CrxEnd) =>
      if schedKey 16 (s.f .CRX_CTRL_SCHEDULE e.1) == key then (e.1, { e.2 with nextDeal := 0 }) else e }

/-- The command waits for a deal of the schedule: a LAUNCH_AT (R138), COUNTER_SET or COUNTER_SNAP (R460). -/
def State.waitsDeal (s : State) (key r : Nat) (e : Entry) : Bool :=
  e.active && (
    (e.op == 0x09 && e.phase == 1 && e.body 40 1 == 1 && schedKey (s.ringSet r) (e.body 41 1 % 16) == key) ||
    ((e.op == 0x29 || e.op == 0x2A) && e.body 20 1 == 1 && schedKey (s.ringSet r) (e.body 21 1 % 16) == key &&
      s.ctrOps.any fun o => o.ring == r && o.pos == e.pos))

/-- The schedule that a finished DEAL_SET defines or removes (R55, R56). Commands that wait for a deal of one that is removed end with PARAM
(R138, R460). -/
def State.applyDeal (s : State) (r : Nat) (e : Entry) : State :=
  let key := schedKey (s.ringSet r) (e.body 16 1 % 16)
  let s := s.resetDeals key
  if bitOf (e.body 17 1) 0 then
    (s.openCmds.filter fun (q, x) => s.waitsDeal key q x).foldl (fun s (q, x) => (s.dropEngines q x.pos).endWith q x.pos stPARAM)
      (s.setSched key {})
  else s.setSched key { period := e.body 0 8, anchor := e.body 8 8, since := s.now }

/-- The completion of a SLOT_RESERVE: slots of its reservation i open in deals after it (R378). -/
def State.startResv (s : State) (e : Entry) (i : Nat) : State :=
  let ix := resIx (e.body 24 1 % 16) i
  if bitOf (e.body 26 1) 7 then s else s.setResv ix { s.resvOf ix with since := s.now }

/-- A command ready to become FINISHED: its result known, its flushing reads and window requests answered, no stalled record. -/
def Entry.ready (e : Entry) : Bool :=
  (e.st == .running || e.st == .accepted) && e.res.isSome && e.stall.isNone && e.flush.isEmpty && e.remoteOpen == 0

def effCommandFinish (r pos dt : Nat) (s : State) : State :=
  let s := s.elapse dt
  match s.entry? r pos with
  | none => s
  | some e =>
    if !e.ready || !s.hubWorks (s.ringHub r) || s.tagHeld r pos then s
    else match (if e.sent then (some (e.res.getD {}, none), s) else s.writeFlag r pos e (e.res.getD {})) with
      | (none, s) => s
      | (some (x, via), s) =>
        let s := s.modEntry r pos fun e => { e with st := .finished, res := some x }
        let ok := x.status == stDONE || x.status == stREPLAYED
        let s := if e.op = 0x30 && ok then s.applyDeal r e else s
        let s := if e.op = 0x31 && ok then s.startResv e x.result else s
        -- a flag through one port and the record through another: the flag's port is flushed first (R326)
        match via, (s.ringLoc r 0).port? with
        | some (k, a), some y => if k ≠ y then s.sendFlush r pos [(k, a)] else s
        | _, _ => s
def execCommandFinish (r pos dt : Nat) (s : State) : Out := runR (.commandFinish r pos dt) s (effCommandFinish r pos dt s)

/-- Delivers the oldest entry of a ring when it is FINISHED: its record is written, or dropped after DISCARD (R109), and RING_DONEr passes
it. `none` when there is nothing to deliver. A disabled ring that drains when its port is lost drops its records: DESIGN CHOICE,
notes/assumptions/62. -/
def State.deliverHead (s : State) (r : Nat) : Option State :=
  match (s.ring r).entries.head? with
  | none => none
  | some e =>
    let drop := (s.ring r).dropping
    if e.st != .finished || !e.flush.isEmpty || e.remoteOpen != 0 || !s.hubWorks (s.ringHub r) ||
        (s.fb .RING_STATUS_HOST_STOPPED r && !drop) then none
    else
      let old := s
      let s := (if drop then s else s.writeRecord r e (e.res.getD {})).chkEnd r e.pos (e.res.getD {}).status
      let x := s.ring r
      let s := s.setRing r { x with entries := x.entries.drop 1
                                    delivered := if (s.ringMirror r).isSome then x.delivered ++ [e] else x.delivered }
      let s := s.setF .RING_DONE_POS r (e.pos + e.slots + 1)
      let s := if drop then s else s.writeCons r
      let s := (s.syncRing r).tallySync old r
      some (if drop then s else s.evHub (s.ringHub r) 0x25 0 (if s.ringModule r then 16 else s.ringPart r) 1)

/-- Delivers at most `n` entries in order. -/
def State.deliverAll (s : State) (r : Nat) : Nat → State
  | 0 => s
  | n + 1 => match s.deliverHead r with
    | some s => s.deliverAll r n
    | none => s

def effRecordDeliver (r dt : Nat) (s : State) : State :=
  let s := s.elapse dt
  (s.deliverHead r).getD s
def execRecordDeliver (r dt : Nat) (s : State) : Out := run (.recordDeliver r dt) s (effRecordDeliver r dt s)

/-! ## Generic commands -/

def effNop (r pos : Nat) (s : State) : State :=
  s.startCmd r pos 0x00 fun s _ => s.doneWith r pos
def execNop (r pos : Nat) (s : State) : Out := run (.nop r pos) s (effNop r pos s)

/-- An opcode absent from Table 3-2 (R90). -/
def effReservedOpcode (r pos : Nat) (s : State) : State :=
  match s.entry? r pos with
  | none => s
  | some e =>
    if (ringKinds e.op).isNone && s.canStart r e then (s.markRunning r pos).endWith r pos stPARAM else s
def execReservedOpcode (r pos : Nat) (s : State) : Out := runIf (okPos r pos) s (effReservedOpcode r pos s)

/-- The command ends once the flushing reads on `ports` have completed. -/
def State.doneAfterFlush (s : State) (r pos : Nat) (ports : List (Nat × Nat)) (result vis : Nat) (detail : Nat := 0) : State :=
  (s.sendFlush r pos ports).doneWith r pos result vis detail

/-- X of R326 for a command: the port of its flag, whose dropped translation is made again, else that of its record. The outer `none`: the flag
cannot be translated now. -/
def State.flagPort (s : State) (r pos : Nat) (e : Entry) : Option (Option Nat) × State :=
  let own := (s.ringLoc r 0).port?
  match e.flag with
  | none => (some own, s)
  | some h =>
    match s.useHeld (s.cmdCache r) h 2 with
    | (.ok l, s) => (some (l.port?.or own), s.modEntry r pos fun e => e.holdFlag { h with loc := some l })
    | (_, s) => (none, s)

/-- The ports, with addresses, that a command that has written host memory must flush before its flag (R326): all but X, and X too when it did not
carry the last write. `ports` is newest write first. While X is not known every port is flushed. -/
def State.flushPorts (s : State) (r pos : Nat) (e : Entry) (ports : List (Nat × Nat)) : List (Nat × Nat) × State :=
  if ports = [] then ([], s) else
    match s.flagPort r pos e with
    | (none, s) => (ports, s)
    | (some x, s) => (ports.filter fun k => some k.1 != x || (ports.head?.map (·.1)) != some k.1, s)

/-- Every byte of a command has been written: its flushing reads, and its end. -/
def State.endFlushed (s : State) (r pos : Nat) (e : Entry) (result : Nat) (detail : Nat := 0) : State :=
  let (ports, s) := s.flushPorts r pos e e.hostW
  s.doneAfterFlush r pos ports result 0x3F detail

/-- Every byte of a COPY_INLINE has been written. -/
def State.inlineDone (s : State) (r pos : Nat) (e : Entry) : State := s.endFlushed r pos e (e.body 8 2)

/-- The report of an ATTEST is no longer being written. -/
def State.dropReport (s : State) (r pos : Nat) : State :=
  { s with keeper := { s.keeper with reports := s.keeper.reports.filter fun y => !(y.1 == r && y.2.1 == pos) } }

/-- Every byte of an attestation report has been written: the command ends with the leaf that signed it (R449). -/
def State.attestDone (s : State) (r pos : Nat) (e : Entry) : State :=
  match s.keeper.reports.find? fun x => x.1 == r && x.2.1 == pos with
  | none => s
  | some x => (s.dropReport r pos).endFlushed r pos e x.2.2.1 11397

/-- A command has written `l`, its last bytes there among host memory (R326, R328). -/
def State.noteWritten (s : State) (r pos : Nat) (l : Loc) : State :=
  (s.noteHostW r l).modEntry r pos fun e => { e with hostW := l.hostAt?.toList ++ e.hostW.filter fun x => some x.1 != l.port? }

def effFence (r pos : Nat) (s : State) : State :=
  s.startCmd r pos 0x01 fun s e =>
    let scope := e.body 0 1
    if 64 ≤ scope || !e.zero 1 63 then s.endWith r pos stPARAM
    else s.doneAfterFlush r pos (s.scopePorts r scope) 0 scope
def execFence (r pos : Nat) (s : State) : Out := run (.fence r pos) s (effFence r pos s)

/-- The condition of a WAIT_FLAG holds for a word (Table 3-8). -/
def waitHolds (e : Entry) (word : Nat) : Bool :=
  let w := word &&& e.body 16 8
  let v := e.body 8 8
  match e.body 32 1 with
  | 0 => w == v
  | 1 => w != v
  | 2 => decide (v ≤ w)
  | _ => decide ((w + 2 ^ 64 - v) % 2 ^ 64 < 2 ^ 63)

/-- What a command does when its last window request has been answered: SIGNAL, COPY_INLINE, ATTEST and COUNTER_SNAP end,
WAIT_FLAG judges the word. -/
def State.afterRemote (s : State) (r pos : Nat) : State :=
  match s.entry? r pos with
  | none => s
  | some e =>
    if e.active && e.phase == 4 && e.remoteOpen == 0 then
      if e.op = 0x02 then s.doneWith r pos (if e.body 16 1 = 1 then e.prog else 0) (e.body 17 1)
      else if e.op = 0x87 then s.attestDone r pos e
      else if e.op = 0x2A then s.endFlushed r pos e e.prog
      else s.inlineDone r pos e
    else if e.active && e.op == 0x03 && e.phase == 2 && e.remoteOpen == 0 then
      if waitHolds e e.prog then s.doneWith r pos e.prog else s.modEntry r pos fun e => { e with phase := 0 }
    else s

/-- Every command whose window requests have all been answered goes on; waiting requests take the tags that have become free (R375). -/
def State.settleRemote (s : State) : State :=
  let s := (List.range 4).foldl (fun s h => if s.hubWorks h then s.feedTags h (s.rreqs.length + 1) else s) s
  s.openCmds.foldl (fun s (r, e) => s.afterRemote r e.pos) s

/-- The write of a SIGNAL whose fence is done, through its held ADDR (R104). -/
def State.signalWrite (s : State) (r pos : Nat) (e : Entry) (l : Loc) : State :=
  let op := e.body 16 1
  let scope := e.body 17 1
  let v := e.body 8 8
  let data := if op = 2 then leBytes 4 v else leBytes 8 v
  match l with
  | .remote .. =>
    let s := s.modEntry r pos fun e => { e with phase := 4 }
    let s :=
      if op = 1 then s.sendReq (s.ringHub r) l 3 8 0x10 false false (leBytes 16 v) (.cmd r pos) none (e.body 0 8)
      else s.sendWrites (s.ringHub r) l false data (.cmd r pos) (e.body 0 8)
    s.afterRemote r pos
  | .phys p pa =>
    if op = 1 then
      match s.atomPhys (some p) pa 8 .add v 0 with
      | (.ok old, s) => s.doneWith r pos old scope
      | (.error (x, a), s) => s.failAccess r pos (.mem x a) 4 7 (s.hubAgent r)
    else match s.writeLoc l .narrow data with
      | (none, s) => s.doneWith r pos 0 scope
      | (some x, s) => s.failAccess r pos x 2 7 (s.hubAgent r)
  | .host k _ =>
    match s.writeLoc l .narrow data with
    | (none, s) =>
      let s := s.noteHostW r l
      s.doneAfterFlush r pos (if bitOf scope k || bitOf scope 3 then l.hostAt?.toList else []) 0 scope
    | (some x, s) => s.failAccess r pos x 2 7 (s.hubAgent r)

def effSignal (r pos : Nat) (s : State) : State :=
  s.startCmd r pos 0x02 fun s e =>
    let op := e.body 16 1
    let scope := e.body 17 1
    let addr := e.body 0 8
    if 3 ≤ op || 64 ≤ scope || !e.zero 18 46 then s.endWith r pos stPARAM
    else if addr % (if op = 2 then 4 else 8) ≠ 0 then s.endWith r pos stPARAM
    else
      let need := if op = 1 then 4 else 2
      match s.cmdXlate (s.cmdCache r) r addr need with
      | (.ok l, s) =>
        if op = 1 && l.port?.isSome then s.endWith r pos stUNSUPPORTED
        else
          let ports := s.scopePorts r scope
          let s := s.modEntry r pos fun e => { e with holds := [s.holdOf r addr l] }
          if ports = [] then s.signalWrite r pos e l
          else (s.modEntry r pos fun e => { e with phase := 3 }).sendFlush r pos ports
      | (x, s) => s.failXlate r pos x addr need 7 (s.hubAgent r)
def execSignal (r pos : Nat) (s : State) : Out := runR (.signal r pos) s (effSignal r pos s)

/-- What a command does when its flushing reads have all completed: a SIGNAL performs its write. -/
def State.afterFlush (s : State) (r pos : Nat) : State :=
  match s.entry? r pos with
  | none => s
  | some e =>
    if e.active && e.phase == 3 && e.flush.isEmpty then
      match e.holds.head? with
      | none => s
      | some h =>
        let need := if e.body 16 1 = 1 then 4 else 2
        match s.useHeld (s.cmdCache r) h need with
        | (.ok l, s) => s.signalWrite r pos e l
        | (x, s) => s.failXlate r pos x h.va need 7 (s.hubAgent r)
    else s

/-- POLL in ns. -/
def Entry.pollNs (e : Entry) : Nat := if e.body 28 4 = 0 then 1000 else e.body 28 4

/-- One read of the word of a running WAIT_FLAG through its held address. -/
def State.pollWait (s : State) (r pos : Nat) (e : Entry) (h : Held) : State :=
  let s := s.modEntry r pos fun e => { e with pollAt := s.eng }
  match s.useHeld (s.cmdCache r) h 1 with
  | (.ok l, s) =>
    let s := s.modEntry r pos fun e => { e with holds := [{ h with loc := some l }] }
    match l with
    | .remote .. =>
      if e.remoteOpen ≠ 0 then s
      else
        let s := (s.modEntry r pos fun e => { e with phase := 2 }).sendReq (s.ringHub r) l 1 8 0 false false [] (.cmd r pos) none h.va
        s.afterRemote r pos
    | _ =>
      match s.readLoc l .narrow 8 with
      | (.ok b, s) =>
        let w := leNat b
        let s := s.modEntry r pos fun e => { e with prog := w }
        if waitHolds e w then s.doneWith r pos w else s
      | (.error x, s) => s.failAccess r pos x 1 7 (s.hubAgent r)
  | (x, s) => s.failXlate r pos x h.va 1 7 (s.hubAgent r)

def effWaitFlag (r pos : Nat) (s : State) : State :=
  s.startCmd r pos 0x03 fun s e =>
    let addr := e.body 0 8
    let poll := e.body 28 4
    if 4 ≤ e.body 32 1 || !e.zero 33 31 then s.endWith r pos stPARAM
    else if addr % 8 ≠ 0 || e.body 16 8 = 0 || e.body 8 8 &&& e.body 16 8 ≠ e.body 8 8 ||
        (poll ≠ 0 && (poll < 100 || 1000000 < poll)) then s.endWith r pos stPARAM
    else match s.cmdXlate (s.cmdCache r) r addr 1 with
      | (.ok l, s) => s.pollWait r pos e (s.holdOf r addr l)
      | (x, s) => s.failXlate r pos x addr 1 7 (s.hubAgent r)
def execWaitFlag (r pos : Nat) (s : State) : Out := runR (.waitFlag r pos) s (effWaitFlag r pos s)

def effWaitFlagPoll (r pos dt : Nat) (s : State) : State :=
  let s := s.elapse dt
  match s.entry? r pos with
  | none => s
  | some e =>
    if e.op = 0x03 && e.active && !s.tagHeld r pos && s.hubWorks (s.ringHub r) && decide (e.pollAt + e.pollNs ≤ s.eng) then
      match e.holds.head? with
      | some h => s.pollWait r pos e h
      | none => s
    else s
def execWaitFlagPoll (r pos dt : Nat) (s : State) : Out := runR (.waitFlagPoll r pos dt) s (effWaitFlagPoll r pos dt s)

def effWaitFlagTimeout (r pos dt : Nat) (s : State) : State :=
  let s := s.elapse dt
  match s.entry? r pos with
  | none => s
  | some e =>
    if e.op = 0x03 && e.active && e.body 24 4 ≠ 0 && decide (e.startAt + e.body 24 4 * 1000 ≤ s.eng) then
      s.finish r pos { status := stLATE, result := e.prog }
    else s
def execWaitFlagTimeout (r pos dt : Nat) (s : State) : Out :=
  run (.waitFlagTimeout r pos dt) s (effWaitFlagTimeout r pos dt s)

def effWaitTime (r pos : Nat) (s : State) : State :=
  s.startCmd r pos 0x04 fun s e =>
    if !e.zero 8 56 then s.endWith r pos stPARAM
    else if e.body 0 8 ≤ s.now then s.doneWith r pos s.now
    else s
def execWaitTime (r pos : Nat) (s : State) : Out := run (.waitTime r pos) s (effWaitTime r pos s)

def effWaitTimeResume (r pos dt : Nat) (s : State) : State :=
  let s := s.elapse dt
  match s.entry? r pos with
  | none => s
  | some e => if e.op = 0x04 && e.active && decide (e.body 0 8 ≤ s.now) && s.inOrder (e.body 0 8) then s.doneWith r pos s.now else s
def execWaitTimeResume (r pos dt : Nat) (s : State) : Out :=
  run (.waitTimeResume r pos dt) s (effWaitTimeResume r pos dt s)

/-! ## COPY_INLINE (R107) -/

/-- The 64 KiB-aligned spans of a virtual range: offset, address, length (R301). -/
def spans (va len : Nat) : List (Nat × Nat × Nat) :=
  if len = 0 then [] else
    (List.range ((va + len - 1) / 65536 - va / 65536 + 1)).map fun i =>
      let lo := max va ((va / 65536 + i) * 65536)
      let hi := min (va + len) ((va / 65536 + i + 1) * 65536)
      (lo - va, lo, hi - lo)

/-- RESULT of a command whose local write of a span failed: the first byte of the failing codeword, or of the span (R301, R324). -/
def spanResult (o pa : Nat) (e : AErr) : Nat :=
  match e with
  | .mem .uncorr a => o + (a - pa)
  | .mem _ _ => o
  | _ => 0

/-- One span of a COPY_INLINE: whether the next may follow at once. After a span behind a window the answers are awaited first. -/
def State.inlineSpan (s : State) (r pos len o a n : Nat) (d : Bytes) : Bool × State :=
  match s.cmdXlate (s.cmdCache r) r a 2 with
  | (.ok l, s) =>
    match l with
    | .remote .. =>
      let last := o + n == len
      let s := s.modEntry r pos fun e => { e with phase := if last then 4 else 9, waiting := none, prog := o + n }
      (last, s.sendWrites (s.ringHub r) l false d (.cmd r pos) a (some (o, o)))
    | _ =>
      match s.writeLoc l .narrow d with
      | (none, s) => (true, (s.noteWritten r pos (l.add (n - 1))).modEntry r pos fun e => { e with prog := o + n })
      | (some x, s) =>
        (false, s.failAccess r pos x 2 7 (s.hubAgent r) (spanResult o (match l with | .phys _ pa => pa | _ => 0) x))
  | (x, s) => (false, s.failXlate r pos x a 2 7 (s.hubAgent r) o)

/-- The spans from offset `lo` on: whether all of them have been written or sent. -/
def State.writeSpans (s : State) (r pos va lo : Nat) (data : Bytes) : Bool × State :=
  ((spans va data.length).filter fun x => decide (lo ≤ x.1)).foldl (fun (ok, s) (o, a, n) =>
    if ok then s.inlineSpan r pos data.length o a n (sliceB data o n) else (false, s)) (true, s)

def effCopyInline (r pos : Nat) (s : State) : State :=
  s.startCmd r pos 0x11 fun s e =>
    let len := e.body 8 2
    let data := sliceB e.pkt 128 len
    if !e.zero 10 54 || !e.zero (64 + len) (divUp len 64 * 64 - len) then s.endWith r pos stPARAM
    else if 192 < len then s.endWith r pos stPARAM
    else if e.remoteOpen ≠ 0 then s.modEntry r pos fun e => { e with phase := 9 }
    else match (((s.chkBegin r pos 1).chkHub r pos (some (s.ringHub r))).chkFeed r pos 0 data).writeSpans r pos (e.body 0 8) e.prog data with
      | (false, s) => s
      | (true, s) =>
        match s.entry? r pos with
        | none => s
        | some e => if !e.active || (e.phase = 4 && e.remoteOpen ≠ 0) then s else s.inlineDone r pos e
def execCopyInline (r pos : Nat) (s : State) : Out := runR (.copyInline r pos) s (effCopyInline r pos s)

end Sys2Proof.Machine
end

