-- ==== Sys2Proof/Machine/Tables.lean ====
section
/-!
DEFINITION. Tables (R58 to R69): joining, arrival markers, step records, loss and leaving. The bytes of MARKER, RECORD and TABLE_CTL packets
are generation-specific (Table 14-5): what they say is kept in the outbox, and their bytes are free values (notes/assumptions/20).
-/

namespace Sys2Proof.Machine

open Sys2Proof

/-! ## The tree (R58) -/

/-- Key of a table of a partition. -/
def tkey (p id : Nat) : Nat := p * 2 ^ 32 + id

/-- Members 16i + 1 to 16i + 16 below N. -/
def treeKids (i n : Nat) : List Nat := ((List.range 16).map fun k => 16 * i + 1 + k).filter fun k => decide (k < n)

/-- Nodes of the parent, when there is one, and of the children. -/
def TTable.nbrs (t : TTable) : List Nat := (if t.index = 0 then [] else [t.parentNode]) ++ t.childNodes

/-- Tables in use, with their keys. -/
def State.liveTables (s : State) : List (Nat × TTable) := s.tables.filter fun e => e.2.live

def State.partTables (s : State) (p : Nat) : List Nat :=
  (s.liveTables.filter fun e => e.1 / 2 ^ 32 == p).map fun e => e.1 % 2 ^ 32

/-- Deal of step s: FIRST_DEAL + s + SLIPS. -/
def TTable.deal (t : TTable) (s : Nat) : Nat := t.firstDeal + s + t.slips

def State.tableSched (s : State) (p : Nat) (t : TTable) : Sched := s.sched (schedKey p t.schedule)

/-- Boundary of the pending step's deal. -/
def State.stepAt (s : State) (p : Nat) (t : TTable) : Nat := (s.tableSched p t).boundary (t.deal t.step)

/-! ## Sending (R372, R382) -/

/-- Sends a table packet to a tree neighbour: its TAG is the model's own, 0x8000 + 32p + neighbour number. A packet that cannot be routed loses the
neighbour. -/
def State.sendTab (s : State) (p id node op info units : Nat) : State :=
  let t := s.table (tkey p id)
  let h := s.f .ID_PART_HUB_ACTING p
  let (d, s) := s.takeBytes (2 * units)
  let x : TPacket :=
    { vc := 4, last := false, masked := false, op := op, hops := s.f .TLS_CTRL_HOPS, dest := node, src := s.node, window := 0, offset := 0,
      tag := 0x8000 + 32 * p + t.nbrs.idxOf node, flow := id % 65536, info := info, data := d }
  let (hop, s) := s.routePkt h x
  let s := match hop with
    | .out q y => s.enqueue q y
    | _ => s
  let bad := match hop with
    | .fail => true
    | _ => false
  let s := if bad then s.incF .TLS_STATUS_ROUTE_FAILS 0 else s
  let t := s.table (tkey p id)
  s.setTable (tkey p id) { t with owed := t.owed ++ [(node, s.eng)], lost := t.lost || bad }

/-- The answer to a join that is not part of a table here: a loss message to the node it came from, which owes no acknowledgement. -/
def State.answerJoin (s : State) (p id node st : Nat) : State :=
  let h := s.f .ID_PART_HUB_ACTING p
  let (d, s) := s.takeBytes 4
  let x : TPacket :=
    { vc := 4, last := false, masked := false, op := 0x12, hops := s.f .TLS_CTRL_HOPS, dest := node, src := s.node, window := 0, offset := 0,
      tag := 0x8000 + 32 * p + 31, flow := id % 65536, info := 2, data := d }
  let (hop, s) := s.routePkt h x
  let s := match hop with
    | .out q y => s.enqueue q y
    | .fail => s.incF .TLS_STATUS_ROUTE_FAILS 0
    | _ => s
  { s with out := { s.out with table := (node, id, .loss st) :: s.out.table } }

def State.sendCtl (s : State) (p id : Nat) (nodes : List Nat) (m : TableMsg) : State :=
  let info := match m with
    | .join .. => 0
    | .start => 1
    | .loss _ => 2
    | .leave => 3
  nodes.foldl (fun s nd =>
    (s.sendTab p id nd 0x12 info 2) |> fun s => { s with out := { s.out with table := (nd, id, m) :: s.out.table } }) s

def State.sendMark (s : State) (p id : Nat) (m : MarkerMsg) : State :=
  let t := s.table (tkey p id)
  if t.index = 0 then s else
    let s := s.sendTab p id t.parentNode 0x10 0 2
    { s with out := { s.out with marks := (t.parentNode, id, m) :: s.out.marks } }

def State.sendRec (s : State) (p id : Nat) (x : StepRec) : State :=
  (s.table (tkey p id)).childNodes.foldl (fun s nd =>
    (s.sendTab p id nd 0x11 0 4) |> fun s => { s with out := { s.out with recs := (nd, id, x) :: s.out.recs } }) s

/-! ## The ready word and the record area (R61, R67, R69) -/

/-- Outcome of an access of the ready word or of a record: done, waiting on a service request or on an answer, or failed with a cause, an
address kind, an address and the INFO of its fault record. -/
inductive TAcc where
  | done (word : Nat)
  | wait
  | fail (cause kind addr info : Nat)
deriving DecidableEq, Repr

/-- The failure of an access at virtual address `va`. -/
def TAcc.ofE (va : Nat) : AErr → TAcc
  | .mem .uncorr pa => .fail 0x10 2 pa 0
  | .mem .closed pa => .fail 0x08 2 pa 0
  | .mem _ pa => .fail 0x09 2 pa 0
  | .host _ => .fail 0x0A 1 va 0
  | .remote => .fail 0x08 1 va 0

/-- A held translation of a table that has been renewed (R300). -/
def State.keepHeld (s : State) (k : Nat) (h : Held) (l : Loc) : State :=
  let t := s.table k
  let new := fun (x : Held) => if x == h then { x with loc := some l } else x
  if h.loc.isSome then s else s.setTable k { t with ready := new t.ready, record := t.record.map new }

/-- The location of an address behind a held translation of its page; the table waits while it is renewed through a service request. -/
def State.heldAt (s : State) (p id : Nat) (h : Held) (va need : Nat) : Except TAcc Loc × State :=
  match s.useHeld (hubCache (s.f .ID_PART_HUB_ACTING p)) h need with
  | (.ok l, s) => (.ok (l.add (va - h.va)), s.keepHeld (tkey p id) h l)
  | (.fail _ cause, s) => (.error (.fail cause 1 va 0), s)
  | (.uncorr pa, s) => (.error (.fail 0x10 2 pa 0), s)
  | (.wait n tag, s) =>
    (.error .wait, (s.setTable (tkey p id) { s.table (tkey p id) with waiting := true }).svcJoin n tag fun x =>
      { x with tables := if x.tables.contains (tkey p id) then x.tables else x.tables ++ [tkey p id] })

/-- The request of a table has ended without success once every answer is there. -/
def State.tabFailed (s : State) (k va cause info : Nat) : TAcc × State :=
  if (s.table k).reqs = 0 then (.fail cause 1 va info, s.setTable k { s.table k with req := .none }) else (.wait, s)

/-- The ready word behind an import, by a window request (R304). A read that an earlier step asked for is awaited first. -/
def State.readRemote (s : State) (p id : Nat) (l : Loc) (va : Nat) : TAcc × State :=
  let k := tkey p id
  let t := s.table k
  let s := if t.req == .none && t.reqs == 0 then
      (s.setTable k { t with req := .read }).sendReq (s.f .ID_PART_HUB_ACTING p) l 1 8 0 false false [] (.table k t.ring t.pos) none va
    else s
  match (s.table k).req with
  | .got b => (.done (leNat b), s.setTable k { s.table k with req := .none })
  | .failed cause info => s.tabFailed k va cause info
  | _ => (.wait, s)

/-- Reads the ready word over the narrow path. -/
def State.readReady (s : State) (p id : Nat) (t : TTable) : TAcc × State :=
  match s.heldAt p id t.ready t.ready.va 1 with
  | (.error x, s) => (x, s)
  | (.ok l, s) =>
    match s.readLoc l .narrow 8 with
    | (.ok b, s) => (.done (leNat b), s)
    | (.error .remote, s) => s.readRemote p id l t.ready.va
    | (.error e, s) => (.ofE t.ready.va e, s)

/-- The lowest six of the late indices, padded. -/
def lateBytes (l : List Nat) : Bytes := (List.range 6).flatMap fun i => leBytes 4 (l.getD i 0xFFFFFFFF)

/-- The 64 bytes of a step record (Table 2-8). -/
def stepRecBytes (x : StepRec) (selfLate : Bool) : Bytes :=
  leBytes 8 x.step ++ leBytes 8 x.deal ++ leBytes 8 x.doneTime ++ leBytes 4 x.arrived ++ leBytes 4 x.lateCount ++ lateBytes x.lateIdx ++
    leBytes 8 (x.status + b2n x.slipped * 2 ^ 8 + b2n (decide (6 < x.lateCount)) * 2 ^ 9 + b2n selfLate * 2 ^ 10 +
      (x.step + 1) % 2 ^ 32 * 2 ^ 32)

/-- Address of the record of a step (R67): the area begins at the first held translation's address. -/
def TTable.recVa (t : TTable) (step : Nat) : Nat := (t.record.head?.map (·.va)).getD 0 + 64 * (step % 2 ^ t.recLog2)

/-- One of the two parts of a record is sent through a window: bytes 0 to 55, and, after them, the completion word. -/
def State.sendPart (s : State) (p id part : Nat) (l : Loc) (va : Nat) (b : Bytes) : State :=
  let k := tkey p id
  let t := s.table k
  let o := if part = 1 then 0 else 56
  (s.setTable k { t with req := .write part }).sendWrites (s.f .ID_PART_HUB_ACTING p) (l.add o) false (if part = 1 then b.take 56 else b.drop 56)
    (.table k t.ring t.pos) (va + o)

/-- A record behind an import, by window requests (R304). -/
def State.putRemote (s : State) (p id : Nat) (l : Loc) (va : Nat) (b : Bytes) : TAcc × State :=
  let k := tkey p id
  let s := if (s.table k).req == .none && (s.table k).reqs == 0 then s.sendPart p id 1 l va b else s
  let s := if (s.table k).req == .write 1 && (s.table k).reqs == 0 then s.sendPart p id 2 l va b else s
  match (s.table k).req with
  | .write 2 => if (s.table k).reqs = 0 then (.done 0, s.setTable k { s.table k with req := .none }) else (.wait, s)
  | .failed cause info => s.tabFailed k va cause info
  | _ => (.wait, s)

/-- Writes the 64 bytes of a step's record, bytes 0 to 55 before the completion word. -/
def State.putStepRec (s : State) (p id : Nat) (t : TTable) (step : Nat) (b : Bytes) : TAcc × State :=
  let va := t.recVa step
  match t.record.find? fun h => h.va / 65536 == va / 65536 with
  | none => (.fail 0x04 1 va 0, s)
  | some h =>
    match s.heldAt p id h va 2 with
    | (.error x, s) => (x, s)
    | (.ok l, s) =>
      match s.writeLoc l .narrow (b.take 56) with
      | (some .remote, s) => s.putRemote p id l va b
      | (some e, s) => (.ofE va e, s)
      | (none, s) =>
        match s.writeLoc (l.add 56) .narrow (b.drop 56) with
        | (some e, s) => (.ofE va e, s)
        | (none, s) => (.done 0, s)

/-! ## The end of a table (R52, R68, R69) -/

/-- The member has no more part in the table: a LEAVE command that waited for its record ends, the neighbours are told, the slot is free. -/
def State.finishTable (s : State) (p id : Nat) (m : TableMsg) (from_ : Option Nat) : State :=
  let t := s.table (tkey p id)
  let s := match t.leaving with
    | some (r, pos) => s.doneWith r pos
    | none => s
  let s := s.sendCtl p id (t.nbrs.filter fun n => some n != from_) m
  s.setTable (tkey p id) { early := t.early }

/-- The record of a step that ends without the root's record: the root's time, the counts and the late indices are free values. -/
def TTable.endBytes (t : TTable) (free : Bytes) (status : Nat) : Bytes :=
  leBytes 8 t.step ++ leBytes 8 (t.deal t.step) ++ free.take 40 ++
    leBytes 8 (status + b2n (decide (6 < fldB free 12 4)) * 2 ^ 9 + b2n t.selfLate * 2 ^ 10 + (t.step + 1) % 2 ^ 32 * 2 ^ 32)

/-- The table ends at this member once its last record is written. -/
def StepWrite.ending (w : StepWrite) : Bool :=
  match w.after with
  | .ends .. => true
  | .step _ => false

/-- The table runs: formed, and not writing a record, nor waiting for its ready word. -/
def TTable.running (t : TTable) : Bool := t.live && t.formed && t.writing.isNone && !t.waiting && t.reqs == 0

/-- The fault record of an access that a table's hub cannot make (R69). -/
def State.tabFault (s : State) (p id cause kind addr info access : Nat) : State :=
  let t := s.table (tkey p id)
  s.postEvent p
    { addr := addr, pos := some t.pos, time := s.now, ring := some t.ring, cause := cause, asid := t.ready.asid, agentKind := 7,
      agentIx := s.f .ID_PART_HUB_ACTING p, kind := kind, access := access, info := info }

/-- The end record of a table has been written, or cannot be: then its fault record is, unless the failure that ends the table has one. -/
def State.endWritten (s : State) (p id : Nat) (x : TAcc) (m : TableMsg) (from_ : Option Nat) (noted : Bool) : State :=
  match x with
  | .wait => s
  | .done _ => s.finishTable p id m from_
  | .fail cause kind addr info => (if noted then s else s.tabFault p id cause kind addr info 2).finishTable p id m from_

/-- The member's part in the table ends: an end record for the pending step, or the end of its TABLE_JOIN when the table was never formed;
the message goes to every tree neighbour but `from`. A record under way is written first, one that cannot be written is not (R69). -/
def State.endTable (s : State) (p id status : Nat) (m : TableMsg) (from_ : Option Nat) (noted : Bool := false) : State :=
  let t := s.table (tkey p id)
  if !t.live || t.writing.any (·.ending) then s
  else if !t.formed then (s.endWith t.ring t.pos status).finishTable p id m from_
  else if t.writing.isSome then s.setTable (tkey p id) { t with ending := t.ending.or (some (status, m, from_)) }
  else
    let (free, s) := s.takeBytes 5
    let b := t.endBytes free status
    let s := s.setTable (tkey p id) { t with writing := some ⟨t.step, b, .ends m from_ noted⟩, waiting := false
                                             req := if t.req matches .write _ then t.req else .none }
    match s.putStepRec p id t t.step b with
    | (x, s) => s.endWritten p id x m from_ noted

/-- A message that could not be routed has lost a neighbour: the table ends (R68, R382). -/
def State.settleTable (s : State) (p id : Nat) : State :=
  let t := s.table (tkey p id)
  if t.live && t.lost then s.endTable p id stREMOTELOST (.loss stREMOTELOST) none else s

/-- A partition leaves every table with ABORTED records (R52, R419). -/
def State.leaveTables (s : State) (p : Nat) : State :=
  (s.partTables p).foldl (fun s id => s.endTable p id stABORTED (.loss stREMOTELOST) none) s

/-- A partition whose work ends leaves its tables; a record still waiting on a service request is not written. -/
def State.killTables (s : State) (p : Nat) : State :=
  let s := s.leaveTables p
  (s.partTables p).foldl (fun s id => s.finishTable p id (.loss stREMOTELOST) none) s

/-- The module leaves every table (R52). -/
def State.leaveAll (s : State) : State := (List.range 16).foldl (fun s p => s.leaveTables p) s

/-- The ready word or the record area cannot be used (R69). -/
def State.heldFailure (s : State) (p id cause kind addr info access : Nat) : State :=
  (s.tabFault p id cause kind addr info access).endTable p id stABORTED (.loss stREMOTELOST) none true

/-- A neighbour node of the module is lost: every table that has it as a tree neighbour ends (R68, R382). -/
def State.loseNode (s : State) (node : Nat) : State :=
  s.liveTables.foldl (fun s (k, t) =>
    if t.nbrs.contains node then s.endTable (k / 2 ^ 32) (k % 2 ^ 32) stREMOTELOST (.loss stREMOTELOST) (some node) else s) s

/-! ## Steps (R63, R64) -/

/-- A number inserted once into a rising list. -/
def insertOne (x : Nat) : List Nat → List Nat
  | [] => [x]
  | y :: t => if x < y then x :: y :: t else if x = y then y :: t else y :: insertOne x t

/-- The lowest six of two rising lists of indices. -/
def mergeLate (a b : List Nat) : List Nat := (a.foldl (fun l x => insertOne x l) b).take 6

/-- The member's own part of its subtree is complete: it has posted ARRIVED, or under ABANDON a LATE. -/
def TTable.selfDone (t : TTable) : Bool := t.selfArrived || (t.policy == 2 && t.selfLate)

/-- Every member of the subtree has arrived. -/
def TTable.subtreeDone (t : TTable) : Bool := t.selfDone && t.childNodes.all t.doneKids.contains

/-- A step's record is written: it goes on to the children, and the next step is awaited (R64). Under ABANDON a late member goes on reading
its ready word for the step; a read that waits for the step that has ended is forgotten. -/
def State.nextStep (s : State) (p id : Nat) (x : StepRec) : State :=
  let s := s.sendRec p id x
  let t := s.table (tkey p id)
  let s := s.setTable (tkey p id)
    { t with step := t.step + 1, slips := t.slips + b2n x.slipped, evaluated := false, selfLate := false, selfArrived := false, cause := 0
             arrived := 0, lateCount := 0, lateIdx := [], doneKids := [], forwarded := false, writing := none
             waiting := false, req := .none
             owes := if t.policy = 2 then t.owes else [] }
  s.settleTable p id

/-- The record in hand is written, and what follows it happens; while its area waits on a service request it stays in hand (R67, R69). -/
def State.writeStep (s : State) (p id : Nat) : State :=
  let t := s.table (tkey p id)
  match t.writing with
  | none => s
  | some w =>
    match s.putStepRec p id t w.step w.bytes with
    | (x, s) =>
      match w.after, x with
      | .ends m from_ noted, _ => s.endWritten p id x m from_ noted
      | .step y, .done _ => s.nextStep p id y
      | .step _, .fail cause kind addr info =>
        (s.setTable (tkey p id) { s.table (tkey p id) with writing := none, ending := none }).heldFailure p id cause kind addr info 2
      | .step _, .wait => s

/-- A step record is applied (R64, R67). -/
def State.applyRec (s : State) (p id : Nat) (x : StepRec) : State :=
  let t := s.table (tkey p id)
  (s.setTable (tkey p id) { t with writing := some ⟨x.step, stepRecBytes x t.selfLate, .step x⟩, waiting := false, req := .none }).writeStep p id

/-- Records that came while an earlier one was being written are applied in their order, and then an end that waits for them (R66, R67). -/
def State.runRecs (s : State) (p id : Nat) : Nat → State
  | 0 => s
  | n + 1 =>
    let t := s.table (tkey p id)
    if !t.live || t.writing.isSome then s
    else match t.recs, t.ending with
      | x :: l, _ => ((s.setTable (tkey p id) { t with recs := l }).applyRec p id x).runRecs p id n
      | [], some (st, m, from_) => (s.setTable (tkey p id) { t with ending := none }).endTable p id st m from_
      | [], none => s

/-- What has come for a table since its record went out. -/
def State.settleRecs (s : State) (p id : Nat) : State := s.runRecs p id ((s.table (tkey p id)).recs.length + 1)

/-- A step record has arrived, or the root has completed the step: the nanoseconds held since the step's boundary are counted (R66). -/
def State.countHeld (s : State) (p id : Nat) (x : StepRec) : State :=
  s.evHub (s.f .ID_PART_HUB_ACTING p) 0x27 0 p (s.now - (s.tableSched p (s.table (tkey p id))).boundary x.deal)

/-- The root completes the pending step with a status (R64). -/
def State.completeStep (s : State) (p id status : Nat) : State :=
  let t := s.table (tkey p id)
  let x : StepRec :=
    { step := t.step, deal := t.deal t.step, doneTime := s.now, arrived := t.arrived, lateCount := t.lateCount, lateIdx := t.lateIdx
      status := status, slipped := t.policy == 1 && decide (0 < t.lateCount) }
  ((s.countHeld p id x).applyRec p id x).settleRecs p id

/-- What follows when a member's subtree has changed: the whole subtree's arrival is forwarded once, or completes the step at the root. -/
def State.subtreeStep (s : State) (p id : Nat) : State :=
  let t := s.table (tkey p id)
  if !t.subtreeDone || t.forwarded then s
  else if t.index = 0 then
    s.completeStep p id (if t.policy = 2 && 0 < t.lateCount then stLATE else stDONE)
  else
    let s := s.setTable (tkey p id) { t with forwarded := true }
    s.sendMark p id { step := t.step, arrived := t.arrived, lateCount := t.lateCount, lateIdx := t.lateIdx, isLate := false, cause := 0 }

/-- An interval of the list overlaps [lo, hi). -/
def seenIn (l : List (Nat × Nat)) (lo hi : Nat) : Bool := l.any fun e => decide (e.1 < hi) && decide (lo < e.2)

/-- Die n was forced by a regulator alert in [lo, hi): in a window that has ended, or in the one now open (R399). -/
def State.forcedIn (s : State) (n lo hi : Nat) : Bool :=
  seenIn (s.power.forcedSeen.fget n []) lo hi ||
    (s.diePwr n).alertWin && decide (s.power.nextWin - 2000 < hi) && decide (lo < s.power.nextWin)

/-- The cause bits of a LATE marker (Table 2-6). -/
def State.lateCause (s : State) (p : Nat) (t : TTable) : Nat :=
  let c := s.tableSched p t
  let d := t.deal t.step
  let lo := if d = 0 then 0 else c.boundary (d - 1)
  let hi := c.boundary d
  let any := fun (f : Nat → Bool) => d != 0 && (s.partDies p).any f
  b2n (any fun n => seenIn (s.power.capSeen.fget n []) lo hi) + b2n (s.f .TIME_STATUS_STATE == 3) * 2 + b2n (any fun n => s.forcedIn n lo hi) * 4

/-- The member posts ARRIVED for the pending step. After its LATE under ABANDON the marker is discarded and counted (Table 2-7). -/
def State.postArrived (s : State) (p id : Nat) : State :=
  let t := s.table (tkey p id)
  if t.selfLate && t.policy == 2 then
    s.setTable (tkey p id) { t with selfArrived := true, discarded := t.discarded + 1 }
  else
    (s.setTable (tkey p id) { t with selfArrived := true, arrived := if t.selfLate then t.arrived else t.arrived + 1 }).subtreeStep p id

/-- The member posts LATE for the pending step, with its cause bits (R62), and forwards it at once (R63). -/
def State.postLate (s : State) (p id : Nat) : State :=
  let t := s.table (tkey p id)
  let cause := s.lateCause p t
  let s := if bitOf cause 0 then
      (s.incF .PWR_STATUS_THROTTLE_MARKERS 0).evHub (s.f .ID_PART_HUB_ACTING p) 0x26 0 p 1 else s
  let t := { t with selfLate := true, cause := cause, lateCount := t.lateCount + 1, lateIdx := mergeLate t.lateIdx [t.index]
                    owes := t.owes ++ [t.step] }
  let s := s.setTable (tkey p id) t
  let s := s.sendMark p id { step := t.step, arrived := 0, lateCount := 1, lateIdx := [t.index], isLate := true, cause := cause }
  s.subtreeStep p id

/-- The ready word is read: at the evaluation of the pending step, or again for every step that the member is late for (R61, R64). -/
def State.tryReady (s : State) (p id : Nat) (first : Bool) : State :=
  let t := s.table (tkey p id)
  match s.readReady p id t with
  | (.wait, s) => s
  | (.fail cause kind addr info, s) => s.heldFailure p id cause kind addr info 1
  | (.done w, s) =>
    let t := s.table (tkey p id)
    if first then
      let s := s.setTable (tkey p id) { t with evaluated := true, readAt := s.eng }
      (if decide (t.step < w) then s.postArrived p id else s.postLate p id).settleTable p id
    else
      let met := t.owes.filter fun k => decide (k < w)
      let old := (met.filter fun k => k != t.step).length
      let s := s.setTable (tkey p id) { t with readAt := s.eng, owes := t.owes.filter fun k => !decide (k < w), discarded := t.discarded + old }
      (if met.contains t.step then s.postArrived p id else s).settleTable p id

/-- What a table waited on is there: the record in hand is written, or the ready word read, unless its step has ended meanwhile and the next
has not come (R61, R296). -/
def State.resumeTable (s : State) (k : Nat) : State :=
  let t := s.table k
  let p := k / 2 ^ 32
  let id := k % 2 ^ 32
  if !t.live || t.reqs ≠ 0 then s
  else if t.writing.isSome then ((s.setTable k { t with waiting := false }).writeStep p id).settleRecs p id
  else if !t.waiting && t.req == .none then s
  else
    let s := s.setTable k { t with waiting := false }
    if t.evaluated || decide (s.stepAt p t ≤ s.now) then s.tryReady p id (!t.evaluated) else s

/-- Tables whose window requests have all been answered go on. -/
def State.settleTables (s : State) : State :=
  ((s.liveTables.filter fun e => e.2.reqs == 0 && !e.2.waiting && (e.2.req != .none || e.2.writing.isSome)).map fun e => e.1).foldl
    State.resumeTable s

/-- Commands and tables whose window requests have all been answered go on. -/
def State.settleAnswers (s : State) : State := s.settleRemote.settleTables

/-- The translation that a table waits on has failed: its access cannot be made (R69). -/
def State.failTable (s : State) (k cause : Nat) : State :=
  let t := s.table k
  let p := k / 2 ^ 32
  let id := k % 2 ^ 32
  if !t.live || !t.waiting then s
  else
    let s := s.setTable k { t with waiting := false, writing := none, ending := none }
    match t.writing with
    | some ⟨_, _, .ends m from_ noted⟩ => s.endWritten p id (.fail cause 1 (t.recVa t.step) 0) m from_ noted
    | some w => s.heldFailure p id cause 1 (t.recVa w.step) 0 2
    | none => s.heldFailure p id cause 1 t.ready.va 0 1

def effStepEvaluate (p id dt : Nat) (s : State) : State :=
  let s := s.elapse dt
  let t := s.table (tkey p id)
  if t.running && !t.evaluated && (s.tableSched p t).defined && decide (s.stepAt p t ≤ s.now) then s.tryReady p id true else s
def execStepEvaluate (p id dt : Nat) (s : State) : Out := runR (.stepEvaluate p id dt) s (effStepEvaluate p id dt s)

def effReadyReread (p id dt : Nat) (s : State) : State :=
  let s := s.elapse dt
  let t := s.table (tkey p id)
  if t.running && !t.owes.isEmpty && decide (t.readAt + 1000 ≤ s.eng) then s.tryReady p id false else s
def execReadyReread (p id dt : Nat) (s : State) : Out := runR (.readyReread p id dt) s (effReadyReread p id dt s)

/-- The frame that carried a table packet of this module, with the given TAG and flow, has been acknowledged: of what its neighbour owes, the
oldest is there (R365, R382; notes/assumptions/20). -/
def State.tableAck (s : State) (tag flow : Nat) : State :=
  let p := (tag - 0x8000) / 32
  let i := (tag - 0x8000) % 32
  (s.partTables p).foldl (fun s id =>
    let t := s.table (tkey p id)
    if id % 65536 = flow && i < t.nbrs.length then
      s.setTable (tkey p id) { t with owed := (t.owed.takeWhile fun o => some o.1 != t.nbrs[i]?) ++ (t.owed.dropWhile fun o => some o.1 != t.nbrs[i]?).drop 1 }
    else s) s

def effMarker (p id src : Nat) (m : MarkerMsg) (dt : Nat) (s : State) : State :=
  let s := s.elapse dt
  let t := s.table (tkey p id)
  if t.live && t.formed && t.writing.isNone && m.step == t.step && t.childNodes.contains src then
    if m.isLate then
      let s := s.setTable (tkey p id) { t with lateCount := t.lateCount + m.lateCount, lateIdx := mergeLate t.lateIdx m.lateIdx }
      (s.sendMark p id m).settleTable p id
    else if t.doneKids.contains src then s
    else
      let s := s.setTable (tkey p id) { t with doneKids := src :: t.doneKids, arrived := t.arrived + m.arrived }
      (s.subtreeStep p id).settleTable p id
  else s
def execMarker (p id src : Nat) (m : MarkerMsg) (dt : Nat) (s : State) : Out := runR (.marker p id src m dt) s (effMarker p id src m dt s)

def effStepWaitLimit (p id dt : Nat) (s : State) : State :=
  let s := s.elapse dt
  let t := s.table (tkey p id)
  if t.live && t.formed && t.writing.isNone && t.index == 0 && t.policy != 2 && t.waitLimit != 0 && (s.tableSched p t).defined &&
      decide (s.stepAt p t + t.waitLimit * 1000 ≤ s.now) then s.completeStep p id stLATE else s
def execStepWaitLimit (p id dt : Nat) (s : State) : Out := runR (.stepWaitLimit p id dt) s (effStepWaitLimit p id dt s)

def effRecord (p id : Nat) (x : StepRec) (dt : Nat) (s : State) : State :=
  let s := s.elapse dt
  let t := s.table (tkey p id)
  let next := t.step + b2n t.writing.isSome + t.recs.length
  if t.live && t.formed && t.index != 0 && x.step == next && !t.writing.any (·.ending) && t.ending.isNone then
    let s := s.countHeld p id x
    let s := s.setTable (tkey p id) { s.table (tkey p id) with recs := t.recs ++ [x] }
    s.settleRecs p id
  else s
def execRecord (p id : Nat) (x : StepRec) (dt : Nat) (s : State) : Out := runR (.record p id x dt) s (effRecord p id x dt s)

/-! ## Joining (R59) -/

/-- The forming of a table ends at a member, with a status for every member: joins that still come for it are answered with PARAM until its first
deal (R59). -/
def State.refuseTable (s : State) (p id status : Nat) (from_ : Option Nat := none) : State :=
  let t := s.table (tkey p id)
  let s := s.endTable p id status (.loss status) from_
  s.setTable (tkey p id) { ({} : TTable) with mismatch := true, firstDeal := t.firstDeal, schedule := t.schedule, early := t.early }

/-- The table is formed at this member: its TABLE_JOIN ends and the start record goes to its children. -/
def State.formTable (s : State) (p id : Nat) : State :=
  let t := s.table (tkey p id)
  let s := (s.setTable (tkey p id) { t with formed := true }).doneWith t.ring t.pos
  (s.sendCtl p id t.childNodes .start).settleTable p id

/-- The boundary of the FIRST_DEAL of a join has come. -/
def joinLate (m : TableMsg) (now : Nat) : Bool :=
  match m with
  | .join _ _ _ fd _ period anchor => decide (anchor + fd * period ≤ now)
  | _ => false

/-- The boundary of deal FIRST_DEAL has come at the member. -/
def State.joinOver (s : State) (p : Nat) (t : TTable) : Bool := decide ((s.tableSched p t).boundary t.firstDeal ≤ s.now)

/-- A join reaches the root: compared with the root's own, counted, and the table formed when all are there in time. -/
def State.rootJoin (s : State) (p id : Nat) (m : TableMsg) : State :=
  let t := s.table (tkey p id)
  match m with
  | .join index members wl fd policy period anchor =>
    let c := s.tableSched p t
    if s.joinOver p t then s.endTable p id stLATE (.loss stLATE) none
    else if members ≠ t.members || wl ≠ t.waitLimit || fd ≠ t.firstDeal || policy ≠ t.policy || period ≠ c.period || anchor ≠ c.anchor ||
        t.members ≤ index || t.joined.contains index then s.refuseTable p id stPARAM
    else
      let t := { t with joined := index :: t.joined }
      let s := s.setTable (tkey p id) t
      if t.joined.length = t.members then s.formTable p id else s
  | _ => s

/-- A member below the root passes a join on; the root takes it. -/
def State.takeJoin (s : State) (p id : Nat) (m : TableMsg) : State :=
  let t := s.table (tkey p id)
  if !t.live || t.formed then s
  else if t.index = 0 then s.rootJoin p id m
  else (s.sendCtl p id [t.parentNode] m).settleTable p id

/-- The joins that wait for a TABLE_JOIN here are answered with a status. -/
def State.answerEarly (s : State) (p id st : Nat) (which : TableMsg → Bool) : State :=
  let t := s.table (tkey p id)
  let l := t.early.filter fun x => which x.2
  let s := s.setTable (tkey p id) { t with early := t.early.filter fun x => !which x.2 }
  l.foldl (fun s x => s.answerJoin p id x.1 st) s

/-- A join arrives from node `src`: taken by a table being formed, refused beside one that is formed or was refused, or after its deadline, and
held otherwise until the member's own TABLE_JOIN. -/
def State.joinArrives (s : State) (p id src : Nat) (m : TableMsg) : State :=
  let t := s.table (tkey p id)
  if t.live && !t.formed then s.takeJoin p id m
  else if t.live && t.writing.isNone then (if t.childNodes.contains src then s else s.answerJoin p id src stPARAM)
  else if joinLate m s.now then s.answerJoin p id src stLATE
  else if t.mismatch then s.answerJoin p id src stPARAM
  else s.setTable (tkey p id) { t with early := t.early ++ [(src, m)] }

def effTableCtl (p id src : Nat) (m : TableMsg) (dt : Nat) (s : State) : State :=
  let s := s.elapse dt
  let t := s.table (tkey p id)
  match m with
  | .join .. => s.joinArrives p id src m
  | .start => if t.live && !t.formed && t.index != 0 then s.formTable p id else s
  | .loss st =>
    if t.live && !t.formed && st == stPARAM then s.refuseTable p id st (some src)
    else if t.live then s.endTable p id st (.loss st) (some src) else s.answerEarly p id st fun _ => true
  | .leave => if t.live then s.endTable p id stABORTED .leave (some src) else s
def execTableCtl (p id src : Nat) (m : TableMsg) (dt : Nat) (s : State) : Out := runR (.tableCtl p id src m dt) s (effTableCtl p id src m dt s)

/-- The boundary of FIRST_DEAL has come: at a root whose table is not formed every member ends with LATE, and so do the members whose joins wait
here for a TABLE_JOIN that has not come (R59). -/
def effTableJoinDeadline (p id dt : Nat) (s : State) : State :=
  let s := s.elapse dt
  let t := s.table (tkey p id)
  let s := if t.live && !t.formed && t.index == 0 && (s.tableSched p t).defined && s.joinOver p t then
      s.endTable p id stLATE (.loss stLATE) none
    else if !t.live && t.mismatch && s.joinOver p t then s.setTable (tkey p id) { early := t.early }
    else s
  if (s.table (tkey p id)).live then s else s.answerEarly p id stLATE fun m => joinLate m s.now
def execTableJoinDeadline (p id dt : Nat) (s : State) : Out := run (.tableJoinDeadline p id dt) s (effTableJoinDeadline p id dt s)

def effTableAckTimeout (p id nbr dt : Nat) (s : State) : State :=
  let s := s.elapse dt
  let t := s.table (tkey p id)
  let us := if s.f .TLS_CTRL_REMOTE_US = 0 then 1000 else s.f .TLS_CTRL_REMOTE_US
  if t.live && t.owed.any (fun o => o.1 == nbr && decide (o.2 + us * 1000 ≤ s.eng)) then
    s.endTable p id stREMOTELOST (.loss stREMOTELOST) (some nbr) else s
def execTableAckTimeout (p id nbr dt : Nat) (s : State) : Out := runIf (okTable p id) s (effTableAckTimeout p id nbr dt s).settleRetire

/-- Reads the node identifiers that a member needs from LIST_ADDR (R58): its own, its parent's and its children's. `none`: the command has ended,
or waits. -/
def State.readNodes (s : State) (r pos list : Nat) : List Nat → Option (List Nat) × State
  | [] => (some [], s)
  | i :: rest =>
    let va := list + 4 * i
    let go := fun (b : Bytes) (s : State) =>
      match s.readNodes r pos list rest with
      | (some ns, s) => (some (leNat b % 2 ^ 20 :: ns), s)
      | (none, s) => (none, s)
    match s.cmdXlate (s.cmdCache r) r va 1 with
    | (.ok l, s) =>
      match s.readLoc l .narrow 4 with
      | (.ok b, s) => go b s
      | (.error .remote, s) =>
        match s.remoteBytes (s.ringHub r) r pos l va 4 with
        | (some b, s) => go b s
        | (none, s) => (none, s)
      | (.error e, s) => (none, s.failAccess r pos e 1 7 (s.hubAgent r))
    | (x, s) => (none, s.failXlate r pos x va 1 7 (s.hubAgent r))

/-- The translations of every 64 KiB page of the record area, held (R69). `none`: the command has ended, or waits. -/
def State.holdArea (s : State) (r pos : Nat) : List Nat → Option (List Held) × State
  | [] => (some [], s)
  | va :: rest =>
    match s.cmdXlate (s.cmdCache r) r va 2 with
    | (.ok l, s) =>
      match s.holdArea r pos rest with
      | (some hs, s) => (some (s.holdOf r va l :: hs), s)
      | (none, s) => (none, s)
    | (x, s) => (none, s.failXlate r pos x va 2 7 (s.hubAgent r))

/-- The first addresses of a record area within its 64 KiB pages. -/
def areaPages (va n : Nat) : List Nat :=
  va :: (((List.range 66).map fun k => (va / 65536 + 1 + k) * 65536).filter fun x => decide (x < va + n))

/-- What a TABLE_JOIN says to the root. -/
def State.joinMsg (s : State) (p : Nat) (e : Entry) : TableMsg :=
  let c := s.sched (schedKey p (e.body 48 1 % 16))
  .join (e.body 8 4) (e.body 4 4) (e.body 12 4) (e.body 40 8) (e.body 49 1 % 4) c.period c.anchor

/-- The TABLE_JOIN of a member whose nodes and addresses are known: its slot is taken and its join sent or counted. -/
def State.joinTable (s : State) (r pos : Nat) (e : Entry) (ready : Held) (record : List Held) (nodes : List Nat) : State :=
  let p := s.ringPart r
  let id := e.body 0 4
  let i := e.body 8 4
  let old := s.table (tkey p id)
  let kids := if i = 0 then nodes.drop 1 else nodes.drop 2
  let t : TTable :=
    { live := true, ring := r, pos := pos, members := e.body 4 4, index := i, waitLimit := e.body 12 4, firstDeal := e.body 40 8
      schedule := e.body 48 1 % 16, policy := e.body 49 1 % 4, recLog2 := e.body 50 1 % 32, ready := ready, record := record
      selfNode := nodes.headD 0, parentNode := if i = 0 then 0 else nodes.getD 1 0, childNodes := kids }
  let s := (s.setTable (tkey p id) t).takeJoin p id (s.joinMsg p e)
  old.early.foldl (fun s m => s.takeJoin p id m.2) s

/-- The forming of this table has been refused, and its first deal has not come. -/
def State.joinRefused (s : State) (p : Nat) (t : TTable) (e : Entry) : Bool :=
  !t.live && t.mismatch && t.firstDeal == e.body 40 8 && t.schedule == e.body 48 1 % 16 && !s.joinOver p t

/-- TABLE_JOIN (R59, R69). A second one of a partition for a table being formed, with the same index, ends with PARAM and so do all others; with
another index, or for a table that is formed, it ends with PARAM alone (DESIGN CHOICE, notes/assumptions/21). -/
def effTableJoin (r pos : Nat) (s : State) : State :=
  s.startCmd r pos 0x32 fun s e =>
    let p := s.ringPart r
    let id := e.body 0 4
    let n := e.body 4 4
    let i := e.body 8 4
    let leave := bitOf (e.body 51 1) 0
    let t := s.table (tkey p id)
    if 16 ≤ e.body 48 1 || 3 ≤ e.body 49 1 || 32 ≤ e.body 50 1 || 2 ≤ e.body 51 1 || !e.zero 52 12 then s.endWith r pos stPARAM
    else if leave then
      if !t.live then s.endWith r pos stPARAM
      else if s.f .TIME_STATUS_STATE ≠ 2 && s.f .TIME_STATUS_STATE ≠ 5 then s.endWith r pos stREMOTELOST
      else (s.setTable (tkey p id) { t with leaving := some (r, pos) }).endTable p id stABORTED .leave none
    else if n = 0 || 131072 < n || n ≤ i || 1000000 < e.body 12 4 || e.body 24 8 % 64 ≠ 0 || e.body 32 8 % 8 ≠ 0 ||
        e.body 50 1 < 4 || 16 < e.body 50 1 || !(s.sched (schedKey p (e.body 48 1))).defined then s.endWith r pos stPARAM
    else if t.live && !t.formed && i = t.index && (t.ring, t.pos) != (r, pos) then (s.endWith r pos stPARAM).takeJoin p id (s.joinMsg p e)
    else if t.live || s.joinRefused p t e || 16 ≤ (s.partTables p).length || 64 ≤ s.liveTables.length then s.endWith r pos stPARAM
    else if s.f .TIME_STATUS_STATE ≠ 2 && s.f .TIME_STATUS_STATE ≠ 5 then s.endWith r pos stREMOTELOST
    else match s.cmdXlate (s.cmdCache r) r (e.body 32 8) 1 with
      | (.ok ly, s) =>
        match s.holdArea r pos (areaPages (e.body 24 8) (64 * 2 ^ e.body 50 1)) with
        | (none, s) => s
        | (some area, s) =>
          match s.readNodes r pos (e.body 16 8) ([i] ++ (if i = 0 then [] else [(i - 1) / 16]) ++ treeKids i n) with
          | (none, s) => s
          | (some nodes, s) => s.joinTable r pos e (s.holdOf r (e.body 32 8) ly) area nodes
      | (x, s) => s.failXlate r pos x (e.body 32 8) 1 7 (s.hubAgent r)
def execTableJoin (r pos : Nat) (s : State) : Out := runR (.tableJoin r pos) s (effTableJoin r pos s)

end Sys2Proof.Machine
end

