-- ==== Sys2Proof/Machine/Xlate.lean ====
section
/-!
DEFINITION. The rows of chapter 11: walks, service replies and timeouts (R295 to R297), XLATE_PRIME, XLATE_INVAL with its invalidations and
acknowledgements (R298 to R300), WINDOW_SET (R302, R303), the polling of fault queues and the fault-wait limit (R307).
-/

namespace Sys2Proof.Machine

open Sys2Proof

/-! ## Walks -/

/-- Agent kind and index of Table 11-11 behind a cache. -/
def cacheAgent (c : Nat) : Nat × Nat :=
  if c < 512 then (0, 4 * c)
  else if c < 528 then (0, 128 * (c - 512))
  else if c < 600 then (7, c - 528)
  else if c < 632 then (3, c - 600)
  else if c < 664 then (2, c - 600)
  else if c < 696 then (4, c - 664)
  else if c < 728 then (5, c - 696)
  else (6, c - 728)

/-- The cache may serve the partition: hub caches serve all, a die's caches the partition of the die (R26). -/
def State.cacheServes (s : State) (c part : Nat) : Bool :=
  let w := walkerOf c
  if 528 ≤ w then s.hubWorks (w - 528) else s.dieWorks (w - 512) && s.dieOwner (w - 512) == some part

/-- The fault record of a walk that failed, for the agent of its cache. -/
def State.walkFail (s : State) (c part asid access cause kind addr : Nat) : State :=
  s.postEvent part { addr := addr, time := s.now, cause := cause, asid := asid, agentKind := (cacheAgent c).1, agentIx := (cacheAgent c).2
                     kind := kind, access := access }

/-- A miss is walked and its leaf installed; a failure writes a fault record (R291). -/
def effTranslationWalk (c part asid va access : Nat) (s : State) : State :=
  if !s.cacheServes c part then s else
  match s.xlate c part asid va access with
  | (.fail _ cause, s) => s.walkFail c part asid access cause 1 va
  | (.uncorr pa, s) => s.walkFail c part asid access 0x10 2 pa
  | (_, s) => s
def execTranslationWalk (c part asid : Nat) (va : Word) (access : Nat) (s : State) : Out :=
  runR (.translationWalk c part asid va access) s (effTranslationWalk c part asid va.toNat access s)

/-! ## Service requests (R295 to R297) -/

/-- An open request leaves the die's list. -/
def State.svcClose (s : State) (n tag : Nat) : State :=
  (s.setSvc n { s.svc n with open_ := (s.svc n).open_.drop fun t => t == tag }).decF .XL_SVC_STATUS_OPEN n

/-! ## Result entries of check units (R334) -/

/-- An entry of a check unit that cannot be written is lost; a failed translation has its fault record (R297). -/
def State.chkLose (s : State) (u : Nat) (x : Option FRec) : State :=
  let s := match x with
    | some x => s.postEvent (s.chkUnit u).loc.part { x with time := s.now, asid := (s.chkUnit u).loc.asid, agentKind := 6, agentIx := u }
    | none => s
  s.incF .CHK_MSGS_LOST_ENTRIES u

/-- The bytes of an entry written, 0 to 23 before the completion word; behind an import of the binding ASID by window requests (R304). -/
def State.chkPut (s : State) (u va : Nat) (l : Loc) (b : Bytes) : State :=
  match l with
  | .remote .. => s.sendWrites (u / 8) l false b (.chk u) va
  | _ =>
    match s.writeLoc l .narrow (b.take 24) with
    | (some _, s) => s.chkLose u none
    | (none, s) =>
      match s.writeLoc (l.add 24) .narrow (b.drop 24) with
      | (some _, s) => s.chkLose u none
      | (none, s) => s

/-- A unit unbound. -/
def State.unbind (s : State) (u : Nat) : State := (s.resetReg .CHK_BIND u).setChk u {}

/-- A unit has no message left to judge and no entry left to write. -/
def ChkUnit.quiet (x : ChkUnit) : Bool := x.msgs.isEmpty && x.todo.isEmpty

/-- Writes the entries of a unit in order; one whose translation waits for a service reply holds those behind it (R295).
A unit that stops is unbound after its last. -/
def State.chkPump (s : State) (u : Nat) : Nat → State
  | 0 => s
  | n + 1 =>
    let x := s.chkUnit u
    match x.todo with
    | [] => s
    | (va, b) :: t =>
      let go := fun (s : State) =>
        let s := s.setChk u { s.chkUnit u with todo := t }
        if (s.chkUnit u).stopping && (s.chkUnit u).quiet then s.unbind u else s.chkPump u n
      match x.loc.loc with
      | some (.host k _) => go (s.chkPut u va (.host k va) b)
      | _ =>
        match s.xlate (chkCache u) x.loc.part x.loc.asid va 2 with
        | (.ok l, s) => go (s.chkPut u va l b)
        | (.fail _ cause, s) => go (s.chkLose u (some { addr := va, cause := cause, kind := 1, access := 2 }))
        | (.uncorr pa, s) => go (s.chkLose u (some { addr := pa, cause := 0x10, kind := 2, access := 1 }))
        | (.wait d tag, s) => s.svcJoin d tag fun x => { x with units := if x.units.contains u then x.units else x.units ++ [u] }

/-- The translation that the oldest entry of a unit waits on has failed. -/
def State.chkFail (s : State) (page cause u : Nat) : State :=
  match (s.chkUnit u).todo with
  | [] => s
  | (va, _) :: t =>
    if va / 65536 ≠ page / 65536 then s
    else ((s.chkLose u (some { addr := va, cause := cause, kind := 1, access := 2 })).setChk u { s.chkUnit u with todo := t }).chkPump u t.length

/-! ## The end of a wait -/

/-- A command waits on a translation of its own or of its flag. -/
def Entry.waits (e : Entry) : Bool := e.waiting.isSome && e.st == .running && (e.phase == 9 || e.res.isSome)

/-- A command whose waiting translation has failed with `cause`: XLATE_PRIME passes over the page (R298), any other ends with XLATE_FAULT. -/
def State.failWait (s : State) (page cause : Nat) (r pos : Nat) : State :=
  match s.entry? r pos with
  | none => s
  | some e =>
    if e.op = 0x20 && e.active && !(e.flagEn && e.flag.isNone) then s.modEntry r pos fun e => { e with skips := page / 65536 :: e.skips }
    else match e.waiting with
    | none => s
    | some w =>
      if !e.waits then s
      else if e.res.isSome then s.failFlag r pos stXLATE (s.cmdRec r pos cause 1 w.va w.need 7 (s.hubAgent r))
      else if e.active then
        let (kind, ix) := s.cmdAgent r pos
        let res : Result := { status := stXLATE, result := s.progress r pos }
        ((s.dropParts r pos).failRec r pos res (s.cmdRec r pos cause 1 w.va w.need kind ix)).settleEngine r pos
      else s

/-- A group whose waiting translation has failed: KERNEL_FAULT with XLATE (Table 11-10). -/
def State.failGroupWait (s : State) (g : Nat) : State :=
  let y := s.group g
  let k := s.kernel y.kernel
  match y.wait, y.waiting with
  | .service, some w =>
    if !y.live then s else
    (s.setGroup g { y with wait := .stopped, waiting := none }).groupFault g
      { status := stKFAULT, sub := 3, result := y.ipc, detail := y.team * k.team + y.inTeam }
      { addr := w.va, mask := y.lanes, time := s.now, pos := some k.pos, ring := some k.ring, cause := 0x23, asid := k.asid, agentKind := 0,
        agentIx := g / 32, kind := 1, access := w.need, info := y.ipc }
  | _, _ => s

/-- What waited for a free tag of a die's queue is tried again: groups, tables and check units that no open request holds, and window requests. -/
def State.serveParked (s : State) (n : Nat) : State :=
  let l := s.xl.parked
  let held := s.xl.svc.flatMap fun (e : Nat × Svc) => e.2.open_.flatMap fun (t : Nat × SvcReq) => t.2.groups
  let s := { s with groups := s.groups.map fun (e : Nat × Group) =>
    if e.2.live && e.2.wait == GWait.service && !held.contains e.1 then (e.1, { e.2 with wait := GWait.none }) else e }
  let tabs := s.xl.svc.flatMap fun (e : Nat × Svc) => e.2.open_.flatMap fun (t : Nat × SvcReq) => t.2.tables
  let s := ((s.tables.filter fun (e : Nat × TTable) => e.2.waiting && !tabs.contains e.1).map (·.1)).foldl State.resumeTable s
  let units := s.xl.svc.flatMap fun (e : Nat × Svc) => e.2.open_.flatMap fun (t : Nat × SvcReq) => t.2.units
  let s := ((s.chk.filter fun (e : Nat × ChkUnit) => !e.2.todo.isEmpty && !units.contains e.1).map fun (e : Nat × ChkUnit) => e.1).foldl
    (fun s u => s.chkPump u (s.chkUnit u).todo.length) s
  (l.filter fun (x : Nat × Nat × TPacket) => x.1 == n).foldl (fun s (x : Nat × Nat × TPacket) => s.serveAndReply x.2.1 x.2.2)
    { s with xl := { s.xl with parked := l.filter fun (x : Nat × Nat × TPacket) => x.1 != n } }

/-- Every access waiting on a request fails with `cause`. -/
def State.svcFail (s : State) (n tag cause : Nat) : State :=
  match (s.svc n).open_.find? fun (e : Nat × SvcReq) => e.1 == tag with
  | none => s
  | some (_, x) =>
    let s := s.svcClose n tag
    let s := x.cmds.foldl (fun s (r, pos) => s.failWait x.page cause r pos) s
    let s := x.groups.foldl (fun s g => s.failGroupWait g) s
    let s := x.tables.foldl (fun s k => s.failTable k cause) s
    let s := x.units.foldl (fun s u => s.chkFail x.page cause u) s
    let s := x.pkts.foldl (fun s (h, p) =>
      (s.windowRec p 0x0D 4 p.offset p.needs).sendResponse h (p.reply s.node (s.f .TLS_CTRL_HOPS) 0x0A 2 [])) s
    (s.serveParked n).settleAnswers

/-- The accesses waiting on a request go on: commands are taken again, groups issue again, window requests are served again. -/
def State.svcWake (s : State) (n tag : Nat) : State :=
  match (s.svc n).open_.find? fun (e : Nat × SvcReq) => e.1 == tag with
  | none => s
  | some (_, x) =>
    let s := s.svcClose n tag
    let s := x.cmds.foldl (fun s (r, pos) => if s.tagHeld r pos then s else s.modEntry r pos fun e => { e with waiting := none }) s
    let s := x.groups.foldl (fun s g =>
      if (s.group g).live && (s.group g).wait == .service then s.setGroup g { s.group g with wait := .none, waiting := none } else s) s
    let s := x.tables.foldl State.resumeTable s
    let s := x.units.foldl (fun s u => s.chkPump u (s.chkUnit u).todo.length) s
    let s := x.pkts.foldl (fun s (h, p) => s.serveAndReply h p) s
    (s.serveParked n).settleAnswers

/-- Requests waiting for room are written, lowest tag first. -/
def State.svcPump (s : State) (n : Nat) : State :=
  (s.svc n).open_.foldl (fun s (e : Nat × SvcReq) => if e.2.written then s else s.svcWrite n e.1 e.2) s

/-- A reply with ACTION RETRY: the walk is repeated from the root (R296). -/
def State.svcRetry (s : State) (n tag : Nat) : State :=
  match (s.svc n).open_.find? fun (e : Nat × SvcReq) => e.1 == tag with
  | none => s.incF .XL_SVC_STATUS_BAD_REPLY n
  | some (_, x) =>
    match s.walkVa x.walker x.part x.asid x.page with
    | (.absent ea level svc, s) =>
      if !svc then s.svcWake n tag
      else if 16 ≤ x.tries + 1 then s.svcFail n tag 0x05
      else
        let x := { x with tries := x.tries + 1, entry := ea, level := level, at_ := s.eng, written := false }
        (s.setSvc n { s.svc n with open_ := (s.svc n).open_.fput tag x noSvc }).svcWrite n tag x
    | (.leaf e, s) => (s.tlbPut x.walker e).svcWake n tag
    | (_, s) => s.svcWake n tag

/-- A reply with ACTION FAULT (R296). -/
def State.svcFault (s : State) (n tag : Nat) : State :=
  if (s.svc n).open_.any fun (e : Nat × SvcReq) => e.1 == tag then s.svcFail n tag 0x05 else s.incF .XL_SVC_STATUS_BAD_REPLY n

/-- A write of XL_SVC_CONS (Table 11-14). -/
def State.svcCons (s : State) (n v : Nat) : State :=
  let v := v % 2 ^ 32
  if 2 ^ s.f .XL_SVC_CTRL_SIZE_LOG2 n < fqD (s.f .XL_SVC_PROD_PROD n) v then s.setF .XL_SVC_STATUS_CONS_ERR n 1
  else ((s.setF .XL_SVC_CONS_CONS n v).svcFull n).svcPump n

/-- The reply limit of a die, µs. -/
def State.svcLimit (s : State) (n : Nat) : Nat :=
  if s.f .XL_SVC_CTRL_LIMIT_US n = 0 then 1000 else s.f .XL_SVC_CTRL_LIMIT_US n

def effSvcTimeout (n tag dt : Nat) (s : State) : State :=
  let s := s.elapse dt
  match (s.svc n).open_.find? fun (e : Nat × SvcReq) => e.1 == tag with
  | none => s
  | some (_, x) =>
    if x.written && decide (x.at_ + s.svcLimit n * 1000 ≤ s.eng) then
      (s.incF .XL_SVC_STATUS_TIMEOUTS n).svcFail n tag 0x06
    else s
def execSvcTimeout (n tag dt : Nat) (s : State) : Out := run (.svcTimeout n tag dt) s (effSvcTimeout n tag dt s)

/-! ## Fault queues (R307) -/

/-- The first stalled command of a queue: ring, position and stall. -/
def State.firstStall (s : State) (q : Nat) : Option (Nat × Nat × Stall) :=
  s.openCmds.findSome? fun (r, e) =>
    match e.stall with
    | some t => if t.queue == q then some (r, e.pos, t) else none
    | none => none

/-- Writes waiting records while there is room: those left by expired stalls, those of stalled commands, then the pending buffer. -/
def State.fqDrain (s : State) (q : Nat) : Nat → State
  | 0 => s
  | n + 1 =>
    match (s.fq q).waiting with
    | x :: t =>
      match s.fqWrite q x with
      | (true, s) =>
        let s := s.setFq q { s.fq q with waiting := t }
        (s.setPend q (s.fq q).pend).fqDrain q n
      | (false, s) => s
    | [] =>
      match s.firstStall q with
      | some (r, pos, t) =>
        match s.fqWrite q t.frec with
        | (true, s) =>
          let s := (s.modEntry r pos fun e => { e with stall := none }).finish r pos { t.res with faultRec := true }
          (s.leaveEngines r pos).fqDrain q n
        | (false, s) => s
      | none =>
        match (s.fq q).pend with
        | x :: t =>
          match s.fqWrite q x with
          | (true, s) => (s.setPend q t).fqDrain q n
          | (false, s) => s
        | [] => s

def effFaultQueuePoll (q dt : Nat) (s : State) : State :=
  let s := s.elapse dt
  if s.fb .XL_FQ_STATUS_FULL q || !(s.fq q).pend.isEmpty || !(s.fq q).waiting.isEmpty || (s.firstStall q).isSome then
    (s.fqRoom q).2.fqDrain q 8192
  else s
def execFaultQueuePoll (q dt : Nat) (s : State) : Out := runR (.faultQueuePoll q dt) s (effFaultQueuePoll q dt s)

/-- A service request has been written, and waits for its reply only. -/
def State.svcWritten (s : State) (on : SvcReq → Bool) : Bool :=
  s.xl.svc.any fun (e : Nat × Svc) => e.2.open_.any fun (t : Nat × SvcReq) => t.2.written && on t.2

/-- A service request has not been written yet: its queue has no room. -/
def State.svcUnwritten (s : State) (on : SvcReq → Bool) : Bool :=
  s.xl.svc.any fun (e : Nat × Svc) => e.2.open_.any fun (t : Nat × SvcReq) => !t.2.written && on t.2

/-- An access has waited past the fault-wait limit of its ring's queue. -/
def State.overdue (s : State) (r : Nat) (w : Option Waiting) : Bool :=
  w.any fun w => decide (w.since + s.waitUs (s.ringQueue r) * 1000 ≤ s.eng)

/-- The groups of a command's kernels whose accesses have waited past the limit for room in a service queue (R297). -/
def State.groupsHeld (s : State) (r pos : Nat) : List Nat :=
  (s.groups.filter fun (e : Nat × Group) =>
    e.2.live && e.2.wait == .service && (s.kernel e.2.kernel).ring == r && (s.kernel e.2.kernel).pos == pos &&
      s.overdue r e.2.waiting && !s.svcWritten fun x => x.groups.contains e.1).map fun (e : Nat × Group) => e.1

/-- A command that has waited too long for a fault queue or a service queue ends with FAULT_QUEUE_FULL (R297, R307). A record that it had still
to write stays pending. VIS is that of its end: 0x3F for a kernel, whose end actions are done (R145). -/
def State.endFull (s : State) (r pos result : Nat) (vis : Nat := 0) : State :=
  ((s.dropParts r pos).finish r pos { status := stFQFULL, result := result, vis := vis }).leaveEngines r pos

def effFaultWaitExpiry (r pos dt : Nat) (s : State) : State :=
  let s := s.elapse dt
  match s.entry? r pos with
  | none => s
  | some e =>
    match e.stall with
    | some t =>
      if t.since + s.waitUs t.queue * 1000 ≤ s.eng then s.endFull r pos t.res.result t.res.vis else s
    | none =>
      if e.waits && s.overdue r e.waiting && (!s.tagHeld r pos || s.svcUnwritten fun x => x.cmds.contains (r, pos)) then
        match e.res with
        | none => s.endFull r pos (s.progress r pos)
        | some y =>
          -- the flag is not written
          let ok := y.status == stDONE || y.status == stREPLAYED
          s.modEntry r pos fun e => { e with flag := none, waiting := none, res := some (if ok then { status := stFQFULL } else y) }
      else (s.groupsHeld r pos).foldl (fun s g =>
        let y := s.group g
        let k := s.kernel y.kernel
        match y.waiting with
        | none => s
        | some w =>
          (s.setGroup g { y with wait := .stopped, waiting := none }).groupFault g { status := stFQFULL }
            -- no fault has a record here
            { addr := w.va, cause := 0 }) s
def execFaultWaitExpiry (r pos dt : Nat) (s : State) : Out := run (.faultWaitExpiry r pos dt) s (effFaultWaitExpiry r pos dt s)

/-! ## XLATE_PRIME (R298) -/

/-- What a priming walk has found. -/
structure Prime where
  leaves : List TlbEnt := []
  absent : Nat := 0
  bad : Option Nat := none
  /-- the replies it waits for: queue, tag and page -/
  waits : List (Nat × Option Nat × Nat) := []

/-- Walks the pages of [va, hi), largest steps first seen; pages in `skips` have had their reply. -/
def State.primeWalk (s : State) (wk part asid hi : Nat) (service : Bool) (skips : List Nat) : Nat → Nat → Prime → Prime × State
  | 0, _, p => (p, s)
  | fuel + 1, va, p =>
    if hi ≤ va then (p, s)
    else match s.walkVa wk part asid (canonVa va) with
      | (.leaf e, s) =>
        let next := (va / e.size + 1) * e.size
        s.primeWalk wk part asid hi service skips fuel next { p with leaves := p.leaves ++ [e] }
      | (.absent ea level svc, s) =>
        let next := min hi ((va / 2 ^ levelLo level + 1) * 2 ^ levelLo level)
        let skip := { p with absent := p.absent + divUp (next - va) 65536 }
        let one := { p with absent := p.absent + 1 }
        if service && svc then
          if skips.contains (canonVa va / 65536) then s.primeWalk wk part asid hi service skips fuel (va + 65536) one
          else match s.svcOpen part asid (canonVa va) ea level 1 wk with
          | (.wait n tag, s) =>
            s.primeWalk wk part asid hi service skips fuel (va + 65536) { one with waits := p.waits ++ [(n, tag, canonVa va)] }
          | (_, s) => s.primeWalk wk part asid hi service skips fuel next skip
        else s.primeWalk wk part asid hi service skips fuel next skip
      | (.uncorr pa, s) => ({ p with bad := some pa }, s)
      | (.fail .., s) => s.primeWalk wk part asid hi service skips fuel (va + 65536) p

def effXlatePrime (r pos : Nat) (s : State) : State :=
  s.startCmd r pos 0x20 fun s e =>
    let va := e.body 0 8
    let size := e.body 8 8
    let mask := e.body 16 2
    let flags := e.body 18 1
    let p := s.ringPart r
    let own := maskOf (s.partDies p)
    if 8 ≤ flags || !e.zero 19 45 then s.endWith r pos stPARAM
    else if size = 0 || 2 ^ 40 < size || 2 ^ 64 < va + size || nonCanonical va || nonCanonical (va + size - 1) ||
        andNot mask own ≠ 0 then s.endWith r pos stPARAM
    else
      let dies := bitList (if mask = 0 then own else mask) 16
      let wk := s.cmdCache r
      match s.primeWalk wk p (s.ringAsid r) (va % 2 ^ 57 + size) (bitOf flags 2) e.skips (2 ^ 25) (va % 2 ^ 57 / 65536 * 65536) {} with
      | (x, s) =>
        match x.bad, x.waits with
        | some pa, _ => s.failRec r pos { status := stUNCORR } (s.cmdRec r pos 0x10 2 pa 1 7 (s.hubAgent r))
        | none, w :: ws => (w :: ws).foldl (fun s (n, tag, page) => s.cmdWait r pos n tag page 1) s
        | none, [] =>
          let caches := dies.flatMap (fun n => dieCache n :: (if bitOf flags 0 then (List.range 32).map fun c => clusterCache (32 * n + c) else []))
            ++ (if bitOf flags 1 then (List.range 4).map hubCache else [])
          let s := x.leaves.foldl (fun s l => caches.foldl (fun s c => s.tlbPut c l) s) s
          s.doneWith r pos x.leaves.length 0 x.absent
def execXlatePrime (r pos : Nat) (s : State) : Out := runR (.xlatePrime r pos) s (effXlatePrime r pos s)

/-! ## XLATE_INVAL (R299, R300) -/

/-- Every translation cache of the partition's dies and of the hubs. -/
def State.invalCaches (s : State) (p : Nat) : List Nat :=
  ((s.partDies p).flatMap fun n =>
    dieCache n :: ((List.range 32).map fun c => clusterCache (32 * n + c)) ++
      [copyCache (32 + 2 * n), copyCache (33 + 2 * n), tapCache (2 * n), tapCache (2 * n + 1), celCache (2 * n), celCache (2 * n + 1)]) ++
  ((List.range 4).filter s.hubWorks).flatMap fun h =>
    hubCache h :: ((List.range 8).map fun e => copyCache (8 * h + e)) ++ ((List.range 8).map fun u => chkCache (8 * h + u))

def effXlateInval (r pos : Nat) (s : State) : State :=
  s.startCmd r pos 0x21 fun s e =>
    let va := e.body 0 8
    let size := e.body 8 8
    let asid := e.body 16 2
    let flags := e.body 18 1
    let p := s.ringPart r
    let all := bitOf flags 0
    let whole := bitOf flags 1
    if 4 ≤ flags || !e.zero 19 45 then s.endWith r pos stPARAM
    else if (if whole then va ≠ 0 || size ≠ 0 else va % 65536 ≠ 0 || size % 65536 ≠ 0 || size = 0) then s.endWith r pos stPARAM
    else if (if all then asid ≠ 0 else 2 ^ s.f .XL_AST_LOG2 p ≤ asid) then s.endWith r pos stPARAM
    else
      let s := s.modEntry r pos fun e => { e with phase := 5 }
      { s with xl := { s.xl with acks := s.xl.acks ++ (s.invalCaches p).map fun c => (r, pos, c) } }
def execXlateInval (r pos : Nat) (s : State) : Out := run (.xlateInval r pos) s (effXlateInval r pos s)

/-- An invalidation covers [a, a + n) of an address space. -/
def invCovers (e : Entry) (part p asid a n : Nat) : Bool :=
  part == p && (bitOf (e.body 18 1) 0 || asid == e.body 16 2) &&
    (bitOf (e.body 18 1) 1 || (decide (a < e.body 0 8 + e.body 8 8) && decide (e.body 0 8 < a + n)))

/-- A held translation that the invalidation covers is dropped. -/
def Held.inval (h : Held) (e : Entry) (p : Nat) : Held :=
  if invCovers e p h.part h.asid (h.va / 65536 * 65536) 65536 then { h with loc := none } else h

/-- The range of an access of a window request, its own address or that of the destination of its data, is covered. -/
def RReq.covered (x : RReq) (e : Entry) (part p asid : Nat) : Bool :=
  invCovers e part p asid x.va (max x.len 1) || (x.dst.isSome && invCovers e part p asid x.dstVa (max x.len 1))

/-- An answer is owed to a window request that was translated by a hub cache, or belongs to a span of an engine, and that the invalidation
covers. -/
def State.remoteOpenIn (s : State) (e : Entry) (p cache : Nat) : Bool :=
  s.rreqs.any fun (x : Nat × RReq) =>
    match x.2.wait with
    | .cmd r pos =>
      (hubCache x.2.hub == cache || s.movers.any fun m => m.ring == r && m.pos == pos && copyCache m.engine == cache) &&
        x.2.covered e p (s.ringPart r) (s.ringAsid r)
    | .group g .. =>
      let k := s.kernel (s.group g).kernel
      hubCache x.2.hub == cache && x.2.covered e p k.part k.asid
    | .chk u => chkCache u == cache && x.2.covered e p (s.chkUnit u).loc.part (s.chkUnit u).loc.asid
    | .flag r _ => hubCache x.2.hub == cache && x.2.covered e p (s.ringPart r) (s.ringAsid r)
    | .table k .. => hubCache x.2.hub == cache && x.2.covered e p (s.table k).ready.part (s.table k).ready.asid

/-- A copy engine is inside a span that the invalidation covers: it goes on through its translation, and answers when the span is done (R300). -/
def State.spanOpenIn (s : State) (e : Entry) (p cache : Nat) : Bool :=
  s.movers.any fun m => copyCache m.engine == cache && (m.srcAt.toList ++ m.dstAt.toList).any fun h =>
    invCovers e p h.part h.asid h.va 65536

/-- Walks not yet ended, whose service request waits for a reply, that an invalidation covers: their fills are discarded, and the reply has
them repeated from the root (R294). -/
def State.walksCovered (s : State) (e : Entry) (p cache : Nat) : Nat :=
  s.xl.svc.foldl (fun n (x : Nat × Svc) => n + (x.2.open_.filter fun (t : Nat × SvcReq) =>
    t.2.walker == cache && invCovers e p t.2.part t.2.asid (t.2.page / 65536 * 65536) 65536).length) 0

/-- What an invalidation covers leaves a cache and its walk cache. -/
def Xlate.dropCovered (x : Xlate) (e : Entry) (p cache : Nat) : Xlate :=
  { x with
    tlb := x.tlb.fput cache ((x.tlb.fget cache []).filter fun t => !invCovers e p t.part t.asid t.va t.size) []
    walk := x.walk.fput cache ((x.walk.fget cache []).filter fun t =>
      !invCovers e p t.part t.asid (canonVa (t.va * 2 ^ levelLo t.level)) (2 ^ levelLo t.level)) [] }

/-- Every translation that a command or a table of the partition holds and the invalidation covers is dropped. -/
def State.dropHeld (s : State) (e : Entry) (p : Nat) : State :=
  { s with
    rings := s.rings.map fun (y : Nat × Ring) => if s.ringModule y.1 then y else
      (y.1, { y.2 with entries := y.2.entries.map fun t =>
        { t with flag := t.flag.map fun h => h.inval e p, holds := t.holds.map fun h => h.inval e p } })
    tables := s.tables.map fun (y : Nat × TTable) =>
      (y.1, { y.2 with ready := y.2.ready.inval e p, record := y.2.record.map fun h => h.inval e p }) }

/-- An invalidation counted by a die cache. -/
def State.countInval (s : State) (e : Entry) (p cache : Nat) : State :=
  if 512 ≤ cache && cache < 528 then
    (s.incF .XL_TC_STATS_INVALS (cache - 512)).incF .XL_TC_STATS_DISCARDS (cache - 512) (s.walksCovered e p cache)
  else s

/-- A cache answers when its accesses are at their point of visibility. -/
def State.ackInval (s : State) (r pos : Nat) (e : Entry) (p cache : Nat) : State :=
  if s.remoteOpenIn e p cache || s.spanOpenIn e p cache then s
  else { s with xl := { s.xl with acks := s.xl.acks.erase (r, pos, cache) } }

/-- A cache receives the invalidation: it drops what is covered, and so does the die or hub cache behind it, out of which it would be filled
again. Held translations renewed meanwhile through a cache that has not received it yet are dropped with that cache's own entries. -/
def effTranslationInv (r pos cache : Nat) (s : State) : State :=
  match s.entry? r pos with
  | none => s
  | some e =>
    if !e.active || e.op ≠ 0x21 || !(s.xl.acks.contains (r, pos, cache)) then s
    else
      let p := s.ringPart r
      let s := { s with xl := (s.xl.dropCovered e p cache).dropCovered e p (walkerOf cache) }
      ((s.dropHeld e p).countInval e p cache).ackInval r pos e p cache
def execTranslationInv (r pos cache : Nat) (s : State) : Out := run (.translationInv r pos cache) s (effTranslationInv r pos cache s)

/-- When every cache has answered, dirty near-cache bytes of the partition are written back and the command completes. -/
def effTranslationAck (r pos : Nat) (s : State) : State :=
  match s.entry? r pos with
  | none => s
  | some e =>
    if e.active && e.op == 0x21 && e.phase == 5 && !(s.xl.acks.any fun a => a.1 == r && a.2.1 == pos) then
      let p := s.ringPart r
      let (bad, s) := s.flushNear (s.partDies p)
      (s.postLost p bad).doneWith r pos 0 0x3F
    else s
def execTranslationAck (r pos : Nat) (s : State) : Out := runR (.translationAck r pos) s (effTranslationAck r pos s)

/-! ## WINDOW_SET (R302, R303) -/

/-- A location lies in an import. -/
def Loc.inImport : Loc → Nat → Bool
  | .remote _ _ _ f, key => f == key
  | _, _ => false

/-- Accesses through an import are under way: its requests, those whose data goes into it, and data waiting to be sent into it. -/
def State.importBusy (s : State) (key : Nat) : Bool :=
  (s.rreqs.any fun (x : Nat × RReq) => x.2.flow == key || x.2.dst.any fun l => l.inImport key) ||
    s.openCmds.any fun (_, e) => e.fwd.any fun x => x.loc.inImport key

/-- Window requests to an export wait for a translation of its range. -/
def State.exportBusy (s : State) (key : Nat) : Bool :=
  (s.xl.parked.any fun (x : Nat × Nat × TPacket) => x.2.2.window == key) ||
    s.xl.svc.any fun (x : Nat × Svc) => x.2.open_.any fun (t : Nat × SvcReq) => t.2.pkts.any fun (y : Nat × TPacket) => y.2.window == key

def effWindowSet (r pos : Nat) (s : State) : State :=
  s.startCmd r pos 0x22 fun s e =>
    let base := e.body 0 8
    let size := e.body 8 8
    let off := e.body 16 8
    let node := e.body 24 4
    let remote := e.body 28 2
    let slot := e.body 30 1
    let kind := e.body 31 1
    let rights := e.body 32 1
    let flags := e.body 33 1
    let p := s.ringPart r
    let key := 256 * p + slot
    let imp := kind == 0
    let put := fun (s : State) (w : Win) =>
      if imp then { s with xl := { s.xl with imports := s.xl.imports.fput key w {} } }
      else { s with xl := { s.xl with exports := s.xl.exports.fput key w {} } }
    let wait := fun (s : State) => s.modEntry r pos fun e => { e with phase := 9, waiting := none }
    -- accesses that passed the earlier definition are performed first (R303): those of an import under way, those an export still translates
    let finish := fun (s : State) (w : Win) =>
      if !imp && s.exportBusy key then wait s
      else
        let s := put s w
        if imp && s.importBusy key then wait s else s.doneWith r pos
    if 2 ≤ kind || 2 ≤ flags || 8 ≤ rights || !e.zero 34 30 then s.endWith r pos stPARAM
    else if bitOf flags 0 then
      if base ≠ 0 || size ≠ 0 || off ≠ 0 || node ≠ 0 || remote ≠ 0 || rights ≠ 0 then s.endWith r pos stPARAM
      else finish s {}
    else if bitsOf node 20 11 ≠ 0 || (imp && bitOf node 31) || (imp && 4096 ≤ remote) || (!imp && (remote ≠ 0 || off ≠ 0)) then
      s.endWith r pos stPARAM
    else if size < 65536 || 2 ^ 40 < size || size % 65536 ≠ 0 || off % 65536 ≠ 0 || base % 65536 ≠ 0 || 2 ^ 64 < base + size ||
        nonCanonical base || nonCanonical (base + size - 1) || rights = 0 || 2 ^ 40 < off + size then s.endWith r pos stPARAM
    else if imp && s.xl.imports.any (fun (x : Nat × Win) =>
        x.1 / 256 == p && x.1 != key && x.2.live && x.2.asid == s.ringAsid r && decide (x.2.base < base + size) &&
          decide (base < x.2.base + x.2.size)) then s.endWith r pos stPARAM
    else
      finish s { live := true, asid := s.ringAsid r, base := base, size := size, offset := off, node := node % 2 ^ 20,
                 anyNode := bitOf node 31, remote := remote, rights := rights }
def execWindowSet (r pos : Nat) (s : State) : Out := run (.windowSet r pos) s (effWindowSet r pos s)

end Sys2Proof.Machine
end

