-- ==== Sys2Proof/Machine/Cellar.lean ====
section
/-!
DEFINITION. The cellar (chapter 7): cask table descriptors and entries (R197 to R200), CASK_ALLOC, CASK_RACK, CASK_FREE and CASK_MOVE with
their waits (R201 to R211, R483), and the formatting and dropping of regions (R218).
-/

namespace Sys2Proof.Machine

open Sys2Proof

/-! ## Descriptors (R198, R199) -/

/-- A cask table descriptor (Table 7-4). -/
structure Desc where
  entries : Nat
  contexts : Nat
  blocks : Nat
  layers : Nat
  heads : Nat
  format : Nat
  hd : Nat
  tag : Nat
  mask : Nat
deriving DecidableEq, Repr

/-- Head dimension, capacity in tokens (Table 7-1) and the layout of a row (Table 7-2). -/
def Desc.dim (d : Desc) : Nat := 64 * 2 ^ d.hd
def Desc.cap (d : Desc) : Nat :=
  if d.format = 7 then 960 / 2 ^ d.hd else if d.format < 4 then 256 / 2 ^ d.hd else 512 / 2 ^ d.hd
def Desc.rowBytes (d : Desc) : Nat := if d.format = 7 then d.dim / 2 else if d.format < 4 then 2 * d.dim else d.dim
def Desc.valBase (d : Desc) : Nat := if d.format = 7 then 32640 else 32768
def Desc.scaleBytes (d : Desc) : Nat := if d.format = 7 then d.dim / 32 else 0

def Desc.ofBytes (b : Bytes) : Desc :=
  { entries := fldB b 0 8, contexts := fldB b 8 4, blocks := fldB b 12 4, layers := fldB b 16 2, heads := fldB b 18 2,
    format := fldB b 20 1, hd := fldB b 21 1, tag := fldB b 22 2, mask := fldB b 24 4 }

/-- The 64 bytes of a descriptor. -/
def Desc.toBytes (d : Desc) : Bytes :=
  leBytes 8 d.entries ++ leBytes 4 d.contexts ++ leBytes 4 d.blocks ++ leBytes 2 d.layers ++ leBytes 2 d.heads ++ leBytes 1 d.format ++
    leBytes 1 d.hd ++ leBytes 2 d.tag ++ leBytes 4 d.mask ++ zeroBytes 36

/-- Every field lies in its range and the reserved bytes are zero. -/
def Desc.ok (d : Desc) (b : Bytes) : Bool :=
  d.entries % 64 == 0 && decide (1 ≤ d.contexts) && decide (d.contexts ≤ 2 ^ 24) && decide (1 ≤ d.blocks) &&
    decide (d.blocks ≤ 2 ^ 24) && decide (1 ≤ d.layers) && decide (d.layers ≤ 4096) && decide (1 ≤ d.heads) &&
    decide (d.heads ≤ 1024) && [2, 3, 4, 5, 7].contains d.format && decide (d.hd < 3) && (sliceB b 28 36).all (· == 0)

/-- Index and address of the entry of context c, layer l, head h and block b. -/
def Desc.index (d : Desc) (c l h b : Nat) : Nat := ((c * d.layers + l) * d.heads + h) * d.blocks + b
def Desc.entryVa (d : Desc) (c l h b : Nat) : Nat := (d.entries + 8 * d.index c l h b) % 2 ^ 64

/-- The command ends with PARAM and a DETAIL of Table 7-9. -/
def State.celParam (s : State) (r pos detail : Nat) (result : Nat := 0) : State :=
  s.finish r pos { status := stPARAM, detail := detail, result := result }

/-- An address of a cellar command or TAP translated, through cache c, to module memory of the partition; when it is not, the command has ended or waits
(R199). -/
def State.celXlate (s : State) (c r pos va need result : Nat) : Option Nat × State :=
  match s.cmdXlate c r va need with
  | (.ok (.phys _ pa), s) => (some pa, s)
  | (.ok _, s) => (none, s.celParam r pos 1 result)
  | (x, s) => (none, s.failXlate r pos x va need (s.cmdAgent r pos).1 (s.cmdAgent r pos).2 result)

/-- Reads module memory for a cellar command. -/
def State.celRead (s : State) (r pos pa len result : Nat) : Option Bytes × State :=
  match s.readPhys (some (s.ringPart r)) .narrow pa len with
  | (.ok b, s) => (some b, s)
  | (.error (e, a), s) => (none, s.failAccess r pos (.mem e a) 1 (s.cmdAgent r pos).1 (s.cmdAgent r pos).2 result)

/-- The descriptor check of R199. -/
def State.celDesc (s : State) (c r pos table : Nat) : Option Desc × State :=
  if table % 64 ≠ 0 then (none, s.celParam r pos 1)
  else match s.celXlate c r pos table 1 0 with
    | (none, s) => (none, s)
    | (some pa, s) =>
      match s.celRead r pos pa 64 0 with
      | (none, s) => (none, s)
      | (some b, s) =>
        let d := Desc.ofBytes b
        if !d.ok b then (none, s.celParam r pos 1)
        else match s.celXlate c r pos d.entries 1 0 with
          | (none, s) => (none, s)
          | (some _, s) =>
            if d.format = 7 && !bitOf (s.f .ID_FEAT_FEAT) 1 then (none, s.endWith r pos stUNSUPPORTED) else (some d, s)

/-- Reads a table entry. -/
def State.celEntry (s : State) (tc r pos : Nat) (d : Desc) (c l h b need result : Nat) : Option (Nat × Nat) × State :=
  match s.celXlate tc r pos (d.entryVa c l h b) need result with
  | (none, s) => (none, s)
  | (some pa, s) =>
    match s.celRead r pos pa 8 result with
    | (none, s) => (none, s)
    | (some x, s) => (some (leNat x, pa), s)

/-- Writes a table entry whole. -/
def State.celPutEntry (s : State) (r pos pa v result : Nat) : Bool × State :=
  match s.writePhys (some (s.ringPart r)) .narrow false pa (leBytes 8 v) with
  | (none, s) => (true, s)
  | (some (e, a), s) => (false, s.failAccess r pos (.mem e a) 2 (s.cmdAgent r pos).1 (s.cmdAgent r pos).2 result)

/-! ## Resolution (R197, R200) -/

def handleOf (k i gen : Nat) : Nat := i + k * 2 ^ 21 + gen * 2 ^ 26

inductive Resolved where
  | notValid
  | stale
  /-- the cask's stack has failed -/
  | failed
  | cask (k i : Nat)
deriving DecidableEq, Repr

/-- Check 2 of R200: the record matches the entry's handle and position. -/
def State.recMatches (s : State) (p : Nat) (d : Desc) (c l h b v : Nat) : Bool :=
  let i := v % 2 ^ 21
  let k := bitsOf v 21 5
  let x := s.crec k i
  s.dieOwner (k / 2) == some p && s.celReady k && decide (s.f .CLR_FIRST_FIRST k ≤ i) && decide (i < (s.cel k).casks) &&
    s.fb .CLR_CTRL_ENABLE k && crState x == 1 && crGen x == bitsOf v 26 6 && fldB x 8 2 == d.tag && fldB x 16 4 == c && fldB x 10 2 == l && fldB x 12 2 == h &&
    fldB x 20 4 == b && fldB x 28 1 % 16 == p

def State.resolveEntry (s : State) (p : Nat) (d : Desc) (c l h b v : Nat) : Resolved :=
  let k := bitsOf v 21 5
  if !bitOf v 32 then .notValid
  else if s.dieOwner (k / 2) == some p && (s.stack k).failed then .failed
  else if s.recMatches p d c l h b v then .cask k (v % 2 ^ 21)
  else .stale

/-- A record the memory code cannot read (R250): counted when it is read. -/
def State.recBad (s : State) (k i : Nat) : Bool × State :=
  match s.readWord (granKey k (s.recOff k i)) with
  | (some _, s) => (false, s.countPath k .narrow 1)
  | (none, s) => (true, s.countPath k .narrow 1)

/-! ## CASK_ALLOC (R201 to R204) -/

/-- Positions (layer, head, block) of a body's ranges, in ascending entry address. -/
def rangeList (e : Entry) : List (Nat × Nat × Nat) :=
  (List.range (e.body 22 2)).flatMap fun l => (List.range (e.body 26 2)).flatMap fun h => (List.range (e.body 16 4)).map fun b =>
    (e.body 20 2 + l, e.body 24 2 + h, e.body 12 4 + b)

/-- COUNT, and step 2 of R202: `none` when the ranges are in order. -/
def rangeCheck (e : Entry) (d : Desc) : Option Nat :=
  let count := e.body 22 2 * e.body 26 2 * e.body 16 4
  if count = 0 then some 0
  else if 2 ^ 20 < count || d.contexts ≤ e.body 8 4 || d.layers < e.body 20 2 + e.body 22 2 || d.heads < e.body 24 2 + e.body 26 2 ||
      d.blocks < e.body 12 4 + e.body 16 4 then some 2
  else none

/-- The reservation walk of R203: the stack each entry gets, and how many spill. -/
def reserveWalk (place : Nat) (d : Desc) (c : Nat) (list : List Nat) :
    List (Nat × Nat × Nat) → List Nat → List Nat → Nat → Option (List Nat × Nat)
  | [], _, acc, spill => some (acc.reverse, spill)
  | (l, h, b) :: t, free, acc, spill =>
    let n := max list.length 1
    let key := (c * d.layers + l) * d.heads + h
    let want := (if place = 1 then key + b else key) % n
    match ((List.range n).map fun i => (want + i) % n).find? fun i => free.getD i 0 != 0 with
    | none => none
    | some i =>
      reserveWalk place d c list t (free.set i (free.getD i 0 - 1)) (list.getD i 0 :: acc) (if i = want then spill else spill + 1)

/-- Step 4 of R202: whether some entry is already VALID. -/
def State.allocScan (s : State) (r pos : Nat) (d : Desc) (c : Nat) : List (Nat × Nat × Nat) → Option Bool × State
  | [] => (some false, s)
  | (l, h, b) :: t =>
    match s.celEntry (s.cmdCache r) r pos d c l h b 1 0 with
    | (none, s) => (none, s)
    | (some (v, _), s) => if bitOf v 32 then (some true, s) else s.allocScan r pos d c t

/-- The record that an allocation writes. -/
def allocRec (old : Bytes) (d : Desc) (p c l h b : Nat) : Bytes :=
  putAt (leBytes 1 (1 + 16 * b2n (crDamaged old)) ++ leBytes 1 d.format ++ leBytes 1 d.hd ++ leBytes 1 (crGen old) ++ leBytes 2 0 ++
    leBytes 2 0 ++ leBytes 2 d.tag ++ leBytes 2 l ++ leBytes 2 h ++ leBytes 2 0 ++ leBytes 4 c ++ leBytes 4 b ++
    leBytes 4 (crNext old) ++ leBytes 1 p ++ zeroBytes 35) 14 (leBytes 2 0)

/-- The reserved end of an MXFP4 cask holds zero (R191). -/
def State.celReserve (s : State) (k i : Nat) (d : Desc) : State :=
  if d.format ≠ 7 then s else
    (List.range 4).foldl (fun s j => (s.writeGran (granKey k (s.caskOff k i + 65280 + 64 * j)) fullMask (zeroBytes 64)).2) s

/-- R204: entries visited in order from where the command stands, each with the cask reserved for it. -/
def State.allocGo (s : State) (r pos : Nat) (e : Entry) (d : Desc) (list : List (Nat × Nat × Nat)) : Nat → State
  | 0 => s
  | fuel + 1 =>
    match s.cop? r pos with
    | none => s
    | some o =>
      let n := o.count
      let c := e.body 8 4
      match list[n]?, o.reserved with
      | some (l, h, b), (k, i) :: ks =>
        match s.celXlate (s.cmdCache r) r pos (d.entryVa c l h b) 2 n with
        | (none, s) => s
        | (some pa, s) =>
          -- a stack whose region is being dropped has no free cask
          if !s.celReady k || (s.cel k).dropping then s.celParam r pos 3 n
          else
            let old := s.crec k i
            let s := (s.setCrec k i (allocRec old d (s.ringPart r) c l h b)).celReserve k i d
            match s.celPutEntry r pos pa (handleOf k i (crGen old) + 2 ^ 32) n with
            | (true, s) =>
              let s := (s.incF .CLR_USE_ALLOCATED k).incF .CLR_EVENTS_ALLOCS k
              (s.setCop { o with count := n + 1, reserved := ks }).allocGo r pos e d list fuel
            -- the cask not taken goes back as it was
            | (false, s) => s.setCrec k i old
      | _, _ => (s.dropCop r pos).finish r pos { status := stDONE, result := n, detail := o.detail }

/-- The command has ended or stalled: what it holds is released. -/
def State.celSettle (s : State) (r pos : Nat) : State :=
  match s.entry? r pos with
  | some e => if e.res.isSome || e.stall.isSome then s.breakCop r pos else s
  | none => s

/-- The allocation goes on, and what is left of it is dropped when it has ended. -/
def State.allocRun (s : State) (r pos : Nat) (e : Entry) (d : Desc) : State :=
  let l := rangeList e
  (s.allocGo r pos e d l (l.length + 1)).celSettle r pos

def effCaskAlloc (r pos : Nat) (s : State) : State :=
  s.startCmd r pos 0x18 fun s e =>
    let place := e.body 28 1
    let stk := e.body 29 1
    if 3 ≤ place || 32 ≤ stk || (place ≠ 2 && stk ≠ 0) || !e.zero 30 34 then s.celParam r pos 0
    else if let some c := s.cop? r pos then s.allocRun r pos e (Desc.ofBytes c.desc)
    else match s.celDesc (s.cmdCache r) r pos (e.body 0 8) with
      | (none, s) => s
      | (some d, s) =>
        match rangeCheck e d with
        | some x => s.celParam r pos x
        | none =>
          let own := maskOf (s.partStacks (s.ringPart r))
          if andNot d.mask own ≠ 0 || (place = 2 && !bitOf own stk) then s.endWith r pos stRIGHTS
          else if d.mask = 0 || (place = 2 && !bitOf d.mask stk) then s.celParam r pos 2
          else
            let c := e.body 8 4
            let l := rangeList e
            match s.allocScan r pos d c l with
            | (none, s) => s
            | (some true, s) => s.celParam r pos 4
            | (some false, s) =>
              let list := if place = 2 then [stk] else bitList d.mask 32
              match reserveWalk place d c list l (list.map s.celListed) [] 0 with
              | none => s.celParam r pos 3
              | some (ks, spill) =>
                let (got, s) := s.celPopAll ks []
                (s.setCop { ring := r, pos := pos, detail := spill, desc := d.toBytes, reserved := got.reverse }).allocRun r pos e d
def execCaskAlloc (r pos : Nat) (s : State) : Out := runR (.caskAlloc r pos) s (effCaskAlloc r pos s)

/-! ## Taking a cask (R483) -/

/-- A wait on HOLD or WRITER, counted. -/
def State.celWait (s : State) (c : COp) (k : Nat) : State := (s.setCop { c with phase := .take, stack := k }).incF .CLR_EVENTS_HOLD_WAITS k

/-! ## CASK_RACK (R205 to R208) -/

/-- Rows of a rack: token range of the entry `ix`, as (head, block, first position, last position + 1) in the cask. -/
def rackSpan (e : Entry) (d : Desc) (ix : Nat) : Nat × Nat × Nat × Nat :=
  let first := e.body 24 8
  let last := first + e.body 32 4
  let nb := (last - 1) / d.cap - first / d.cap + 1
  let b := first / d.cap + ix % nb
  (e.body 42 2 + ix / nb, b, max first (b * d.cap) - b * d.cap, min last ((b + 1) * d.cap) - b * d.cap)

def rackEntries (e : Entry) (d : Desc) : Nat :=
  e.body 44 2 * ((e.body 24 8 + e.body 32 4 - 1) / d.cap - e.body 24 8 / d.cap + 1)

/-- A source row of the cellar of stack k read through its own cache (Table 11-3), span by span; rows behind an import come by window
requests (R304), a host target is refused (R292). -/
def State.srcRow (s : State) (r pos k va len result : Nat) : Option Bytes × State :=
  (spans va len).foldl (fun (acc, s) (_, a, n) =>
    match acc with
    | none => (none, s)
    | some b =>
      match s.cmdXlate (celCache k) r a 1 with
      | (.ok (.host _ _), s) => (none, s.failXlate r pos (.fail stRIGHTS 0x0A) a 1 5 k result)
      | (.ok (.phys p pa), s) =>
        match s.readPhys (some p) .bulk pa n with
        | (.ok x, s) => (some (b ++ x), s)
        | (.error (x, y), s) => (none, s.failAccess r pos (.mem x y) 1 5 k result)
      | (.ok l, s) =>
        match s.remoteBytes (s.ringHub r) r pos l a n with
        | (some x, s) => (some (b ++ x), s)
        | (none, s) => (none, s)
      | (x, s) => (none, s.failXlate r pos x a 1 5 k result)) ((some [], s) : Option Bytes × State)

/-- A source row converted to its storage form: elements and scales (R184, R185). -/
def rackRow (d : Desc) (srcFmt mult : Nat) (row : Bytes) : Bytes × Bytes :=
  let f := (fmtOfCode srcFmt).getD fB32
  let w := f.width / 8
  let vals := (List.range d.dim).map fun i => rackProd f mult (fldB row (w * i) w)
  if d.format = 7 then
    let blocks := (List.range (d.dim / 32)).map fun i => rackBlock ((vals.drop (32 * i)).take 32)
    let codes := blocks.flatMap (·.2)
    ((List.range (d.dim / 2)).map fun i => BitVec.ofNat 8 (codes.getD (2 * i) 0 % 16 + codes.getD (2 * i + 1) 0 % 16 * 16),
      blocks.map fun b => BitVec.ofNat 8 b.1)
  else
    let g := (fmtOfCode d.format).getD fB16
    (vals.flatMap fun v => leBytes (g.width / 8) (rackElem g v), [])

/-- Bytes of a cask written by the cellar (R280). -/
def State.celWrite (s : State) (k off : Nat) (data : Bytes) : Option Nat × State :=
  (pieces off data.length).foldl (fun (bad, s) (o, a, n) =>
    match bad with
    | some x => (some x, s)
    | none =>
      match (s.slotWrite k a .bulk (decide (n = 64)) off a).writeGran (granKey k a) (byteMask (a % 64) n) (zeroBytes (a % 64) ++ sliceB data o n) with
      | (true, s) => (none, s)
      | (false, s) => (some a, s)) ((none, s) : Option Nat × State)

/-- One side (key or value) of token t written at the cask; `false` when the command has ended. -/
def State.putRow (s : State) (r pos : Nat) (d : Desc) (k i t side result : Nat) (x : Bytes × Bytes) : Bool × State :=
  let o := s.caskOff k i + side * d.valBase + d.rowBytes * t
  let so := s.caskOff k i + (if side = 0 then 30720 else 63360) + d.scaleBytes * t
  match s.celWrite k o x.1 with
  | (some a, s) => (false, s.failAccess r pos (.mem .uncorr (s.paOf k a)) 2 5 k result)
  | (none, s) =>
    match s.celWrite k so x.2 with
    | (some a, s) => (false, s.failAccess r pos (.mem .uncorr (s.paOf k a)) 2 5 k result)
    | (none, s) => (true, s)

/-- Rows lo to hi − 1 of a held cask read, converted and written. -/
def State.rackRows (s : State) (r pos : Nat) (e : Entry) (d : Desc) (k i h b lo count : Nat) : Nat → Bool × State
  | 0 => (true, s)
  | n + 1 =>
    match s.rackRows r pos e d k i h b lo count n with
    | (false, s) => (false, s)
    | (true, s) =>
      let t := lo + n
      let fmt := e.body 46 1
      let len := d.dim * ((fmtOfCode fmt).getD fB32).width / 8
      let off := (h - e.body 42 2) * e.body 52 4 + (b * d.cap + t - e.body 24 8) * e.body 48 4
      match s.srcRow r pos k ((e.body 8 8 + off) % 2 ^ 64) len count with
      | (none, s) => (false, s)
      | (some kr, s) =>
        match s.srcRow r pos k ((e.body 16 8 + off) % 2 ^ 64) len count with
        | (none, s) => (false, s)
        | (some vr, s) =>
          match s.putRow r pos d k i t 0 count (rackRow d fmt (e.body 56 4) kr) with
          | (false, s) => (false, s)
          | (true, s) => s.putRow r pos d k i t 1 count (rackRow d fmt (e.body 60 4) vr)

/-- Steps 3 to 5 of R207 on the cask the command holds: `true` when it is done and the command goes on to the next cask. -/
def State.rackHeld (s : State) (r pos : Nat) (e : Entry) (d : Desc) (c : COp) (h b lo hi : Nat) : Bool × State :=
  let k := c.stack
  let i := c.cask
  let x := s.crec k i
  if crFill x < lo then (false, (s.celClear k i).dropCop r pos |>.celParam r pos 7 c.count)
  else
    let rewrite := decide (lo < crFill x)
    let s := if rewrite && c.phase != .write then s.setCrec k i (crFlags x (crState x) true true) else s
    if rewrite && crPins (s.crec k i) ≠ 0 then (false, s.setCop { c with phase := .pins })
    else
      let s := s.setCop { c with phase := .write }
      match s.rackRows r pos e d k i h b lo c.count (hi - lo) with
      | (false, s) => (false, s.celSettle r pos)
      | (true, s) =>
        let x := s.crec k i
        let s := s.setCrec k i (putAt (crFlags x (crState x) false false) 4 (leBytes 2 (max (crFill x) hi)))
        let s := s.modEntry r pos fun e => { e with got := [] }
        (true, s.setCop { c with phase := .take, ix := c.ix + 1, count := c.count + (hi - lo) })

/-- Casks visited in order from where the command stands. -/
def State.rackGo (s : State) (r pos : Nat) (e : Entry) (d : Desc) : Nat → State
  | 0 => s
  | fuel + 1 =>
    match s.cop? r pos with
    | none => s
    | some c =>
      if rackEntries e d ≤ c.ix then
        (s.dropCop r pos).finish r pos { status := stDONE, result := c.count, vis := 0x3F }
      else
        let (h, b, lo, hi) := rackSpan e d c.ix
        let next := fun (x : Bool × State) => if x.1 then x.2.rackGo r pos e d fuel else x.2
        if c.phase != .take then next (s.rackHeld r pos e d c h b lo hi)
        else match s.celEntry (s.cmdCache r) r pos d (e.body 36 4) (e.body 40 2) h b 1 c.count with
          | (none, s) => s.celSettle r pos
          | (some (v, _), s) =>
            match s.resolveEntry (s.ringPart r) d (e.body 36 4) (e.body 40 2) h b v with
            | .notValid => (s.dropCop r pos).celParam r pos 5 c.count
            | .stale => (s.dropCop r pos).celParam r pos 6 c.count
            | .failed => s.interrupt r pos
            | .cask k i =>
              match s.recBad k i with
              | (true, s) =>
                (s.dropCop r pos).failAccess r pos (.mem .uncorr (s.paOf k (s.recOff k i))) 1 5 k c.count
              | (false, s) =>
                let x := s.crec k i
                if crHold x || crWriter x then s.celWait c k
                else
                  let s := s.setCrec k i (crFlags x (crState x) false true)
                  let c := { c with phase := .pins, stack := k, cask := i }
                  next ((s.setCop c).rackHeld r pos e d c h b lo hi)

/-! ## CASK_FREE (R209) -/

/-- The cask that the command holds, whose entry it has zeroed, is freed when nothing pins it. -/
def State.freeHeld (s : State) (c : COp) : Bool × State :=
  if crPins (s.crec c.stack c.cask) ≠ 0 then (false, s.setCop { c with phase := .pins })
  else
    let s := s.celFree c.stack c.cask true
    (true, s.setCop { c with phase := .take, ix := c.ix + 1, count := c.count + 1 })

def State.freeGo (s : State) (r pos : Nat) (e : Entry) (d : Desc) (l : List (Nat × Nat × Nat)) : Nat → State
  | 0 => s
  | fuel + 1 =>
    match s.cop? r pos with
    | none => s
    | some c =>
      let next := fun (x : Bool × State) => if x.1 then x.2.freeGo r pos e d l fuel else x.2
      if c.phase != .take then next (s.freeHeld c)
      else match l[c.ix]? with
        | none => (s.dropCop r pos).finish r pos { status := stDONE, result := c.count, detail := c.detail }
        | some (ly, h, b) =>
          match s.celEntry (s.cmdCache r) r pos d (e.body 8 4) ly h b 1 c.count with
          | (none, s) => s.celSettle r pos
          | (some (v, _), s) =>
            let skip := fun (s : State) (n : Nat) => (s.setCop { c with ix := c.ix + 1, detail := c.detail + n }).freeGo r pos e d l fuel
            -- the entry is translated again, with write right, before it is written (R199)
            let zero := fun (s : State) => match s.celXlate (s.cmdCache r) r pos (d.entryVa (e.body 8 4) ly h b) 2 c.count with
              | (none, s) => (false, s)
              | (some pa, s) => s.celPutEntry r pos pa 0 c.count
            let gone := fun (s : State) =>
              match zero s with
              | (true, s) => skip s 1
              | (false, s) => s.celSettle r pos
            match s.resolveEntry (s.ringPart r) d (e.body 8 4) ly h b v with
            | .notValid => skip s 0
            | .stale => gone s
            | .failed => gone s
            | .cask k i =>
              match s.recBad k i with
              | (true, s) =>
                (s.dropCop r pos).failAccess r pos (.mem .uncorr (s.paOf k (s.recOff k i))) 1 5 k c.count
              | (false, s) =>
                let x := s.crec k i
                if crHold x || crWriter x then s.celWait c k
                else match zero s with
                  | (false, s) => s.celSettle r pos
                  | (true, s) =>
                    let s := s.setCrec k i (crFlags x (crState x) true true)
                    let c := { c with phase := .pins, stack := k, cask := i }
                    next ((s.setCop c).freeHeld c)

/-! ## CASK_MOVE (R210, R211, R213) -/

/-- The bytes of a cask that hold rows 0 to fill − 1: (offset, length). -/
def Desc.used (d : Desc) (fill : Nat) : List (Nat × Nat) :=
  [(0, d.rowBytes * fill), (d.valBase, d.rowBytes * fill)] ++
    (if d.format = 7 then [(30720, d.scaleBytes * fill), (63360, d.scaleBytes * fill)] else [])

/-- Copies a run of bytes from one cask to another; the address of an uncorrectable source piece ends it. -/
def State.celCopy (s : State) (k i k' i' off len : Nat) : Option (Nat × Nat) × State :=
  (pieces off len).foldl (fun (bad, s) (_, a, n) =>
    match bad with
    | some x => (some x, s)
    | none =>
      let src := s.caskOff k i + a
      match (s.countPath k .bulk 1).readGran (granKey k src) with
      | (none, s) => (some (k, src), s)
      | (some b, s) =>
        match s.celWrite k' (s.caskOff k' i' + a) (sliceB b (src % 64) n) with
        | (none, s) => (none, s)
        | (some x, s) => (some (k', x), s)) ((none, s) : Option (Nat × Nat) × State)

/-- Steps 5 to 7 of R211. -/
def State.moveHeld (s : State) (r pos : Nat) (e : Entry) (d : Desc) (c : COp) : State :=
  match c.popped with
  -- the destination's region was dropped: no free cask is left there
  | none => ((s.celClear c.stack c.cask).dropCop r pos).celParam r pos 3
  | some (k', i') =>
    let k := c.stack
    let i := c.cask
    let x := s.crec k i
    if crPins x ≠ 0 then s.setCop { c with phase := .pins }
    else
      let s := s.celReserve k' i' d
      match (d.used (crFill x)).foldl (fun (bad, s) (o, n) =>
          match bad with
          | some y => (some y, s)
          | none => State.celCopy s k i k' i' o n) ((none, s) : Option (Nat × Nat) × State) with
      | (some (ks, a), s) =>
        s.failAccess r pos (.mem .uncorr (s.paOf ks a)) 1 5 ks |>.celSettle r pos
      | (none, s) =>
        let old := s.crec k' i'
        let new := putAt (allocRec old d (s.ringPart r) (e.body 8 4) (e.body 16 2) (e.body 18 2) (e.body 12 4)) 4 (leBytes 2 (crFill x))
        let s := s.setCrec k' i' new
        let hnd := handleOf k' i' (crGen old)
        match s.celXlate (s.cmdCache r) r pos (d.entryVa (e.body 8 4) (e.body 16 2) (e.body 18 2) (e.body 12 4)) 2 0 with
        | (none, s) => s.celSettle r pos
        | (some pa, s) =>
          match s.celPutEntry r pos pa (hnd + 2 ^ 32) 0 with
          | (false, s) => s.celSettle r pos
          | (true, s) =>
            let s := (s.incF .CLR_USE_ALLOCATED k').incF .CLR_EVENTS_MOVES_IN k'
            let s := (s.celFree k i true).dropCop r pos
            s.finish r pos { status := stDONE, result := hnd, vis := 0x3F }

/-- The move from where it stands: the destination popped once, then the source taken. -/
def State.moveGo (s : State) (r pos : Nat) (e : Entry) (d : Desc) : State :=
  match s.cop? r pos with
  | none => s
  | some c =>
    if c.phase != .take then s.moveHeld r pos e d c
    else match s.celEntry (s.cmdCache r) r pos d (e.body 8 4) (e.body 16 2) (e.body 18 2) (e.body 12 4) 1 0 with
      | (none, s) => s.celSettle r pos
      | (some (v, _), s) =>
        let back := fun (s : State) =>
          (match c.popped with
          | some (k, i) => s.celUnpop k i
          | none => s).dropCop r pos
        match s.resolveEntry (s.ringPart r) d (e.body 8 4) (e.body 16 2) (e.body 18 2) (e.body 12 4) v with
        | .notValid => (back s).celParam r pos 5
        | .stale => (back s).celParam r pos 6
        | .failed => s.interrupt r pos
        | .cask k i =>
          match s.recBad k i with
          | (true, s) => (back s).failAccess r pos (.mem .uncorr (s.paOf k (s.recOff k i))) 1 5 k
          | (false, s) =>
            let dst := e.body 20 1
            let (got, s) := match c.popped with
              | some x => (some x, s)
              | none => match s.celPop dst with
                | (some j, s) => (some (dst, j), s)
                | (none, s) => (none, s)
            match got with
            | none => (s.dropCop r pos).celParam r pos 3
            | some y =>
              let c := { c with popped := some y }
              let x := s.crec k i
              if crHold x || crWriter x then s.celWait c k
              else
                let s := s.setCrec k i (crFlags x (crState x) true true)
                let c := { c with phase := .pins, stack := k, cask := i }
                (s.setCop c).moveHeld r pos e d c

/-! ## The end of a wait (R483, R207, R209, R211) -/

/-- A cellar command goes on from where it stands, with the descriptor that it read at its start. -/
def State.celResume (s : State) (r pos : Nat) : State :=
  match s.entry? r pos, s.cop? r pos with
  | some e, some c =>
    let d := Desc.ofBytes c.desc
    if e.op = 0x19 then s.rackGo r pos e d (2 * rackEntries e d + 2)
    else if e.op = 0x1A then let l := rangeList e; s.freeGo r pos e d l (2 * l.length + 2)
    else s.moveGo r pos e d
  | _, _ => s

/-- A command taken again after a wait on a service request goes on; otherwise `start` starts it. -/
def State.celAgain (s : State) (r pos : Nat) (start : State) : State :=
  if (s.cop? r pos).isSome then s.celResume r pos else start

/-! ## The rows of the commands -/

def effCaskRack (r pos : Nat) (s : State) : State :=
  s.startCmd r pos 0x19 fun s e =>
    let fmt := e.body 46 1
    let esz := ((fmtOfCode fmt).getD fB32).width / 8
    let finite := fun (m : Nat) => match unpackF fB32 m with
      | .fin .. => true
      | _ => false
    if e.body 47 1 ≠ 0 then s.celParam r pos 0
    else if e.body 32 4 = 0 || e.body 44 2 = 0 then s.doneWith r pos 0 0x3F
    else s.celAgain r pos <| match s.celDesc (s.cmdCache r) r pos (e.body 0 8) with
      | (none, s) => s
      | (some d, s) =>
        if !(fmt == 1 || fmt == 2 || fmt == 3) then s.celParam r pos 8
        else if !finite (e.body 56 4) || !finite (e.body 60 4) || e.body 8 8 % esz ≠ 0 || e.body 16 8 % esz ≠ 0 ||
            e.body 48 4 % esz ≠ 0 || e.body 52 4 % esz ≠ 0 then s.celParam r pos 0
        else if 2 ^ 24 < e.body 32 4 || d.heads < e.body 42 2 + e.body 44 2 || d.layers ≤ e.body 40 2 || d.contexts ≤ e.body 36 4 ||
            d.blocks ≤ (e.body 24 8 + e.body 32 4 - 1) / d.cap then s.celParam r pos 2
        else (s.setCop { ring := r, pos := pos, desc := d.toBytes }).rackGo r pos e d (2 * rackEntries e d + 2)
def execCaskRack (r pos : Nat) (s : State) : Out := runR (.caskRack r pos) s (effCaskRack r pos s)

def effCaskFree (r pos : Nat) (s : State) : State :=
  s.startCmd r pos 0x1A fun s e =>
    if e.body 28 2 ≠ 0 || !e.zero 30 34 then s.celParam r pos 0
    else if e.body 22 2 * e.body 26 2 * e.body 16 4 = 0 then s.doneWith r pos
    else s.celAgain r pos <| match s.celDesc (s.cmdCache r) r pos (e.body 0 8) with
      | (none, s) => s
      | (some d, s) =>
        match rangeCheck e d with
        | some x => s.celParam r pos x
        | none =>
          let l := rangeList e
          let s := s.setCop { ring := r, pos := pos, desc := d.toBytes }
          s.freeGo r pos e d l (2 * l.length + 2)
def execCaskFree (r pos : Nat) (s : State) : Out := runR (.caskFree r pos) s (effCaskFree r pos s)

def effCaskMove (r pos : Nat) (s : State) : State :=
  s.startCmd r pos 0x1B fun s e =>
    let dst := e.body 20 1
    if 32 ≤ dst || !e.zero 21 43 then s.celParam r pos 0
    else s.celAgain r pos <| match s.celDesc (s.cmdCache r) r pos (e.body 0 8) with
      | (none, s) => s
      | (some d, s) =>
        if d.contexts ≤ e.body 8 4 || d.blocks ≤ e.body 12 4 || d.layers ≤ e.body 16 2 || d.heads ≤ e.body 18 2 then s.celParam r pos 2
        else if s.dieOwner (dst / 2) ≠ some (s.ringPart r) then s.endWith r pos stRIGHTS
        else
          let s := s.setCop { ring := r, pos := pos, desc := d.toBytes }
          s.moveGo r pos e d
def execCaskMove (r pos : Nat) (s : State) : Out := runR (.caskMove r pos) s (effCaskMove r pos s)

/-- The cask that the entry now names still has HOLD or WRITER set. -/
def State.celBlocked (s : State) (r pos : Nat) (c : COp) : Bool :=
  match s.entry? r pos with
  | none => true
  | some e =>
    let d := Desc.ofBytes c.desc
    let (cx, l, h, b) :=
      if e.op = 0x19 then let (h, b, _, _) := rackSpan e d c.ix; (e.body 36 4, e.body 40 2, h, b)
      else if e.op = 0x1A then let (l, h, b) := (rangeList e).getD c.ix (0, 0, 0); (e.body 8 4, l, h, b)
      else (e.body 8 4, e.body 16 2, e.body 18 2, e.body 12 4)
    match s.celEntry (s.cmdCache r) r pos d cx l h b 1 0 with
    | (none, _) => false
    | (some (v, _), s) =>
      match s.resolveEntry (s.ringPart r) d cx l h b v with
      | .cask k i => crHold (s.crec k i) || crWriter (s.crec k i)
      | _ => false

/-- A command waiting on HOLD or WRITER resolves its entry again once both are clear on the cask it waits for. -/
def effCaskTake (r pos : Nat) (s : State) : State :=
  match s.cop? r pos with
  | some c => if c.phase == .take && s.isActive r pos && !s.celBlocked r pos c then s.celResume r pos else s
  | none => s
def execCaskTake (r pos : Nat) (s : State) : Out := runR (.caskTake r pos) s (effCaskTake r pos s)

/-- PINS of a cask held for rewriting, freeing or moving has become 0. -/
def effPinsZero (r pos : Nat) (s : State) : State :=
  match s.cop? r pos with
  | some c => if c.phase == .pins && s.isActive r pos && crPins (s.crec c.stack c.cask) == 0 then s.celResume r pos else s
  | none => s
def execPinsZero (r pos : Nat) (s : State) : Out := runR (.pinsZero r pos) s (effPinsZero r pos s)

/-! ## Regions (R217, R218) -/

/-- A channel of the stack has been retired (R259). -/
def State.stackRetired (s : State) (k : Nat) : Bool := s.f .MEM_RETIRED_CHANNELS k != 0

/-- Every record written and the free list built, lowest index on top. -/
def effClrFormatDone (k dt : Nat) (s : State) : State :=
  let s := s.elapse dt
  if !s.fb .CLR_STATUS_FORMATTING k then s
  else
    let n := (s.cel k).casks
    let first := divUp n 1024
    let gone := s.stackRetired k
    let s := (List.range n).foldl (fun s i =>
      if i < first then s.setCrec k i (zeroBytes 64)
      else if gone then s.setCrec k i (putAt (zeroBytes 64) 0 [2])
      else s.setCrec k i (putAt (zeroBytes 64) 24 (leBytes 4 (if i + 1 < n then i + 1 else noCask)))) s
    let s := (s.setF .CLR_STATUS_FORMATTING k 0).setF .CLR_STATUS_READY k 1
    let s := (s.setF .CLR_FIRST_FIRST k first).setF .CLR_USE_ALLOCATED k 0
    if gone then ((s.setCel k { s.cel k with top := noCask }).setF .CLR_STATUS_FREE k 0).setF .CLR_USE_RETIRED k (n - first)
    else ((s.setCel k { s.cel k with top := first }).setF .CLR_STATUS_FREE k (n - first)).setF .CLR_USE_RETIRED k 0
def execClrFormatDone (k dt : Nat) (s : State) : Out := run (.clrFormatDone k dt) s (effClrFormatDone k dt s)

/-- With ENABLE clear and nothing held, the region is dropped. -/
def effClrRegionDrop (k : Nat) (s : State) : State :=
  if (s.cel k).dropping && !s.celHeld k then
    let s := s.setCel k {}
    let s := { s with cops := s.cops.map fun (c : COp) => { c with
      popped := c.popped.filter fun (x : Nat × Nat) => x.1 != k
      -- no stack has this number: the entry finds its cask gone
      reserved := c.reserved.map fun (x : Nat × Nat) => if x.1 == k then (99, 0) else x } }
    ((((s.setF .CLR_STATUS_READY k 0).setF .CLR_STATUS_FREE k 0).setF .CLR_USE_ALLOCATED k 0).setF .CLR_USE_RETIRED k 0).setF
      .CLR_FIRST_FIRST k 0
  else s
def execClrRegionDrop (k : Nat) (s : State) : Out := run (.clrRegionDrop k) s (effClrRegionDrop k s)

/-- CLR_CTRL.ENABLE set: formatting begins when R217 allows it. -/
def State.clrEnable (s : State) (k : Nat) : State :=
  let n := s.f .CLR_COUNT_CASKS k
  let base := s.f .CLR_BASE_ADDR k * 65536
  let bad := s.setF .CLR_STATUS_CFG_ERR k 1
  if s.fb .CLR_CTRL_ENABLE k then s
  else match s.dieOwner (k / 2) with
    | none => bad
    | some p =>
      let off := base % 2 ^ 37
      if n < 2 || 2097152 < n || s.fb .CLR_STATUS_READY k || base / 2 ^ 37 ≠ k || s.npBytes p < off + n * 65536 then bad
      else
        let s := s.setCel k { base := off, casks := n }
        (s.setF .CLR_CTRL_ENABLE k 1).setF .CLR_STATUS_FORMATTING k 1

/-- CLR_CTRL.ENABLE cleared: the free count is zero at once. -/
def State.clrDisable (s : State) (k : Nat) : State :=
  if !s.fb .CLR_CTRL_ENABLE k then s
  else
    let s := s.setF .CLR_CTRL_ENABLE k 0
    if s.fb .CLR_STATUS_FORMATTING k then (s.setF .CLR_STATUS_FORMATTING k 0).setCel k {}
    else (s.setF .CLR_STATUS_FREE k 0).setCel k { s.cel k with dropping := true }

end Sys2Proof.Machine
end

