-- ==== Sys2Proof/Machine/Taps.lean ====
section
/-!
DEFINITION. Tap engines (chapter 8): the TAP command and its checks (R221, R222), resolution and slices (R223, R224), passes (R225, R226), the
recurrence (R228), top-k selection (R229) and the row records (R230, R231).
-/

namespace Sys2Proof.Machine

open Sys2Proof

/-! ## Fields of a TAP -/

def tapRows (e : Entry) : Nat := e.body 44 2
def tapTopk (e : Entry) : Nat := e.body 47 1
def tapNoValues (e : Entry) : Bool := bitOf (e.body 56 2) 0
def tapLimited (e : Entry) : Bool := bitOf (e.body 56 2) 1
def tapPasses (e : Entry) : Nat := divUp (tapRows e) 16

/-- RB of R230. -/
def tapRb (e : Entry) (d : Desc) : Nat := 64 * divUp (16 + (if tapNoValues e then 0 else 4 * d.dim) + 8 * tapTopk e) 64

/-- Element size of the queries. -/
def tapQsz (e : Entry) : Nat := if e.body 46 1 = 1 then 4 else 2

def State.tap? (s : State) (r pos : Nat) : Option Tap := s.taps.find? fun t => t.ring == r && t.pos == pos
def State.modTap (s : State) (r pos : Nat) (g : Tap → Tap) : State :=
  { s with taps := s.taps.map fun t => if t.ring == r && t.pos == pos then g t else t }

/-- What a TAP holds translated: query rows, limits, OUT, in 64 KiB pages, each with the first address of it that is used, and the right it
needs. -/
def tapPages (e : Entry) (d : Desc) : List (Nat × Nat) :=
  let pg := fun (va len need : Nat) => (spans va len).map fun (_, a, _) => (a, need)
  let qs := (List.range (tapRows e)).flatMap fun r => pg (e.body 8 8 + r * e.body 48 4) (d.dim * tapQsz e) 1
  qs.foldl (fun (l : List (Nat × Nat)) x => if l.any fun y => y.1 / 65536 == x.1 / 65536 then l else l ++ [x]) [] ++
    (if tapLimited e then pg (e.body 64 8) (8 * tapRows e) 1 else []) ++ pg (e.body 16 8) (e.body 58 1 * tapRows e * tapRb e d) 2

/-- A page in module memory lies in a cellar region of its stack. -/
def State.pageInCellar (s : State) (pa : Nat) : Bool :=
  match s.decodePA (pa / 65536 * 65536) with
  | some (k, a) => s.inCellar k a
  | none => false

/-- The coordinator of a ring's TAPs. -/
def State.coordinator (s : State) (r : Nat) : Nat := s.coordinatorOf (s.ringPart r)

/-- Check 6 of R222 and the held translations it makes, one for each page, through the coordinator's cache. -/
def State.tapHold (s : State) (r pos : Nat) : List (Nat × Nat) → List Held → Option (List Held) × State
  | [], acc => (some acc, s)
  | (va, need) :: t, acc =>
    let va := va % 2 ^ 64
    match s.cmdXlate (tapCache (s.coordinator r)) r va need with
    | (.ok (.phys p pa), s) =>
      if need = 2 && s.pageInCellar pa then
        (none, s.failRec r pos { status := stRIGHTS } (s.cmdRec r pos 0x08 2 pa 2 4 (s.coordinator r)))
      else s.tapHold r pos t (acc ++ [s.holdOf r (va / 65536 * 65536) (.phys p (pa - va % 65536))])
    | (.ok _, s) => (none, s.celParam r pos 0)
    | (x, s) => (none, s.failXlate r pos x va need 4 (s.coordinator r))

/-- Step 1 of R222. -/
def tapFields (e : Entry) : Bool :=
  let fmt := e.body 46 1
  decide (tapRows e ≤ 256) && decide (tapTopk e ≤ 64) && decide (1 ≤ e.body 58 1) && decide (e.body 58 1 ≤ 32) &&
    (fmt == 1 || fmt == 2 || fmt == 3) && bitsOf (e.body 52 4) 23 8 != 255 && e.body 16 8 % 64 == 0 && e.body 64 8 % 8 == 0 &&
    e.body 8 8 % tapQsz e == 0 && e.body 48 4 % tapQsz e == 0 && decide (e.body 56 2 < 4) && e.zero 59 5 && e.zero 72 56 &&
    (tapLimited e || e.body 64 8 == 0)

def effTap (r pos : Nat) (s : State) : State :=
  s.startCmd r pos 0x1C fun s e =>
    if (s.tap? r pos).isSome then s
    else if !tapFields e then s.celParam r pos 0
    else if tapRows e = 0 || e.body 32 4 = 0 then s.doneWith r pos
    else if tapTopk e ≠ 0 && !bitOf (s.f .ID_FEAT_FEAT) 0 then s.endWith r pos stUNSUPPORTED
    else match s.celDesc (tapCache (s.coordinator r)) r pos (e.body 0 8) with
      | (none, s) => s
      | (some d, s) =>
        let last := e.body 24 8 + e.body 32 4 - 1
        if d.contexts ≤ e.body 36 4 || d.layers ≤ e.body 40 2 || d.heads ≤ e.body 42 2 || d.blocks ≤ last / d.cap ||
            65536 < last / d.cap - e.body 24 8 / d.cap + 1 then s.celParam r pos 2
        else match s.tapHold r pos (tapPages e d) [] with
          | (none, s) => s
          | (some hs, s) =>
            let s := s.modEntry r pos fun e => { e with holds := hs }
            { s with taps := s.taps ++ [{ ring := r, pos := pos, desc := d.toBytes }] }
def execTap (r pos : Nat) (s : State) : Out := runR (.tap r pos) s (effTap r pos s)

/-! ## The end of a TAP (R231, R233) -/

/-- Queued and running passes of the TAP are cancelled and its pins released. -/
def State.cancelTap (s : State) (r pos : Nat) : State :=
  let s := s.dropPins r pos
  { s with
    taps := s.taps.filter fun t => !(t.ring == r && t.pos == pos)
    tapEng := s.tapEng.map fun (e : Nat × TapEng) =>
      (e.1, { e.2 with run := e.2.run.filter fun p => !(p.1.ring == r && p.1.pos == pos)
                       queue := e.2.queue.filter fun p => !(p.ring == r && p.pos == pos) }) }

/-- A TAP whose command has ended or stalled is cancelled. -/
def State.tapSettle (s : State) (r pos : Nat) : State :=
  match s.entry? r pos with
  | some e => if e.res.isSome || e.stall.isSome then s.cancelTap r pos else s
  | none => s.cancelTap r pos

/-! ## Resolution (R223, R224) -/

/-- Pins the blocks in order; ends with the pins taken, or the reason to stop. -/
inductive TapRes where
  | ok (pins : List Pin)
  | blocked (k i : Nat)
  | param (detail : Nat)
  | failed
  /-- the command has ended or waits -/
  | ended
deriving DecidableEq, Repr

def State.tapPin (s : State) (r pos : Nat) (e : Entry) (d : Desc) : List Nat → List Pin → TapRes × List Pin × State
  | [], acc => (.ok acc, acc, s)
  | b :: t, acc =>
    let c := e.body 36 4
    let l := e.body 40 2
    let h := e.body 42 2
    match s.celEntry (tapCache (s.coordinator r)) r pos d c l h b 1 0 with
    | (none, s) => (.ended, acc, s)
    | (some (v, _), s) =>
      match s.resolveEntry (s.ringPart r) d c l h b v with
      | .notValid => (.param 5, acc, s)
      | .stale => (.param 6, acc, s)
      | .failed => (.failed, acc, s)
      | .cask k i =>
        match s.recBad k i with
        | (true, s) => (.ended, acc, s.failAccess r pos (.mem .uncorr (s.paOf k (s.recOff k i))) 1 4 k)
        | (false, s) =>
          let x := s.crec k i
          if crHold x || crPins x = 65535 then (.blocked k i, acc, s)
          else (s.pin k i).tapPin r pos e d t (acc ++ [⟨k, i, b, crFill x, tapPasses e⟩])

/-- Numbers of a list, rising, each once. -/
def sortNats (l : List Nat) (n : Nat) : List Nat := (List.range n).filter l.contains

def effTapResolve (r pos : Nat) (s : State) : State :=
  match s.tap? r pos, s.entry? r pos with
  | some t, some e =>
    let still := match t.blocked with
      -- a cask whose region was dropped blocks nothing
      | some (k, i) => s.celReady k && decide (i < (s.cel k).casks) && (crHold (s.crec k i) || crPins (s.crec k i) == 65535)
      | none => false
    if t.resolved || still || !e.active then s
    else
      let d := Desc.ofBytes t.desc
      let b0 := e.body 24 8 / d.cap
      let b1 := (e.body 24 8 + e.body 32 4 - 1) / d.cap
      match s.tapPin r pos e d ((List.range (b1 - b0 + 1)).map (b0 + ·)) [] with
      | (res, pins, s) =>
        let back := fun (s : State) => pins.foldl (fun s p => s.unpin p.stack p.cask) s
        match res with
        | .blocked k i =>
          let s := if crHold (s.crec k i) then s.incF .CLR_EVENTS_HOLD_WAITS k else s
          ((back s).modTap r pos fun t => { t with blocked := some (k, i) }).incF .TAP_EVENTS_HOLD_RESTARTS k
        | .param x => (back s |>.cancelTap r pos).celParam r pos x
        | .failed => (back s |>.cancelTap r pos).interrupt r pos
        | .ended => (back s).tapSettle r pos
        | .ok pins =>
          let ks := sortNats (pins.map (·.stack)) 32
          if e.body 58 1 < ks.length then (back s |>.cancelTap r pos).celParam r pos 0x10
          else
            let held := ks.zipIdx.flatMap fun (k, rank) => (List.range (tapPasses e)).map fun g => (k, (⟨r, pos, g, rank⟩ : Pass))
            s.modTap r pos fun t =>
              { t with resolved := true, blocked := none, pins := pins, slices := ks, held := held, left := held.length }
  | _, _ => s
def execTapResolve (r pos : Nat) (s : State) : Out := runR (.tapResolve r pos) s (effTapResolve r pos s)

/-! ## Passes (R225, R226) -/

def effTapPassDispatch (r pos k : Nat) (s : State) : State :=
  match s.tap? r pos with
  | none => s
  | some t =>
    match t.held.find? fun x => x.1 == k with
    | none => s
    | some (_, p) =>
      let e := s.tapE k
      if 64 ≤ e.queue.length then
        if t.fullAt.contains k then s
        else (s.modTap r pos fun t => { t with fullAt := k :: t.fullAt }).incF .TAP_EVENTS_QUEUE_FULL k
      else
        let s := s.setTapE k { e with queue := e.queue ++ [p] }
        s.modTap r pos fun t => { t with held := t.held.erase (k, p), fullAt := t.fullAt.filter (· != k) }
def execTapPassDispatch (r pos k : Nat) (s : State) : Out := run (.tapPassDispatch r pos k) s (effTapPassDispatch r pos k s)

/-- An address of a held range of the TAP: each page through its held translation, made again through the engine's cache once an invalidation
has dropped it (R300). Only module memory of the partition is accessed (R219, R292). -/
def State.tapLoc (s : State) (r pos k : Nat) (e : Entry) (va need : Nat) : Except XOut (Nat × Nat) × State :=
  let x := match e.holds.find? fun h => h.va == va / 65536 * 65536 with
    | some h => match s.useHeld (tapCache k) h need with
      | (.ok l, s) => (XOut.ok (l.add (va % 65536)), s.renewHeld r pos h l)
      | x => x
    | none => s.cmdXlate (tapCache k) r va need
  match x with
  | (.ok (.phys p pa), s) => (.ok (p, pa), s)
  | (.ok _, s) => (.error (.fail stRIGHTS 0x0A), s)
  | (x, s) => (.error x, s)

/-- Reads a range of the TAP's own data on engine k; when it fails the command has ended or waits. -/
def State.tapRead (s : State) (r pos k : Nat) (e : Entry) (va len : Nat) : Option Bytes × State :=
  (spans va len).foldl (fun (acc, s) (_, a, n) =>
    match acc with
    | none => (none, s)
    | some b =>
      match s.tapLoc r pos k e a 1 with
      | (.ok (p, pa), s) =>
        match s.readPhys (some p) .bulk pa n with
        | (.ok x, s) => (some (b ++ x), s)
        | (.error (x, y), s) =>
          let s := if x = .uncorr then s.incF .TAP_EVENTS_UNCORRECTABLE k else s
          (none, s.failAccess r pos (.mem x y) 1 4 k)
      | (.error x, s) => (none, s.failXlate r pos x a 1 4 k)) ((some [], s) : Option Bytes × State)

/-- The 256-byte sectors of ranges (offset, length) of a cask, each once (R225). -/
def sectorsOf (l : List (Nat × Nat)) : List Nat :=
  (l.flatMap fun (o, n) => if n = 0 then [] else (List.range ((o + n - 1) / 256 - o / 256 + 1)).map (o / 256 + ·)).eraseDups

/-- Every codeword of the sectors read once, from the engine's own stack, without the directory (R280): the codewords with their places in the
cask, or the stack offset of an uncorrectable one, which ends it. -/
def State.readSectors (s : State) (k i : Nat) (l : List Nat) : Except Nat (List (Nat × Bytes)) × State :=
  (l.flatMap fun x => [256 * x, 256 * x + 64, 256 * x + 128, 256 * x + 192]).foldl (fun (acc, s) a =>
    match acc with
    | .error x => (.error x, s)
    | .ok ws =>
      let o := s.caskOff k i + a
      match s.readWord (granKey k o) with
      | (some w, s) => (.ok ((a, w) :: ws), s)
      | (none, s) => (.error o, s)) ((.ok [], s) : Except Nat (List (Nat × Bytes)) × State)

/-- Bytes of a cask among the codewords read. -/
def caskBytes (ws : List (Nat × Bytes)) (off len : Nat) : Bytes :=
  (pieces off len).flatMap fun (_, a, n) =>
    sliceB (((ws.find? fun (x : Nat × Bytes) => x.1 == a / 64 * 64).map (·.2)).getD []) (a % 64) n

/-! ## The recurrence (R228, R229) -/

/-- State of a row. -/
structure TRow where
  q : List FVal := []
  limit : Nat := 2 ^ 64
  m : Nat := 0xFF800000
  l : Nat := 0
  acc : List Nat := []
  n : Nat := 0
  flag : Bool := false
  top : List (Nat × Nat) := []
deriving DecidableEq, Repr

/-- (score, position) x ranks above y: the higher score, and of equal scores the lower position. -/
def ranksAbove (x y : Nat × Nat) : Bool :=
  match cmpF (unpackF fB32 x.1) (unpackF fB32 y.1) with
  | some .gt => true
  | some .eq => decide (x.2 < y.2)
  | _ => false

/-- A score offered to a list kept in descending rank. -/
def offer (x : Nat × Nat) : List (Nat × Nat) → List (Nat × Nat)
  | [] => [x]
  | y :: t => if ranksAbove x y then x :: y :: t else y :: offer x t

def isNaN32 (x : Nat) : Bool := decide (unpackF fB32 x = .nan)
def isPosInf32 (x : Nat) : Bool := decide (unpackF fB32 x = .inf false)

/-- The elements of a row of a cask: its bytes, and its scales in MXFP4. -/
def caskElems (d : Desc) (row scales : Bytes) : List FVal :=
  if d.format = 7 then
    (List.range d.dim).map fun j =>
      let sc := (scales.getD (j / 32) 0).toNat
      let c := (row.getD (j / 2) 0).toNat / 16 ^ (j % 2) % 16
      if sc = 255 then .nan
      else match unpackF fE2M1 c with
        | .fin n m e => .fin n m (e + sc - 127)
        | v => v
  else
    let f := (fmtOfCode d.format).getD fB16
    let w := f.width / 8
    (List.range d.dim).map fun j => unpackF f (fldB row (w * j) w)

/-- The working format of Table 8-1. -/
def tapWork (d : Desc) : Nat := if d.format = 3 then 3 else 2

/-- The score of a token for a row: the dot product, then SCORE_MULT, each rounded to binary32. Sums of free grouping take free values. -/
def tapScore (ctr mult : Nat) (q k : List FVal) : Nat :=
  let ps := List.zipWith mulX q k
  let dot := accumulate fB32 ctr (ps.headD (.fin false 0 0)) (ps.drop 1)
  roundF fB32 0 false false (mulX (unpackF fB32 mult) (unpackF fB32 dot))

/-- x − y rounded to binary32. -/
def sub32 (x y : Nat) : Nat := roundF fB32 0 false false (addX 0 (unpackF fB32 x) (unpackF fB32 y).negate)

/-- exp2 of x − m2 within the bound of Table 6-6. -/
def tapExp (ctr x m2 : Nat) : Nat := sfuElem .exp2 false ctr (sub32 x m2)

/-- a of R228: 0 when m is −∞, 1 when m equals m2. -/
def tapDecay (ctr m m2 : Nat) : Nat :=
  if m = 0xFF800000 then 0 else if cmpF (unpackF fB32 m) (unpackF fB32 m2) = some .eq then 0x3F800000 else tapExp ctr m m2

/-- One beat of contributing positions applied to a row: (position, key, value) in ascending position. -/
def tapBeat (ctr : Nat) (e : Entry) (d : Desc) (row : TRow) (beat : List (Nat × List FVal × List FVal)) : TRow :=
  let es := beat.filter fun x => decide (x.1 < row.limit)
  if es = [] then row
  else
    let ss := es.zipIdx.map fun (x, i) => tapScore (ctr + 4096 * i) (e.body 52 4) row.q x.2.1
    let top := if tapTopk e = 0 then row.top else
      ((es.zip ss).foldl (fun t (x, sc) => if isNaN32 sc then t else offer (sc, x.1) t) row.top).take (tapTopk e)
    let flag := row.flag || ss.any fun x => isNaN32 x || isPosInf32 x
    let m2v := ss.foldl (fun m x => minMaxF true m (unpackF fB32 x)) (unpackF fB32 row.m)
    let row := { row with top := top, flag := flag, n := row.n + es.length }
    if decide (m2v = .inf true) then row
    else
      let m2 := roundF fB32 0 false false m2v
      let ctr := ctr + 65536
      let a := unpackF fB32 (tapDecay ctr row.m m2)
      let wf := (fmtOfCode (tapWork d)).getD fB16
      let ws := ss.zipIdx.map fun (x, i) => unpackF wf (roundF wf 0 false false (unpackF fB32 (tapExp (ctr + 1 + i) x m2)))
      let l := accumulate fB32 (ctr + 64) (mulX a (unpackF fB32 row.l)) ws
      let acc := if tapNoValues e then [] else
        (List.range d.dim).map fun j =>
          accumulate fB32 (ctr + 128 + 32 * j) (mulX a (unpackF fB32 (row.acc.getD j 0)))
            (List.zipWith (fun w (x : Nat × List FVal × List FVal) => mulX w (x.2.2.getD j .nan)) ws es)
      { row with m := m2, l := l, acc := acc }

/-- The free values a beat of a row may use. -/
def beatFree : Nat := 131072

/-- Groups of up to 16. -/
def beats {α : Type} : Nat → List α → List (List α)
  | 0, _ => []
  | n + 1, l => if l.isEmpty then [] else l.take 16 :: beats n (l.drop 16)

/-- The record of a row (Table 8-3). -/
def rowRecord (e : Entry) (d : Desc) (row : TRow) : Bytes :=
  let nan := fB32.nan
  let m := if row.n = 0 then 0xFF800000 else row.m
  let b := leBytes 4 m ++ leBytes 4 (if row.flag then nan else row.l) ++ leBytes 4 row.n ++
    leBytes 4 (b2n row.flag + 2 * b2n (row.n == 0)) ++
    (if tapNoValues e then [] else (List.range d.dim).flatMap fun j => leBytes 4 (if row.flag then nan else row.acc.getD j 0)) ++
    (List.range (tapTopk e)).flatMap fun i =>
      match row.top[i]? with
      | some (sc, p) => leBytes 4 sc ++ leBytes 4 (p - e.body 24 8)
      | none => leBytes 4 0xFF800000 ++ leBytes 4 0xFFFFFFFF
  b ++ zeroBytes (tapRb e d - b.length)

/-! ## A pass (R225) -/

/-- The query rows and limits of a pass. -/
def State.passRows (s : State) (r pos k : Nat) (e : Entry) (d : Desc) : List Nat → List TRow → Option (List TRow) × State
  | [], acc => (some acc, s)
  | row :: t, acc =>
    match s.tapRead r pos k e ((e.body 8 8 + row * e.body 48 4) % 2 ^ 64) (d.dim * tapQsz e) with
    | (none, s) => (none, s)
    | (some b, s) =>
      let wf := (fmtOfCode (tapWork d)).getD fB16
      let q := (List.range d.dim).map fun j =>
        unpackF wf (cvtElem (tapWork d) (e.body 46 1) 0 true (fldB b (tapQsz e * j) (tapQsz e)))
      let init : TRow := { q := q, acc := if tapNoValues e then [] else List.replicate d.dim 0 }
      if tapLimited e then
        match s.tapRead r pos k e ((e.body 64 8 + 8 * row) % 2 ^ 64) 8 with
        | (none, s) => (none, s)
        | (some b, s) => s.passRows r pos k e d t (acc ++ [{ init with limit := leNat b }])
      else s.passRows r pos k e d t (acc ++ [init])

/-- Contributing positions of a pinned cask: first, and one past the last. -/
def pinSpan (e : Entry) (d : Desc) (p : Pin) : Nat × Nat :=
  let lo := max (e.body 24 8) (p.block * d.cap)
  let hi := min (min (e.body 24 8 + e.body 32 4) ((p.block + 1) * d.cap)) (p.block * d.cap + p.fill)
  (lo, max lo hi)

/-- The casks of a pass streamed in list order. `none`: an uncorrectable codeword at a stack offset ended it. -/
def State.passCasks (s : State) (k : Nat) (e : Entry) (d : Desc) : List Pin → List TRow → Except Nat (List TRow) × State
  | [], rows => (.ok rows, s)
  | p :: t, rows =>
    let (lo, hi) := pinSpan e d p
    let n := hi - lo
    let t0 := lo - p.block * d.cap
    let sides := if tapNoValues e then [(0, 30720)] else [(0, 30720), (d.valBase, 63360)]
    let secs := sectorsOf (sides.flatMap fun (base, sbase) =>
      [(base + d.rowBytes * t0, d.rowBytes * n), (sbase + d.scaleBytes * t0, d.scaleBytes * n)])
    let moved := 256 * secs.length
    let s := ((s.incF .TAP_BYTES_BYTES k moved).evDie (k / 2) 0x10 (k % 2) moved).evDie (k / 2) 0x0B (k % 2) (moved / 256)
    match s.readSectors k p.cask secs with
    | (.error x, s) => (.error x, s)
    | (.ok ws, s) =>
      let side := fun (base sbase : Nat) =>
        let b := caskBytes ws (base + d.rowBytes * t0) (d.rowBytes * n)
        let sc := caskBytes ws (sbase + d.scaleBytes * t0) (d.scaleBytes * n)
        (List.range n).map fun i => caskElems d (sliceB b (d.rowBytes * i) d.rowBytes) (sliceB sc (d.scaleBytes * i) d.scaleBytes)
      let ks := side 0 30720
      let vs := if tapNoValues e then [] else side d.valBase 63360
      let toks := (List.range n).map fun i => (lo + i, ks.getD i [], vs.getD i [])
      let bs := beats (n + 1) toks
      let free := s.free
      let rows' := rows.zipIdx.map fun (row, j) => (bs.zipIdx).foldl (fun row (b, i) =>
        tapBeat (free + beatFree * (16 * i + j)) e d row b) row
      let s := { s with free := free + beatFree * (16 * bs.length) }
      let s := s.incF .TAP_PASSES_CASKS k
      let s := s.evDie (k / 2) 0x0F (k % 2) ((if tapNoValues e then 1 else 2) * d.dim * rows.length * n)
      s.passCasks k e d t rows'

/-- One pass fewer has to read the casks of engine k: pins of the last one are released. -/
def State.tapUnpin (s : State) (r pos k : Nat) : State :=
  match s.tap? r pos with
  | none => s
  | some t =>
    let last := t.pins.filter fun p => p.stack == k && p.left == 1
    let s := last.foldl (fun s p => s.unpin p.stack p.cask) s
    s.modTap r pos fun t => { t with pins := t.pins.map fun p => if p.stack == k then { p with left := p.left - 1 } else p }

/-- The next queued pass starts: its queries and limits are read, and its casks streamed. -/
def effTapPassStart (k : Nat) (s : State) : State :=
  let eng := s.tapE k
  match eng.run, eng.queue with
  | none, p :: rest =>
    let s := (s.wakeDie (k / 2)).ranOn (k / 2) 1
    match s.entry? p.ring p.pos, s.tap? p.ring p.pos with
    | some e, some t =>
      if !e.active then s
      else
        let d := Desc.ofBytes t.desc
        let ix := (List.range 16).filterMap fun i => if 16 * p.group + i < tapRows e then some (16 * p.group + i) else none
        match s.passRows p.ring p.pos k e d ix [] with
        | (none, s) => s.tapSettle p.ring p.pos
        | (some rows, s) =>
          match s.passCasks k e d (t.pins.filter fun x => x.stack == k) rows with
          | (.error o, s) =>
            let s := s.incF .TAP_EVENTS_UNCORRECTABLE k
            (s.failAccess p.ring p.pos (.mem .uncorr (s.paOf k o)) 1 4 k).tapSettle p.ring p.pos
          | (.ok rows, s) =>
            let recs := (ix.zip rows).map fun (i, row) => ((p.slice * tapRows e + i) * tapRb e d, rowRecord e d row)
            -- the pins of casks that no later pass of the engine reads are released (R225)
            (s.setTapE k { s.tapE k with run := some (p, recs), queue := rest }).tapUnpin p.ring p.pos k
    | _, _ => s.setTapE k { eng with queue := rest }
  | _, _ => s
def execTapPassStart (k : Nat) (s : State) : Out := runR (.tapPassStart k) s (effTapPassStart k s)

/-- The pieces of a range of OUT with their physical places; an address that has none ends the command or makes it wait. -/
def State.tapPlaces (s : State) (r pos k : Nat) (e : Entry) (va : Nat) (data : Bytes) : Option (List (Nat × Nat × Bytes)) × State :=
  (spans va data.length).foldl (fun (acc, s) (o, a, n) =>
    match acc with
    | none => (none, s)
    | some l =>
      match s.tapLoc r pos k e a 2 with
      | (.ok (p, pa), s) => (some (l ++ [(p, pa, sliceB data o n)]), s)
      | (.error x, s) => (none, s.failXlate r pos x a 2 4 k)) ((some [], s) : Option (List (Nat × Nat × Bytes)) × State)

/-- The row records of a pass written into OUT: all of them, or, when the command has ended or waits, none (R233). -/
def State.tapWrite (s : State) (r pos k : Nat) (e : Entry) (recs : List (Nat × Bytes)) : Bool × State :=
  match recs.foldl (fun ((acc : Option (List (Nat × Nat × Bytes))), s) (o, b) =>
      match acc with
      | none => (none, s)
      | some l =>
        match State.tapPlaces s r pos k e ((e.body 16 8 + o) % 2 ^ 64) b with
        | (none, s) => (none, s)
        | (some m, s) => (some (l ++ m), s)) (some [], s) with
  | (none, s) => (false, s)
  | (some l, s) =>
    match l.foldl (fun ((bad : Option (MErr × Nat)), s) (p, pa, b) =>
        match bad with
        | some x => (some x, s)
        | none => State.writePhys s (some p) .bulk false pa b) (none, s) with
    | (none, s) => (true, s)
    | (some (x, y), _) => (false, s.failAccess r pos (.mem x y) 2 4 k)

/-- The running pass ends: its records are written, and the last pass of a TAP completes the command. -/
def effTapPassEnd (k : Nat) (s : State) : State :=
  match (s.tapE k).run with
  | none => s
  | some (p, recs) =>
    let r := p.ring
    let pos := p.pos
    match s.entry? r pos, s.tap? r pos with
    | some e, some t =>
      match s.tapWrite r pos k e recs with
      | (false, s) => s.tapSettle r pos
      | (true, s) =>
        let s := s.setTapE k { s.tapE k with run := none }
        let s := (s.incF .TAP_PASSES_PASSES k).modTap r pos fun t => { t with left := t.left - 1 }
        if t.left ≤ 1 then
          (s.cancelTap r pos).finish r pos
            { status := stDONE, result := maskOf t.slices + t.pins.length * 2 ^ 32, vis := 0x3F }
        else s
    | _, _ => s.setTapE k { s.tapE k with run := none }
def execTapPassEnd (k : Nat) (s : State) : Out := runR (.tapPassEnd k) s (effTapPassEnd k s)

end Sys2Proof.Machine
end

