-- ==== Sys2Proof/Machine/Time.lean ====
section
/-!
DEFINITION. The time base (R41 to R53): beacons, upstream choice, discipline, holdover, steps and the dealer; the deal schedules (R54 to R56) and
the mode epochs (R70 to R73).
-/

namespace Sys2Proof.Machine

open Sys2Proof

/-! ## States of Table 2-1 -/

def tsFREE : Nat := 0
def tsACQUIRE : Nat := 1
def tsLOCKED : Nat := 2
def tsHOLDOVER : Nat := 3
def tsEXPIRED : Nat := 4
def tsDEALER : Nat := 5

def State.tstate (s : State) : Nat := s.f .TIME_STATUS_STATE
def State.setTstate (s : State) (x : Nat) : State := s.setF .TIME_STATUS_STATE 0 x

/-- The time of a counter in 1/65536 ns. -/
def tick (now frac : Nat) : Int := ((now * 65536 + frac : Nat) : Int)

/-- A step of the counter (R50 to R52): the module leaves its tables; the actions that a step forward skips are due at once, each schedule's
last boundary only, because every user of a schedule acts on the deal in progress once. The times of the beacons sent move with the counter. -/
def State.stepTime (s : State) (t : Int) : State :=
  let v := (t % ((2 ^ 80 : Nat) : Int)).toNat
  let old := s.time.now
  let d := t - tick old s.time.frac
  let shift := fun (x : Nat × Nat) =>
    let y := ((tick x.1 x.2 + d) % ((2 ^ 80 : Nat) : Int)).toNat
    (y / 65536, y % 65536)
  let fwd := decide (old < v / 65536)
  let s := { s with time := { s.time with
    now := v / 65536, frac := v % 65536
    skipFrom := if fwd then old else 0, skipTo := if fwd then v / 65536 else 0
    ports := s.time.ports.map fun (e : Nat × TPort) => (e.1, { e.2 with sent := e.2.sent.map shift }) } }
  (s.incF .TIME_EVENTS_STEPS 0).leaveAll

/-! ## Upstream choice (R45) -/

/-- Ports whose beacons are valid. -/
def State.validPorts (s : State) : List Nat := (List.range 16).filter fun p => s.fb .TIME_PORT_VALID p

/-- Port p is a better upstream than q by the keys of R45. -/
def State.betterUp (s : State) (p q : Nat) : Bool :=
  let a := (s.tport p).dealer
  let b := (s.tport q).dealer
  let x := s.f .TIME_PORT_PDEPTH p
  let y := s.f .TIME_PORT_PDEPTH q
  decide (a < b) || (a == b && (decide (x < y) || (x == y && decide (p < q))))

def State.chooseUp (s : State) : Option Nat :=
  s.validPorts.foldl (fun best p =>
    match best with
    | none => some p
    | some q => if s.betterUp p q then some p else some q) none

/-- HOLDOVER is entered: TIME_HOLD goes on from the milliseconds it holds (R46, R49). The rate is held at the last correction, to within a free
value of at most 1 ppm; `ref` is the reference rate, for a former dealer (Table 2-1). -/
def State.enterHoldover (s : State) (ref : Bool) : State :=
  let s := s.setTstate tsHOLDOVER
  let s := s.incF .TIME_EVENTS_LOSSES 0
  let s := ((s.setF .TIME_STATUS_UPPORT 0 0x1F))
  let (v, s) := if ref then (1000, s) else s.takeFree
  { s with time := { s.time with
      rate := (if ref then 0 else s.time.corr) + ((v % 2001 : Nat) : Int) - 1000, base := none, slewing := false
      lastUp := none, holdFrom := s.time.engine, holdAt := s.time.engine - s.f .TIME_HOLD_HOLD_MS * 1000000, holding := true, first := true
      goodRun := 0, badRun := 0 } }

/-- The upstream port chosen again; without any valid port a following module enters HOLDOVER. -/
def State.rechoose (s : State) : State :=
  if s.fb .TIME_CTRL_ROLE then s else
    match s.chooseUp with
    | some p =>
      let old := s.f .TIME_STATUS_UPPORT
      let s := if old ≠ 0x1F ∧ old ≠ p then s.incF .TIME_EVENTS_REPARENTS 0 else s
      let s := if old = p then s else { s with time := { s.time with base := none, lastUp := none } }
      let s := s.setF .TIME_STATUS_UPPORT 0 p
      let s := s.setF .TIME_STATUS_DEPTH 0 (min (s.f .TIME_PORT_PDEPTH p + 1) 25)
      let d := (s.tport p).dealer
      let s := s.setF .TIME_STATUS_DEALER 0 d
      { s with time := { s.time with dealer := d } }
    | none => if s.tstate = tsACQUIRE ∨ s.tstate = tsLOCKED then s.enterHoldover false else s

/-! ## Discipline (R46, R47, R50) -/

/-- 500 ppm, in parts per 10^9. -/
def maxSlew : Int := 500000

/-- The upstream's rate over the reference between two of its beacons, in parts per 10^9. -/
def rateBetween (e0 e1 : Nat) (u0 u1 : Int) : Int := (u1 - u0) * 1000000000 / (((e1 - e0) * 65536 : Nat) : Int) - 1000000000

/-- Between two beacons the upstream's counter did not run at a rate that slewing and references can give it: it has stepped. -/
def upStepped (e0 e1 : Nat) (u0 u1 : Int) : Bool :=
  let gone := (((e1 - e0) * 65536 : Nat) : Int)
  decide (gone / 1000 + 2 * 65536 < ((u1 - u0 - gone).natAbs : Int))

/-- The upstream's rate over the reference, as the beacons followed from the present port show it: upstream time `up` now against the first since
its counter last stepped. Beacons that show no possible rate begin the measure anew and leave the correction as it was. -/
def State.trackRate (s : State) (up : Int) : State :=
  let fresh := { s with time := { s.time with base := some (s.eng, up), lastUp := some (s.eng, up) } }
  match s.time.base, s.time.lastUp with
  | some (e0, u0), some (e1, u1) =>
    if s.eng ≤ e1 then s
    else if upStepped e1 s.eng u1 up then fresh
    else
      let x := rateBetween e0 s.eng u0 up
      if maxSlew < x.natAbs then fresh else { s with time := { s.time with corr := x, lastUp := some (s.eng, up) } }
  | _, _ => fresh

/-- A rate that brings the offset towards 0, at most 500 ppm off the reference: a free value on that side of the upstream's own rate, off it by
at least one part in 10^9 where the limit leaves room (R46). -/
def State.discipline (s : State) (off : Int) : State :=
  let (v, s) := s.takeFree
  let c := s.time.corr
  let toward := fun (room : Nat) => ((if room = 0 then 0 else v % room + 1 : Nat) : Int)
  let up := toward (maxSlew - c).toNat
  let down := toward (c + maxSlew).toNat
  { s with time := { s.time with slewing := false, rate := if 0 < off then c + up else if off < 0 then c - down else c } }

/-- The counter slews at 500 ppm towards the upstream time (R50). -/
def State.slew (s : State) (off : Int) : State :=
  { s with time := { s.time with slewing := true, rate := if off < 0 then -maxSlew else maxSlew } }

/-- The slew goes on: the offset is still beyond 2 ns on the side it began on. -/
def State.slewsOn (s : State) (off : Int) : Bool :=
  s.time.slewing && decide (2 * 65536 < off.natAbs) && (if off < 0 then decide (s.time.rate < 0) else decide (0 < s.time.rate))

/-- Locked: the count of milliseconds without lock ends. -/
def State.lockTime (s : State) : State :=
  let s := (s.setTstate tsLOCKED).setF .TIME_HOLD_HOLD_MS 0 0
  { s with time := { s.time with holding := false } }

/-- An upstream beacon with offset `off` (1/65536 ns) acts on the counter. -/
def State.followUp (s : State) (off : Int) : State :=
  let ps := off * 1000 / 65536
  let lim : Int := 2147483647
  let s := s.setF .TIME_OFFSET_OFFSET 0 (ofSigned 32 (max (-lim - 1) (min lim ps)))
  let mag := off.natAbs
  if s.tstate = tsFREE then
    let s := (s.stepTime (tick s.time.now s.time.frac + off)).setTstate tsACQUIRE
    let s := { s with time := { s.time with first := false, goodRun := 0, badRun := 0 } }
    s.discipline 0
  else if s.tstate = tsLOCKED then
    let bad := if 10 * 65536 < mag then s.time.badRun + 1 else 0
    let s := { s with time := { s.time with badRun := bad } }
    let s := if 4 ≤ bad then
        let s := s.setTstate tsACQUIRE
        { s with time := { s.time with goodRun := 0, badRun := 0, first := true } }
      else s
    s.discipline off
  else
    let fresh := s.time.first
    let s := if s.tstate = tsACQUIRE then s else
        let s := s.setTstate tsACQUIRE
        { s with time := { s.time with holding := false, goodRun := 0, badRun := 0 } }
    let s := { s with time := { s.time with first := false } }
    if fresh && decide (64000 * 65536 < mag) && !s.fb .TIME_CTRL_SLEW_ONLY then
      let s := s.stepTime (tick s.time.now s.time.frac + off)
      { s with time := { s.time with goodRun := 0 } }
    else
      let good := if mag ≤ 2 * 65536 then s.time.goodRun + 1 else 0
      let s := { s with time := { s.time with goodRun := good } }
      let s := if 64 ≤ good then s.lockTime else s
      if fresh || s.slewsOn off then s.slew off else s.discipline off

/-- The beacon of this module that a partner's beacon answers: of those sent by which `gap`, the partner's time from its arrival to the answer,
has passed, the one that `behind` later ones follow (R46). -/
def sentBefore (sent : List (Nat × Nat)) (now gap : Int) (behind : Nat) : Option (Nat × Nat) :=
  ((sent.filter fun t => decide (gap ≤ now - tick t.1 t.2)).drop behind).head?

/-- The delay that a beacon measures on port p (R46), in 1/65536 ns, when both ends have seen a beacon. -/
def State.measure (s : State) (p : Nat) (b : Beacon) (behind : Nat) : Option Int :=
  match b.rxTime with
  | none => none
  | some t2 =>
    let now := tick s.time.now s.time.frac
    let gap := tick b.txTime b.txFrac - tick t2 b.rxFrac
    (sentBefore (s.tport p).sent now gap behind).map fun t1 =>
      ((now - tick t1.1 t1.2) - gap) / 2 + toSigned 32 (s.f .TIME_ASYM_ASYM p) * 65536 / 1000

/-- What every beacon on port p leaves: the partner, a doubled node identifier, the arrival time (R44, R368). -/
def State.noteBeacon (s : State) (p : Nat) (b : Beacon) : State :=
  let s := s.setTls p { s.tls p with lastBeacon := s.eng }
  let s := (s.setF .TLS_PSTAT_PARTNER p b.node).setF .TLS_PSTAT_PARTNER_VALID p (b2n b.nodeValid)
  let s := if b.nodeValid && b.node == s.node && s.fb .TLS_NODE_VALID then s.setF .TLS_STATUS_DUP_NODE 0 1 else s
  let s := s.setF .TIME_PORT_LOST p 0
  s.setTport p { s.tport p with rxNow := some s.time.now, rxFrac := s.time.frac, noTime := b.noTime }

/-- A beacon that carries time: the delay when it was measured, and the port's place among the candidates. -/
def State.timeBeacon (s : State) (p : Nat) (b : Beacon) : State :=
  let s := s.setTport p { s.tport p with lastAt := some s.eng, dealer := b.dealer.toNat }
  (s.setF .TIME_PORT_VALID p 1).setF .TIME_PORT_PDEPTH p b.depth

/-- The delay shown, when it was measured. -/
def State.showDelay (s : State) (p : Nat) (delay : Option Int) : State :=
  match delay with
  | some d => s.setF .TIME_PORT_DELAY p (ofSigned 32 (d * 1000 / 65536))
  | none => s

def effBeaconReceive (p : Nat) (f : BeaconFrame) (dt : Nat) (s : State) : State :=
  let s := s.elapse dt
  let b := beaconOfBody f.body
  if s.f .TLS_PSTAT_STATE p ≠ 2 ∧ s.f .TLS_PSTAT_STATE p ≠ 3 then s else
    let delay := s.measure p b f.behind
    let s := s.noteBeacon p b
    if !s.fb .TIME_CTRL_BEACON_EN || b.noTime then s
    else
        let s := (s.showDelay p delay).timeBeacon p b
        if s.fb .TIME_CTRL_ROLE then
          if b.dealer.toNat < s.fuse.serial then
            let s := if s.fb .TIME_STATUS_CONFLICT then s else (s.setF .TIME_STATUS_CONFLICT 0 1).incF .TIME_EVENTS_CONFLICTS 0
            { s with time := { s.time with conflictAt := s.eng } }
          else s
        else
          let s := s.rechoose
          if s.f .TIME_STATUS_UPPORT = p then
            let d := delay.getD (toSigned 32 (s.f .TIME_PORT_DELAY p) * 65536 / 1000)
            let up := tick b.txTime b.txFrac + d
            (if delay.isSome then s.trackRate up else s).followUp (up - tick s.time.now s.time.frac)
          else s
def execBeaconReceive (p : Nat) (f : BeaconFrame) (dt : Nat) (s : State) : Out := run (.beaconReceive p f dt) s (effBeaconReceive p f dt s)

/-- The beacons of a port become invalid (R46). -/
def State.dropBeacons (s : State) (p : Nat) : State :=
  let was := s.fb .TIME_PORT_VALID p
  let s := (s.setF .TIME_PORT_VALID p 0).setF .TIME_PORT_PDEPTH p 0x1F
  if was then s.rechoose else s

def effBeaconTimeout (p dt : Nat) (s : State) : State :=
  let s := s.elapse dt
  let quiet := decide ((s.tls p).lastBeacon + 2000 ≤ s.eng)
  let s := if quiet && s.tlsUp p then s.setF .TIME_PORT_LOST p 1 else s
  match (s.tport p).lastAt with
  | some t => if s.fb .TIME_PORT_VALID p && decide (t + 2000 ≤ s.eng) then s.dropBeacons p else s
  | none => s
def execBeaconTimeout (p dt : Nat) (s : State) : Out := run (.beaconTimeout p dt) s (effBeaconTimeout p dt s)

/-- What the beacon that a port sends now says (R367, R368). -/
def State.beaconOf (s : State) (p : Nat) : Beacon :=
  let t := s.tport p
  { txTime := s.time.now, txFrac := s.time.frac, rxTime := t.rxNow, rxFrac := t.rxFrac
    dealer := BitVec.ofNat 64 (if s.fb .TIME_CTRL_ROLE then s.fuse.serial else s.time.dealer), depth := s.f .TIME_STATUS_DEPTH
    noTime := !s.fb .TIME_CTRL_BEACON_EN || s.tstate == tsFREE || s.tstate == tsEXPIRED
    node := s.node, nodeValid := s.fb .TLS_NODE_VALID }

def effBeaconSend (h dt : Nat) (s : State) : State :=
  let s := s.elapse dt
  ((List.range 4).map fun q => 4 * h + q).foldl (fun s p =>
    let due := match (s.tport p).sent with
      | [] => true
      | t :: _ => t.1 / 1000 != s.time.now / 1000
    if s.tlsUp p && due then
      let b := s.beaconOf p
      let s := s.setTport p { s.tport p with sent := ((s.time.now, s.time.frac) :: (s.tport p).sent).take 16 }
      s.sendFrame p 2 0 (beaconBody b)
    else s) s
def execBeaconSend (h dt : Nat) (s : State) : Out := run (.beaconSend h dt) s (effBeaconSend h dt s)

def effHoldoverExpiry (dt : Nat) (s : State) : State :=
  let s := s.elapse dt
  if s.tstate = tsHOLDOVER ∧ s.time.holdFrom + 60000000000 ≤ s.eng then (s.setTstate tsEXPIRED).leaveAll else s
def execHoldoverExpiry (dt : Nat) (s : State) : Out := run (.holdoverExpiry dt) s (effHoldoverExpiry dt s)

def effConflictExpiry (dt : Nat) (s : State) : State :=
  let s := s.elapse dt
  if s.fb .TIME_STATUS_CONFLICT && decide (s.time.conflictAt + 1000000 ≤ s.eng) then s.setF .TIME_STATUS_CONFLICT 0 0 else s
def execConflictExpiry (dt : Nat) (s : State) : Out := runIf true s (effConflictExpiry dt s)

/-! ## The acting time hub and the dealer (R42, R44) -/

/-- The acting time hub. -/
def State.timeHub (s : State) : Option Nat :=
  let works := (List.range 4).filter s.hubWorks
  match works.find? fun h => (List.range 4).any fun q => s.fb .TIME_PORT_VALID (4 * h + q) with
  | some h => some h
  | none => works.head?

/-- TIME_CTRL.ROLE becomes 1: the module deals from the reference clock, its counter unchanged (R44; that HOLD_MS becomes 0 is DESIGN CHOICE,
notes/assumptions/19). -/
def State.becomeDealer (s : State) : State :=
  let s := s.setTstate tsDEALER
  let s := ((s.setF .TIME_STATUS_UPPORT 0 0x1F).setF .TIME_STATUS_DEPTH 0 0).setF .TIME_STATUS_DEALER 0 s.fuse.serial
  let s := s.setF .TIME_HOLD_HOLD_MS 0 0
  { s with time := { s.time with
      rate := 0, corr := 0, base := none, lastUp := none, slewing := false, holding := false, goodRun := 0, badRun := 0, dealer := s.fuse.serial } }

/-- TIME_CTRL.ROLE becomes 0: ACQUIRE with valid beacons, else HOLDOVER, the counter unchanged. -/
def State.leaveDealer (s : State) : State :=
  let s := s.setF .TIME_HOLD_HOLD_MS 0 0
  match s.chooseUp with
  | some _ =>
    let s := (s.setTstate tsACQUIRE).rechoose
    { s with time := { s.time with first := true, goodRun := 0, badRun := 0 } }
  | none => ((s.setF .TIME_STATUS_DEPTH 0 0x1F).setF .TIME_STATUS_DEALER 0 0).enterHoldover true

/-- A write to TIME_DEALER_SET: loaded at the next reference-clock edge, at most 10 ns away, and counted as a step; ignored unless ROLE is 1. -/
def State.dealerSet (s : State) (v : Nat) : State :=
  if s.fb .TIME_CTRL_ROLE then s.stepTime (tick v 0) else s

/-! ## DEAL_SET (R54 to R56) -/

/-- A table or a slot reservation uses schedule k of a partition. -/
def State.schedUsed (s : State) (p k : Nat) : Bool :=
  ((s.liveTables).any fun e => e.1 / 2 ^ 32 == p && e.2.schedule == k) ||
  (List.range 256).any fun r =>
    s.fb .TLS_RES_FLOW_VALID r && s.f .TLS_RES_FLOW_PART r == p && s.f .TLS_RES_FLOW_SCHEDULE r == k

def effDealSet (r pos : Nat) (s : State) : State :=
  s.startCmd r pos 0x30 fun s e =>
    let period := e.body 0 8
    let k := e.body 16 1
    let clear := bitOf (e.body 17 1) 0
    if 16 ≤ k || 2 ≤ e.body 17 1 || !e.zero 18 46 then s.endWith r pos stPARAM
    else if !clear && (period < 1000 || 1000000000 < period) then s.endWith r pos stPARAM
    else if clear && (period ≠ 0 || e.body 8 8 ≠ 0) then s.endWith r pos stPARAM
    else if !s.ringModule r && s.schedUsed (s.ringPart r) k then s.endWith r pos stPARAM
    else s.doneWith r pos
def execDealSet (r pos : Nat) (s : State) : Out := run (.dealSet r pos) s (effDealSet r pos s)

/-! ## Mode epochs (R70 to R73) -/

/-- Every unit of the partition reports the epoch or a later one. -/
def State.epochEverywhere (s : State) (p e : Nat) : Bool := (s.partUnits p).all fun u => decide (e ≤ s.f .TIME_EPOCH_EPOCH u)

/-- MODE_SETs whose epoch every unit has reported complete (R73). -/
def State.finishModes (s : State) (p : Nat) : State :=
  let m := s.modeOf p
  let done := m.epochs.filter fun x => s.epochEverywhere p x.epoch
  let s := done.foldl (fun s x => if s.isActive x.ring x.pos then s.doneWith x.ring x.pos else s) s
  s.setMode p { m with epochs := m.epochs.filter fun x => !s.epochEverywhere p x.epoch }

/-- A MODE_SET of the partition that started earlier has not taken its epoch: it waits for the translation of its flag (R70). -/
def State.modeSetBefore (s : State) (r pos : Nat) : Bool :=
  let no := ((s.entry? r pos).map (·.startNo)).getD 0
  s.openCmds.any fun (q, e) => !s.ringModule q && s.ringPart q == s.ringPart r && e.op == 0x38 && e.active && e.phase == 9 && decide (e.startNo < no)

def effModeSet (r pos : Nat) (s : State) : State :=
  s.startCmd r pos 0x38 fun s e =>
    if 64 ≤ e.body 8 8 || !e.zero 16 48 then s.endWith r pos stPARAM
    else if s.modeSetBefore r pos then s.modEntry r pos fun e => { e with phase := 9 }
    else
      let p := s.ringPart r
      let m := s.modeOf p
      let k := (m.last + 1) % 2 ^ 32
      let s := s.setMode p
        { m with last := k, lastMode := e.body 8 8, epochs := m.epochs ++ [⟨k, e.body 0 8, e.body 8 8, r, pos⟩] }
      s.finishModes p
def execModeSet (r pos : Nat) (s : State) : Out := run (.modeSet r pos) s (effModeSet r pos s)

/-- GROUPS of a LAUNCH. -/
def Entry.launchGroups (e : Entry) : Nat := e.body 16 4

/-- Teams of a kernel are left to dispatch, one that is held before its start (R140) among them. -/
def Kernel.undispatched (k : Kernel) : Bool := k.phase != .stopping && decide (k.nextTeam * k.team < k.groups)

/-- A LAUNCH of the partition that began execution under an epoch before e has its kernel still to come. -/
def State.launching (s : State) (p e : Nat) : Bool :=
  s.openCmds.any fun (q, x) => !s.ringModule q && s.ringPart q == p && x.op == 0x08 && x.active && decide (x.epoch < e) &&
    x.launchGroups != 0 && !(s.kernel x.startNo).live

/-- Unit u of partition p is at a kernel boundary for epoch e (R71). -/
def State.atBoundary (s : State) (p u e : Nat) : Bool :=
  !s.launching p e &&
  (s.groups.all fun (g : Nat × Group) => !(g.2.live && g.1 / 32 == u && decide ((s.kernel g.2.kernel).epoch < e))) &&
  s.kernels.all fun (k : Nat × Kernel) => !(k.2.live && k.2.part == p && decide (k.2.epoch < e) && k.2.undispatched)

/-- The last epoch of the pending ones that the unit may apply now. -/
def State.applicable (s : State) (p u : Nat) : Option Epoch :=
  ((s.effective p).takeWhile fun x => decide (x.epoch ≤ s.f .TIME_EPOCH_EPOCH u) || s.atBoundary p u x.epoch).getLast?

def effEpochApply (u dt : Nat) (s : State) : State :=
  let s := s.elapse dt
  match s.dieOwner (u / 128) with
  | none => s
  | some p =>
    match s.applicable p u with
    | none => s
    | some x =>
      if x.epoch ≤ s.f .TIME_EPOCH_EPOCH u || !s.inOrder x.effect then s else
        (((s.setF .TIME_EPOCH_EPOCH u x.epoch).setF .TIME_EPOCH_MODE u x.mode).setReq (u / 128)).finishModes p
def execEpochApply (u dt : Nat) (s : State) : Out := run (.epochApply u dt) s (effEpochApply u dt s)

end Sys2Proof.Machine
end

