-- ==== Sys2Proof/Machine/Stops.lean ====
section
/-!
DEFINITION. How work of a partition ends when it stops (R254, R422) or is reset (R419), and what the failure of a stack interrupts (R427).
-/

namespace Sys2Proof.Machine

open Sys2Proof

/-- Every accepted, unfinished command of a partition's rings ends with a status, but for the one named. -/
def State.endPartWork (s : State) (p st : Nat) (but : Option (Nat × Nat)) : State :=
  let l := s.openCmds.filter fun (r, e) =>
    !s.ringModule r && s.ringPart r == p && (e.st == .accepted || e.st == .running) && e.res.isNone && some (r, e.pos) != but
  l.foldl (fun s (r, e) =>
    let s := (s.dropWork r e.pos).endWith r e.pos st
    s.incF (if st = stABORTED then .RST_COUNTS_ABORTED else .RST_COUNTS_PART_FAILED) 0) s

/-- A partition is STOPPED: its rings accept nothing, its commands end with PART_FAILED without replay, it leaves its tables. -/
def State.stopPartition (s : State) (p : Nat) : State :=
  if !s.partValid p || s.f .RST_PART_STATE p = 3 then s
  else ((s.setF .RST_PART_STATE p 3).endPartWork p stPARTFAILED none).leaveTables p

/-- A stack reaches 115 °C (R254): self-refresh, STOPPED, and its partition stops. A running window ends at once (R258). -/
def State.stopStack (s : State) (k : Nat) : State :=
  if s.fb .MEM_STATUS_STOPPED k then s
  else
    let s := ((s.setF .MEM_STATUS_SELF_REFRESH k 1).setF .MEM_STATUS_STOPPED k 1).setF .MEM_STATUS_WINDOW k 0
    match s.dieOwner (k / 2) with
    | some p => s.stopPartition p
    | none => s

/-- A stack is failed (R425, R431): commands that hold it are interrupted, and its partition is DEGRADED. -/
def State.failStack (s : State) (k : Nat) : State :=
  if (s.stack k).failed then s
  else
    let s := s.setStack k { s.stack k with failed := true }
    let s := s.setF .RST_FAILED_STACKS 0 (setBit (s.f .RST_FAILED_STACKS) k)
    let s := match s.dieOwner (k / 2) with
      | some p => if s.f .RST_PART_STATE p = 1 then s.setF .RST_PART_STATE p 4 else s
      | none => s
    let held := (s.taps.filter fun t => t.slices.contains k || t.pins.any fun x => x.stack == k).map (fun t => (t.ring, t.pos)) ++
      (s.cops.filter fun c => (c.phase != .take && c.stack == k) || (c.popped.map (·.1)) == some k || c.reserved.any fun x => x.1 == k).map fun c => (c.ring, c.pos)
    -- a reset of the partition in progress accesses its stacks (R419)
    let resets := match s.dieOwner (k / 2) with
      | some p => (s.openCmds.filter fun (_, e) => e.op == 0x84 && e.active && e.phase == 9 && e.body 0 2 == p * 256).map fun (r, e) => (r, e.pos)
      | none => []
    (held ++ resets).foldl (fun s (r, pos) => s.interrupt r pos) s

end Sys2Proof.Machine
end

