-- ==== Sys2Proof/Machine/Memory.lean ====
section
/-!
DEFINITION. The rows of the bonded memory stacks (chapter 9): accesses on the bulk and the narrow path, scrubbing, refresh, temperature, lane
flagging, retrain windows and the retirement of channels.
-/

namespace Sys2Proof.Machine

open Sys2Proof

/-! ## Accesses (R242 to R245, R250, R251) -/

/-- An access met uncorrectable data: its command, kernel or node core takes the end of R250. -/
def State.memLost (s : State) (req : MemReq) (k off access : Nat) : State :=
  let pa := s.paOf k off
  let q := (s.dieOwner (k / 2)).getD 16
  let x : FRec := { addr := pa, time := s.now, cause := 0x10, agentKind := req.kind, agentIx := req.index, kind := 2, access := access }
  match req.cmd with
  | some (r, pos) =>
    if req.kind = 0 then
      match (s.kernelsOf r pos).head? with
      | some kn =>
        { s with gfaults := s.gfaults ++
          [⟨32 * req.index, kn, req.index, { status := stUNCORR }, { x with ring := some r, pos := some pos, asid := (s.kernel kn).asid }⟩] }
      | none => s
    else if s.isActive r pos then
      s.failRec r pos { status := stUNCORR } { x with ring := some r, pos := some pos, asid := if s.ringModule r then 0 else s.ringAsid r }
    else s
  | none =>
    let s := s.postEvent q x
    if req.kind = 1 then s.setCore req.index { s.core req.index with trap := if access = 2 then 2 else 1, trapAddr := pa } else s

/-- The stack serves requests: not failed, not stopped. -/
def State.stackServes (s : State) (k : Nat) : Bool := !(s.stack k).failed && !s.fb .MEM_STATUS_STOPPED k

/-- A request that meets a failed or stopped stack (R427). -/
def State.memAbsent (s : State) (req : MemReq) (off : Nat) : State :=
  match req.cmd with
  | some (r, pos) => s.interrupt r pos
  | none =>
    if req.kind = 1 then s.setCore req.index { s.core req.index with trap := 1, trapAddr := off } else s

/-- The stack lies outside the partition that the request works for: that of its command's ring, of its node core's die (R25). -/
def State.memOutside (s : State) (req : MemReq) (k : Nat) : Bool :=
  match req.cmd with
  | some (r, _) => !s.ringModule r && s.dieOwner (k / 2) != some (s.ringPart r)
  | none => req.kind == 1 && ((s.dieOwner (k / 2)).isNone || s.dieOwner (k / 2) != s.dieOwner (req.index / 16))

/-- An access that the module does not perform, since it lies outside the requester's partition or in a closed range: its command or kernel
ends with RIGHTS and a fault record, its node core takes an access fault (R25, R195, R451). -/
def State.memDeny (s : State) (req : MemReq) (e : MErr) (k off access : Nat) : State :=
  let pa := s.paOf k off
  match req.cmd with
  | some (r, pos) =>
    if req.kind = 0 then
      match (s.kernelsOf r pos).head? with
      | some kn =>
        { s with gfaults := s.gfaults ++ [⟨32 * req.index, kn, req.index, { status := stRIGHTS },
          { addr := pa, time := s.now, cause := if e == .outside then 0x09 else 0x08, agentKind := 0, agentIx := req.index, kind := 2,
            access := access, ring := some r, pos := some pos, asid := (s.kernel kn).asid }⟩] }
      | none => s
    else if s.isActive r pos then s.failAccess r pos (.mem e pa) access req.kind req.index else s
  | none =>
    if req.kind = 1 then s.setCore req.index { s.core req.index with trap := if access = 2 then 2 else 1, trapAddr := pa } else s

/-- One read of a codeword; `false` when it was uncorrectable. -/
def State.readOne (s : State) (k off : Nat) : Bool × State :=
  match s.readWord (granKey k off) with
  | (some _, s) => (true, s)
  | (none, s) => (false, s)

/-- A bulk read of the sector that holds `off`. -/
def effBulkRead (req : MemReq) (k off : Nat) (s : State) : State :=
  if s.memOutside req k then s.memDeny req .outside k off 1
  else if !s.stackServes k then s.memAbsent req off
  else
    let a := off / 256 * 256
    let s := (s.touchStack k).countPath k .bulk 1
    let (ok, s) := [0, 64, 128, 192].foldl (fun (ok, s) o =>
      let (g, s) := State.readOne s k (a + o)
      (ok && (g || o != off % 256 / 64 * 64), s)) ((true, s) : Bool × State)
    let s := s.retireOf k
    if ok then s else s.memLost req k off 1
def execBulkRead (req : MemReq) (k off : Nat) (s : State) : Out := run (.bulkRead req k off) s (effBulkRead req k off s)

/-- Bytes written on a path by a requester other than the cellar: sectors or codewords counted, partial codewords read first. -/
def State.memWrite (s : State) (req : MemReq) (k off : Nat) (path : Path) (d : Bytes) : State :=
  if s.memOutside req k then s.memDeny req .outside k off 2
  else if !s.stackServes k then s.memAbsent req off
  else if (pieces off d.length).any fun x => s.inCellar k x.2.1 ||
      (req.kind != 1 && (s.inBootImage (s.paOf k x.2.1) || s.inBootImage (s.paOf k (x.2.1 + x.2.2 - 1)))) then s.memDeny req .closed k off 2
  else
    let s := s.touchStack k
    let (bad, s) := (pieces off d.length).foldl (fun (bad, s) (o, a, n) =>
      match bad with
      | some x => (some x, s)
      | none =>
        match (s.slotWrite k a path (n == 64) off a).writeGran (granKey k a) (byteMask (a % 64) n) (zeroBytes (a % 64) ++ sliceB d o n) with
        | (true, s) => (none, s)
        | (false, s) => (some a, s)) ((none, s) : Option Nat × State)
    let s := s.retireOf k
    match bad with
    | some a => s.memLost req k a 2
    | none => s

def effBulkWrite (req : MemReq) (k off : Nat) (d : Bytes) (s : State) : State := s.memWrite req k off .bulk d
def execBulkWrite (req : MemReq) (k off : Nat) (d : Bytes) (s : State) : Out := run (.bulkWrite req k off d) s (effBulkWrite req k off d s)

def effNarrowRead (req : MemReq) (k off _len : Nat) (s : State) : State :=
  if s.memOutside req k then s.memDeny req .outside k off 1
  else if !s.stackServes k then s.memAbsent req off
  else
    let s := (s.touchStack k).countPath k .narrow 1
    let (ok, s) := s.readOne k off
    let s := s.retireOf k
    if ok then s else s.memLost req k off 1
def execNarrowRead (req : MemReq) (k off len : Nat) (s : State) : Out := run (.narrowRead req k off len) s (effNarrowRead req k off len s)

def effNarrowWrite (req : MemReq) (k off : Nat) (d : Bytes) (s : State) : State := s.memWrite req k off .narrow d
def execNarrowWrite (req : MemReq) (k off : Nat) (d : Bytes) (s : State) : Out :=
  run (.narrowWrite req k off d) s (effNarrowWrite req k off d s)

/-! ## Scrubbing (R252) -/

/-- What a scrub read does with what it read: a corrected codeword is written back and counted, an uncorrectable one reported. -/
def State.scrubbed (k g : Nat) (fixed : Bool) (r : Option Bytes × State) : State :=
  match r with
  | (some b, s) =>
    let s := if !fixed then s else
      (({ s with ecc := s.ecc.fput g [] [] }).putBytes (k * 2 ^ 37 + granOff g) (sliceB b 0 64)).incF .MEM_ERR_SCRUB_FIXED k
    s.retireOf k
  | (none, s) =>
    (s.postEvent ((s.dieOwner (k / 2)).getD 16)
      { addr := s.paOf k (granOff g), time := s.now, cause := 0x10, agentKind := 8, agentIx := k, kind := 2, access := 1 }).retireOf k

def effScrubRead (k off : Nat) (s : State) : State :=
  if !s.fb .MEM_CTRL_SCRUB_EN k || !s.stackServes k || s.napping k || (s.fb .MEM_STATUS_SELF_REFRESH k && !s.fb .MEM_STATUS_WINDOW k) then s
  else
    let g := granKey k off
    let s := s.setStack k { s.stack k with scrubAt := granOff g + 64 }
    let s := s.slotRead k (granOff g) .bulk (granOff g) 64 (granOff g)
    State.scrubbed k g (s.badSyms g != []) (s.readWord g)
def execScrubRead (k off : Nat) (s : State) : Out := run (.scrubRead k off) s (effScrubRead k off s)

/-! ## Refresh and temperature (R253, R254) -/

/-- Mean interval per bank, ns. -/
def State.refreshNs (s : State) (k : Nat) : Nat := [3900, 1950, 975].getD (s.f .MEM_STATUS_RATE k) 975

def effRefresh (k c b dt : Nat) (s : State) : State :=
  let s := s.elapse dt
  let x := s.stack k
  let key := 64 * c + b
  let last := x.refreshed.fget key 0
  if s.fb .MEM_STATUS_SELF_REFRESH k || (last != 0 && decide (s.eng < last + s.refreshNs k)) then s
  else s.setStack k { x with refreshed := x.refreshed.fput key s.eng 0 }
def execRefresh (k c b dt : Nat) (s : State) : Out := run (.refresh k c b dt) s (effRefresh k c b dt s)

/-- The band a temperature is in, from the band before: a band is left only 3 K below the threshold that entered it. -/
def nextBand (band temp : Nat) : Nat :=
  let up := if 105 < temp then 3 else if 95 < temp then 2 else if 85 < temp then 1 else 0
  let keep := if 102 < temp then 3 else if 92 < temp then 2 else if 82 < temp then 1 else 0
  max up (min band keep)

/-- A stack's temperature is read: the hottest of its dies (R253, R254). -/
def State.stackTemp (s : State) (k temp hot : Nat) : State :=
  let s := (s.setF .MEM_THERM_TEMP k temp).setF .MEM_THERM_HOT_DIE k hot
  let s := if s.f .MEM_THERM_PEAK k < temp then s.setF .MEM_THERM_PEAK k temp else s
  let band := nextBand (if s.fb .MEM_STATUS_THROTTLED k then 3 else s.f .MEM_STATUS_RATE k) temp
  let s := (s.setF .MEM_STATUS_RATE k (min band 2)).setF .MEM_STATUS_THROTTLED k (b2n (band == 3))
  let s := if 115 ≤ temp then s.stopStack k else s
  if 125 < temp && s.fb .MEM_STATUS_STOPPED k then
    (s.setF .MEM_STATUS_CONTENTS_LOST k 1).setStack k { s.stack k with lost := true }
  else s

def effStackTempSample (k temp hot dt : Nat) (s : State) : State := (s.elapse dt).stackTemp k temp hot
def execStackTempSample (k temp hot dt : Nat) (s : State) : Out := run (.stackTempSample k temp hot dt) s (effStackTempSample k temp hot dt s)

/-! ## Lanes and windows (R256 to R258) -/

def effMemLaneStuck (k c lane : Nat) (s : State) : State := (s.flagLane k c lane).retireOf k
def execMemLaneStuck (k c lane : Nat) (s : State) : Out := run (.memLaneStuck k c lane) s (effMemLaneStuck k c lane s)

/-- A pending window is due (R257). -/
def State.windowDue (s : State) (k : Nat) : Bool :=
  let x := s.stack k
  let late := decide (x.pendAt + 1000000 ≤ s.eng)
  match s.dieOwner (k / 2) with
  | some p =>
    let c := s.sched (schedKey p (s.f .MEM_CTRL_SCHEDULE k))
    if s.fb .MEM_CTRL_WIN_SCHED k && c.defined then c.due s.now x.nextDeal else late
  | none => late

/-- Flagged lanes of a channel replaced by its free spares, lowest lane first; those left over become carried (R259). -/
def State.spareLanes (s : State) (k c : Nat) : State :=
  (((s.stack k).badLanes.fget c []).filter fun l => s.fb .MEM_LANE_FLAGGED (laneIx k c l)).foldl (fun s l =>
    match s.freeSpare k c with
    | some i => s.replaceLane k c l i
    | none => s.carryLane k c l) s

def effMemRetrainWindow (k dt : Nat) (s : State) : State :=
  let s := s.elapse dt
  if !s.fb .MEM_STATUS_PENDING k || s.fb .MEM_STATUS_WINDOW k || s.fb .MEM_STATUS_STOPPED k || (s.stack k).failed ||
      s.fb .MEM_STATUS_SELF_REFRESH k || s.napping k || !s.windowDue k || !(s.memWinTime k).all s.inOrder then s
  else
    let s := ((s.setF .MEM_STATUS_PENDING k 0).setF .MEM_STATUS_WINDOW k 1).setF .MEM_STATUS_SELF_REFRESH k 1
    let s := s.incF .MEM_STATUS_WINDOWS k
    ((List.range 32).foldl (fun s c => s.spareLanes k c) s).retireOf k
def execMemRetrainWindow (k dt : Nat) (s : State) : Out := run (.memRetrainWindow k dt) s (effMemRetrainWindow k dt s)

/-- The window ends; requests that wait for it have ended it themselves (R257). -/
def effMemWindowEnd (k dt : Nat) (s : State) : State := (s.elapse dt).endMemWindow k
def execMemWindowEnd (k dt : Nat) (s : State) : Out := run (.memWindowEnd k dt) s (effMemWindowEnd k dt s)

end Sys2Proof.Machine
end

