-- ==== Sys2Proof/Machine/Copies.lean ====
section
/-!
DEFINITION. Copy engines (R318 to R327): COPY, FILL and COPY_STRIDED, the choice of an engine, spans; and check units (R329 to R334).
Engines are numbered 8h + e on hubs (0 to 31) and 32 + 2n + k on dies.
-/

namespace Sys2Proof.Machine

open Sys2Proof

/-! ## The transfer of a command -/

/-- A data-moving command as rows of bytes: source (none: the pattern of a FILL), destination, bytes per row, rows, strides. -/
structure Xfer where
  src : Option Nat
  dst : Nat
  row : Nat
  rows : Nat
  srcStride : Nat := 0
  dstStride : Nat := 0
  flags : Nat := 0
  pattern : Nat := 0

/-- The transfer that a packet asks for. -/
def Entry.xfer (e : Entry) : Xfer :=
  match e.op with
  | 0x10 => { src := some (e.body 0 8), dst := e.body 8 8, row := e.body 16 8, rows := 1, flags := e.body 24 1 }
  | 0x12 => { src := none, dst := e.body 0 8, row := e.body 8 8, rows := 1, flags := e.body 24 1, pattern := e.body 16 8 }
  | _ => { src := some (e.body 0 8), dst := e.body 8 8, row := e.body 16 4, rows := e.body 20 4, srcStride := e.body 24 8,
           dstStride := e.body 32 8, flags := e.body 40 1 }

def Xfer.size (x : Xfer) : Nat := x.row * x.rows
def Xfer.noFlush (x : Xfer) : Bool := bitOf x.flags 1

/-- Extents [a, a + n) and [b, b + m) meet. -/
def meets (a n b m : Nat) : Bool := decide (a < b + m) && decide (b < a + n)

/-- Bytes from the first row's start to the last row's end. -/
def Xfer.extent (x : Xfer) (stride : Nat) : Nat := (x.rows - 1) * stride + x.row

/-- The checks of R321, R322 and R323: `none` when the transfer goes on, else the status it ends with. -/
def Entry.xferCheck (e : Entry) : Option Nat :=
  let x := e.xfer
  let reserved := match e.op with
    | 0x12 => x.flags != 0 && x.flags != 2 || !e.zero 25 39
    | 0x10 => decide (4 ≤ x.flags) || !e.zero 25 39
    | _ => decide (4 ≤ x.flags) || !e.zero 41 23 || (decide (1 < x.rows) && decide (x.dstStride < x.row))
  if reserved || decide (2 ^ 40 < x.size) then some stPARAM
  else if x.size = 0 then some stDONE
  else match x.src with
    | some a => if meets a (x.extent x.srcStride) x.dst (x.extent x.dstStride) then some stPARAM else none
    | none => none

/-- The virtual addresses of transfer offset `off`, and the bytes to the end of the span: the nearest of the row's end and the 64 KiB
boundaries of source and destination (R301). -/
def Xfer.at_ (x : Xfer) (off : Nat) : Option Nat × Nat × Nat :=
  let i := off / x.row
  let j := off % x.row
  let d := (x.dst + i * x.dstStride + j) % 2 ^ 64
  let src := x.src.map fun a => (a + i * x.srcStride + j) % 2 ^ 64
  let n := min (x.row - j) (65536 - d % 65536)
  (src, d, match src with | some a => min n (65536 - a % 65536) | none => n)

/-! ## Engines -/

def engineAgentKind (e : Nat) : Nat := if e < 32 then 3 else 2
def engineAgentIx (e : Nat) : Nat := if e < 32 then e else e - 32

/-- The engine reaches a target (Table 12-6). -/
def engineReaches (e : Nat) : Loc → Bool
  | .phys .. => true
  | .host .. => decide (e < 16)
  | .remote .. => decide (16 ≤ e) && decide (e < 32)

/-- The candidate engines of R319 in the order of preference, or the port or nothing that is missing. -/
def State.candidates (s : State) (src : Option Loc) (dst : Loc) : List Nat :=
  let hub := fun (h lo n : Nat) => if s.hubWorks h then (List.range n).map fun i => 8 * h + lo + i else []
  match src.bind Loc.port?, dst.port? with
  | some k, some _ => hub k 0 4
  | some k, none => hub k 4 4
  | none, some k => hub k 0 4
  | none, none =>
    let isRemote := fun (l : Loc) => match l with | .remote .. => true | _ => false
    if isRemote dst || src.any isRemote then hub 2 0 8 ++ hub 3 0 8
    else match dst with
      | .phys _ pa =>
        match s.decodePA pa with
        | some (k, _) => if s.dieWorks (k / 2) then [32 + k / 2 * 2, 33 + k / 2 * 2] else []
        | none => []
      | _ => []

/-- Commands queued at an engine, the running one apart (R319, R320). -/
def State.engineLoad (s : State) (e : Nat) : Nat := (s.engine e).queue.length

/-- The candidate with the fewest queued commands, the first of equals, whose queue of 64 has room. -/
def State.pickEngine (s : State) (l : List Nat) : Option Nat :=
  (l.filter fun e => decide ((s.engine e).queue.length < 64)).foldl (fun m e =>
    match m with
    | some b => if s.engineLoad e < s.engineLoad b then some e else m
    | none => some e) none

/-- Start of a data-moving command: checks, the translation of its first bytes, the choice of its engine (R319). -/
def State.startXfer (s : State) (r pos : Nat) (e : Entry) : State :=
  if s.movers.any (fun m => m.ring == r && m.pos == pos) || s.engines.any (fun (x : Nat × Engine) => x.2.queue.contains (r, pos)) then s
  else match e.xferCheck with
  | some st => if st = stDONE then s.doneWith r pos 0 0x3F else s.endWith r pos st
  | none =>
    let x := e.xfer
    let s := if e.checks then s.chkBegin r pos 0 else s
    let c := s.cmdCache r
    let got : Except XOut (Option Loc) × State :=
      match x.src with
      | none => (.ok none, s)
      | some a =>
        match s.cmdXlate c r a 1 with
        | (.ok l, s) => (.ok (some l), s)
        | (o, s) => (.error o, s)
    match got with
    | (.error o, s) => s.failXlate r pos o (x.src.getD 0) 1 7 (s.hubAgent r)
    | (.ok src, s) =>
      match s.cmdXlate c r x.dst 2 with
      | (.ok dst, s) =>
        let l := s.candidates src dst
        if l = [] then
          match (src.bind Loc.port?).or dst.port? with
          | some k => s.failAccess r pos (.host k) 2 7 (s.hubAgent r)
          | none => s.interrupt r pos
        else match s.pickEngine l with
          | some n => (s.chkHub r pos (if n < 32 then some (n / 8) else none)).setEngine n { s.engine n with queue := (s.engine n).queue ++ [(r, pos)] }
          | none => s.modEntry r pos fun e => { e with phase := 9, waiting := none }
      | (o, s) => s.failXlate r pos o x.dst 2 7 (s.hubAgent r)

def effCopy (r pos : Nat) (s : State) : State := s.startCmd r pos 0x10 fun s e => s.startXfer r pos e
def execCopy (r pos : Nat) (s : State) : Out := runR (.copy r pos) s (effCopy r pos s)

def effFill (r pos : Nat) (s : State) : State := s.startCmd r pos 0x12 fun s e => s.startXfer r pos e
def execFill (r pos : Nat) (s : State) : Out := runR (.fill r pos) s (effFill r pos s)

def effCopyStrided (r pos : Nat) (s : State) : State := s.startCmd r pos 0x13 fun s e => s.startXfer r pos e
def execCopyStrided (r pos : Nat) (s : State) : Out := runR (.copyStrided r pos) s (effCopyStrided r pos s)

/-- The engine's hub or die works. -/
def State.engineWorks (s : State) (e : Nat) : Bool := if e < 32 then s.hubWorks (e / 8) else s.dieWorks ((e - 32) / 2)

/-- An engine whose command has ended is free; one whose command has stalled is not (R307). -/
def State.freeEngine (s : State) (e : Nat) : State :=
  match (s.engine e).run with
  | none => s
  | some (r, pos) =>
    if s.isOpen r pos then s
    else ({ s with movers := s.movers.filter fun m => m.engine != e }).leaveEngines r pos

/-- The queue without commands that have ended. -/
def State.liveQueue (s : State) (e : Nat) : List (Nat × Nat) := (s.engine e).queue.filter fun (r, pos) => s.isActive r pos

def effCopyEngineStart (e : Nat) (s : State) : State :=
  let s := s.freeEngine e
  if (s.engine e).run.isSome || !s.engineWorks e then s
  else match s.liveQueue e with
    | (r, pos) :: t =>
      let s := s.setEngine e { run := some (r, pos), queue := t }
      let s := if e < 32 then s else s.wakeDie ((e - 32) / 2)
      { s with movers := (s.movers.filter fun m => m.engine != e) ++ [{ ring := r, pos := pos, engine := e }] }
    | [] => s.setEngine e { s.engine e with queue := [] }
def execCopyEngineStart (e : Nat) (s : State) : Out := runR (.copyEngineStart e) s (effCopyEngineStart e s)

/-! ## Spans (R301, R324) -/

def State.setMover (s : State) (m : Mover) : State :=
  { s with movers := s.movers.map fun x => if x.engine == m.engine then m else x }

/-- Bytes moved by an engine counted (COPY_BYTES). -/
def State.countMoved (s : State) (e n : Nat) : State :=
  if e < 32 then s.evHub (e / 8) 0x23 (e % 8) 0 n else s.evDie ((e - 32) / 2) 0x23 ((e - 32) % 2) n

/-- Whether a write of the span would be stopped, before any byte of it is written: the first address outside the partition, in a failed
stack, or closed to writes. -/
def State.spanClosed (s : State) (p pa len : Nat) : Option (MErr × Nat) :=
  (pieces pa len).findSome? fun (_, a, _) =>
    match s.locate (some p) a with
    | .error e => some (e, a)
    | .ok (k, off) => if s.inCellar k off || s.inBootImage a then some (.closed, a) else none

/-- The bytes of a span as its source gives them, with the error that cut them short. -/
def State.spanRead (s : State) (x : Xfer) (off n : Nat) (src : Option Loc) : Bytes × Option AErr × State :=
  match src with
  | none => ((List.range n).map fun i => BitVec.ofNat 8 (x.pattern / 2 ^ (8 * ((off + i) % 8))), none, s)
  | some (.phys p pa) =>
    match s.readSome (some p) .bulk pa n with
    | (b, none, s) => (b, none, s)
    | (b, some (e, a), s) => (b, some (.mem e a), s)
  | some l =>
    match s.readLoc l .bulk n with
    | (.ok b, s) => (b, none, s)
    | (.error e, s) => ([], some e, s)

/-- Window reads of a span at transfer offset `off`: requests inside 256-byte blocks, whose data goes to `dst`, at the virtual address `dva`. -/
def State.spanFetch (s : State) (h r pos off n : Nat) (src dst : Loc) (va dva : Nat) : State :=
  (windowReads src.offset n (n + 1) 0).foldl (fun s (i, len) =>
    s.sendReq h (src.add i) 1 len 0 false false [] (.cmd r pos) (some (dst.add i)) (va + i) (dva + i) (some (off + i, off))) s

/-- Data read through a window on its way into another (import to import); the last of a transfer ends its message. -/
def State.forwardAll (s : State) (m : Mover) (e : Entry) : State :=
  let s := s.modEntry m.ring m.pos fun e => { e with fwd := [] }
  (e.fwd.zipIdx).foldl (fun s (x, i) =>
    s.sendWrites (m.engine / 8) x.loc (decide (e.xfer.size ≤ m.off) && i + 1 == e.fwd.length) x.data (.cmd m.ring m.pos) x.va x.place) s

/-- Completion of a data-moving command: its flushing reads (R326) and VIS (R327). -/
def State.endXfer (s : State) (m : Mover) (e : Entry) (x : Xfer) : State :=
  let s :=
    if m.hostW = [] then s.doneWith m.ring m.pos x.size 0x3F
    else if x.noFlush then
      let one := match m.hostW, (s.ringLoc m.ring 0).port? with
        | [(k, _)], some y => if k = y then 2 ^ k else 0
        | _, _ => 0
      s.doneWith m.ring m.pos x.size (0x34 ||| one)
    else
      let (ports, s) := s.flushPorts m.ring m.pos e m.hostW
      s.doneAfterFlush m.ring m.pos ports x.size 0x3F
  s.freeEngine m.engine

/-- A span's bytes put at their destination: what was written, or the command's end. -/
def State.spanWrite (s : State) (m : Mover) (x : Xfer) (off : Nat) (dst : Loc) (data : Bytes) (va : Nat) : Bool × State :=
  let e := m.engine
  match dst with
  | .remote .. =>
    (true, s.sendWrites (e / 8) dst (decide (x.size ≤ off + data.length)) data (.cmd m.ring m.pos) va (some (off, off)))
  | .phys p pa =>
    match s.writePhys (some p) .bulk false pa data with
    | (none, s) => (true, s)
    | (some (err, a), s) =>
      (false, s.failAccess m.ring m.pos (.mem err a) 2 (engineAgentKind e) (engineAgentIx e) (spanResult off pa (.mem err a)))
  | .host .. =>
    match s.writeLoc dst .bulk data with
    | (none, s) => (true, s.noteHostW m.ring (dst.add (data.length - 1)))
    | (some err, s) => (false, s.failAccess m.ring m.pos err 2 (engineAgentKind e) (engineAgentIx e))

/-- The location at the start of the 64 KiB page that holds the address `va` of a location. -/
def Loc.pageBase (l : Loc) (va : Nat) : Loc :=
  let o := va % 65536
  match l with
  | .phys p pa => .phys p (pa - o)
  | .host k a => .host k (a - o)
  | .remote nd w x f => .remote nd w (x - o) f

/-- An address of a transfer: through the translation of the span under way, or, where a span begins, translated anew (R301). The translation
kept is that of the span's page. -/
def State.spanXlate (s : State) (e r : Nat) (cur : Option Held) (va need : Nat) : Except XOut (Loc × Held) × State :=
  let page := va / 65536 * 65536
  match cur with
  | some ⟨p, a, v, some l⟩ => if v = page then (.ok (l.add (va - page), ⟨p, a, v, some l⟩), s) else fresh s page
  | _ => fresh s page
where
  fresh (s : State) (page : Nat) : Except XOut (Loc × Held) × State :=
    match s.cmdXlate (copyCache e) r va need with
    | (.ok l, s) => (.ok (l, s.holdOf r page (l.pageBase va)), s)
    | (o, s) => (.error o, s)

/-- A span's translation is kept while the next address lies in its page. -/
def keepSpan (h : Option Held) (next : Option Nat) : Option Held :=
  match h, next with
  | some x, some va => if x.va = va / 65536 * 65536 then some x else none
  | _, _ => none

/-- The mover past `n` bytes, with the spans still under way. -/
def Mover.advance (m : Mover) (x : Xfer) (n : Nat) (src dst : Option Held) : Mover :=
  let off := m.off + n
  let (sva, dva, _) := x.at_ off
  if x.size ≤ off then { m with off := off, srcAt := none, dstAt := none }
  else { m with off := off, srcAt := keepSpan src sva, dstAt := keepSpan dst (some dva) }

/-- Moves the bytes from transfer offset `m.off` to the next boundary of a span or row. -/
def State.moveSpan (s : State) (m : Mover) (x : Xfer) : State :=
  let r := m.ring
  let pos := m.pos
  let e := m.engine
  let ak := engineAgentKind e
  let ai := engineAgentIx e
  let (sva, dva, n) := x.at_ m.off
  let got : Except XOut (Option (Loc × Held)) × State :=
    match sva with
    | none => (.ok none, s)
    | some a =>
      match s.spanXlate e r m.srcAt a 1 with
      | (.ok l, s) => (.ok (some l), s)
      | (.error o, s) => (.error o, s)
  match got with
  | (.error o, s) => (s.failXlate r pos o (sva.getD 0) 1 ak ai m.off).freeEngine e
  | (.ok srcH, s) =>
    let src := srcH.map (·.1)
    match s.spanXlate e r m.dstAt dva 2 with
    | (.ok (dst, dstH), s) =>
      let go := fun (m : Mover) => m.advance x n (srcH.map (·.2)) (some dstH)
      let miss := fun (s : State) (va access : Nat) =>
        (s.failRec r pos { status := stRIGHTS, result := m.off } (s.cmdRec r pos 0x08 1 va access ak ai)).freeEngine e
      if src.any fun l => !engineReaches e l then miss s (sva.getD 0) 1
      else if !engineReaches e dst then miss s dva 2
      else
        let stop := match dst with
          | .phys p pa => s.spanClosed p pa n
          | _ => none
        match stop with
        | some (err, a) => (s.failAccess r pos (.mem err a) 2 ak ai m.off).freeEngine e
        | none =>
          let s := s.modEntry r pos fun y => { y with prog := m.off, phase := 0, waiting := none }
          let ports := (src.bind Loc.port?).toList ++ dst.port?.toList
          let used := m.used ++ ports.filter fun k => !m.used.contains k
          let hostW := match (dst.add (n - 1)).hostAt? with
            | some (k, a) => (k, a) :: m.hostW.filter fun x => x.1 != k
            | none => m.hostW
          match src with
          | some (.remote nd w o f) =>
            let s := s.setMover (go { m with used := used, hostW := hostW })
            (s.spanFetch (e / 8) r pos m.off n (.remote nd w o f) dst (sva.getD 0) dva).countMoved e n
          | _ =>
            let (b, bad, s) := s.spanRead x m.off n src
            let s := s.chkFeed r pos m.off b
            match b, bad, s with
            | b, some err, s =>
              -- the bytes before the failing codeword are written (R324)
              let part := match err with
                | .mem .uncorr _ => b
                | _ => []
              let (ok, s) := if part = [] then (true, s) else s.spanWrite m x m.off dst part dva
              let s := if ok then
                  s.failAccess r pos err 1 ak ai (match err with | .host _ => 0 | _ => m.off + part.length) else s
              s.freeEngine e
            | b, none, s =>
              match s.spanWrite m x m.off dst b dva with
              | (false, s) => s.freeEngine e
              | (true, s) => (s.setMover (go { m with used := used, hostW := hostW })).countMoved e n
    | (.error o, s) => (s.failXlate r pos o dva 2 ak ai m.off).freeEngine e

def effCopySpan (e : Nat) (s : State) : State :=
  let s := s.freeEngine e
  match s.movers.find? fun m => m.engine == e with
  | none => s
  | some m =>
    match s.entry? m.ring m.pos with
    | none => s
    | some y =>
      let x := y.xfer
      -- the translation that a span waits for holds it (R295); the last data of a message is sent on when all of it is there
      if !s.engineWorks e || !y.active || s.tagHeld m.ring m.pos then s
      else if y.fwd != [] && (decide (m.off < x.size) || y.remoteOpen == 0) then s.forwardAll m y
      else if y.remoteOpen ≠ 0 then s
      else
        let s := if x.size ≤ m.off then s else s.moveSpan m x
        match s.movers.find? (fun m => m.engine == e), s.entry? m.ring m.pos with
        | some m, some y => if x.size ≤ m.off && y.active && y.remoteOpen == 0 && y.fwd == [] then s.endXfer m y x else s
        | _, _ => s
def execCopySpan (e : Nat) (s : State) : Out := runR (.copySpan e) s (effCopySpan e s)

/-! ## Check units (R329 to R334) -/

/-- The result entry of a message joins those that its unit writes (R334). -/
def State.chkEntry (s : State) (u : Nat) (b : Bytes) : State :=
  let x := s.chkUnit u
  if x.log2 = 0 then s
  else (s.setChk u { x with todo := x.todo ++ [(x.loc.va + 32 * (x.count % 2 ^ x.log2), b)] }).chkPump u (x.todo.length + 1)

/-- The message that a unit judges next: the oldest of its ring, once its command has ended, or of a flow the first to have ended. -/
def State.nextMsg (s : State) (u : Nat) : Option ChkMsg :=
  let l := (s.chkUnit u).msgs
  if s.f .CHK_BIND_KIND u = 2 then l.find? fun m => m.ended.isSome
  else match l with
    | [] => none
    | m :: _ =>
      if m.ended.isSome then some m
      else match s.entry? m.key.1 m.key.2 with
        | none => some { m with ended := some true }
        | some e => e.res.map fun x => { m with ended := some (x.status != stDONE && x.status != stREPLAYED) }

/-- The judging of a message by a bound unit (R331, R334). -/
def State.judgeMsg (s : State) (u : Nat) (m : ChkMsg) : State :=
  let x := s.chkUnit u
  let msg := m.bytes
  let n := msg.length
  let short := m.seen && (m.ended == some true || decide (n < 16))
  let judged := m.seen && !short
  let text := msg.take (n - 8)
  let crc := if s.fb .CHK_BIND_CRC64 u then crc64 text else crc32c text
  let bad := judged && fldB msg (n - 8) 8 != crc
  let ctr := fldB msg (n - 16) 8
  let want := if x.first then x.start else s.f .CHK_LAST_LAST u + 1
  let free := x.first && x.anyStart
  let skip := judged && !free && decide (want < ctr)
  let rep := judged && !free && decide (ctr < want)
  let flags := b2n bad + 2 * b2n skip + 4 * b2n rep + 8 * b2n short + 16 * b2n !m.seen
  let source := if s.f .CHK_BIND_KIND u = 2 then m.key.1 else m.key.2
  let entry := leBytes 8 (if judged then ctr else 0) ++ leBytes 8 (if judged then crc else 0) ++ leBytes 8 source ++
    leBytes 8 (flags + (x.count + 1) % 2 ^ 32 * 2 ^ 32)
  let s := s.chkEntry u entry
  let s := s.setChk u { s.chkUnit u with count := x.count + 1, first := x.first && !judged }
  let s := s.incF .CHK_MSGS_MESSAGES u
  let s := s.incF .CHK_MSGS_CRC_BAD u (b2n bad)
  let s := s.incF .CHK_MSGS_SHORT u (b2n short)
  let s := if skip then s.satF .CHK_SEQ_SKIPS u (ctr - want) else s
  let s := s.incF .CHK_SEQ_REPEATS u (b2n rep)
  let s := s.incF .CHK_SEQ_NOT_SEEN u (b2n !m.seen)
  let s := if judged then (s.setF .CHK_LAST_LAST u ctr).setF .CHK_CRC_CRC u crc else s
  s.evHub (u / 8) 0x29 (u % 8) 0 (b2n (bad || skip || rep))

/-- Bound unit `v` of hub `h` judges its next message, which is the one of stream kind `k` that `key` and `tag` name; a unit that stops is
unbound after its last. -/
def effCheckMessage (h v k key tag : Nat) (s : State) : State :=
  let u := 8 * h + v
  if !s.fb .CHK_BIND_BOUND u || !s.hubWorks h then s
  else
    let s := match s.nextMsg u with
      | none => s
      | some m =>
        let l := (s.chkUnit u).msgs
        if s.f .CHK_BIND_KIND u ≠ k || m.key ≠ (key, tag) then s
        else (s.setChk u { s.chkUnit u with msgs := if k = 2 then l.erase m else l.drop 1 }).judgeMsg u m
    if (s.chkUnit u).stopping && (s.chkUnit u).quiet then s.unbind u else s
def execCheckMessage (h v k key tag : Nat) (s : State) : Out := runR (.checkMessage h v k key tag) s (effCheckMessage h v k key tag s)

/-- The unit is bound by this ring's partition, or from a module ring as this one is. -/
def State.chkMine (s : State) (r u : Nat) : Bool :=
  s.fb .CHK_BIND_MODULE u == s.ringModule r && (s.ringModule r || s.f .CHK_BIND_PART u == s.ringPart r)

def effCheckBind (r pos : Nat) (s : State) : State :=
  s.startCmd r pos 0x28 fun s e =>
    let u := e.body 24 1 % 32
    let unbind := bitOf (e.body 25 1) 7
    let kind := e.body 25 1 % 4
    let source := e.body 16 2
    let node := e.body 20 4
    let log2 := e.body 27 1
    let va := e.body 0 8
    let reserved := decide (32 ≤ e.body 24 1) || bitsOf (e.body 25 1) 2 5 != 0 || kind == 3 || !e.zero 18 2 ||
      (if kind == 2 then bitsOf node 20 11 != 0 else node != 0) || decide (2 ≤ e.body 26 1) || decide (2 ≤ e.body 28 1) ||
      !e.zero 29 35 || (log2 != 0 && (decide (log2 < 4) || decide (16 < log2))) || (log2 == 0 && va != 0)
    if unbind then
      if decide (32 ≤ e.body 24 1) || e.body 25 1 != 0x80 || !e.zero 0 24 || !e.zero 26 38 then s.endWith r pos stPARAM
      else if !s.fb .CHK_BIND_BOUND u then s.endWith r pos stPARAM
      else if !s.chkMine r u then s.endWith r pos stRIGHTS
      else (if (s.chkUnit u).quiet then s.unbind u else s.setChk u { s.chkUnit u with stopping := true }).doneWith r pos
    else if reserved then s.endWith r pos stPARAM
    else if s.fb .CHK_BIND_BOUND u && !s.chkMine r u then s.endWith r pos stRIGHTS
    else if kind != 2 && (decide (256 ≤ source) ||
        s.ringModule source != s.ringModule r || (!s.ringModule r && s.ringPart source != s.ringPart r)) then s.endWith r pos stRIGHTS
    else if s.fb .CHK_BIND_BOUND u || (kind == 2 && (s.ringModule r || decide (256 ≤ source))) || va % 64 != 0 ||
        !s.hubPresent (u / 8) then s.endWith r pos stPARAM
    else
      let held : Held := ⟨s.ringPart r, s.ringAsid r, va, if s.ringModule r then some (.host (s.ringPort r) va) else none⟩
      let s := s.setChk u { loc := held, log2 := log2, start := e.body 8 8, anyStart := bitOf (e.body 28 1) 0, node := node % 2 ^ 20,
                            anyNode := bitOf node 31, asid := s.ringAsid r, since := s.nextKernel
                            skip := if kind != 2 then [] else (s.xl.midMsg.filter fun y => y.1 == 256 * s.ringPart r + source).map (·.2) }
      let s := ((s.resetReg .CHK_BIND u).resetReg .CHK_MSGS u).resetReg .CHK_SEQ u
      let s := (((s.setF .CHK_BIND_BOUND u 1).setF .CHK_BIND_KIND u kind).setF .CHK_BIND_CRC64 u (e.body 26 1)).setF .CHK_BIND_SOURCE u source
      let s := if s.ringModule r then s.setF .CHK_BIND_MODULE u 1 else s.setF .CHK_BIND_PART u (s.ringPart r)
      s.doneWith r pos
def execCheckBind (r pos : Nat) (s : State) : Out := runR (.checkBind r pos) s (effCheckBind r pos s)

end Sys2Proof.Machine
end

