-- ==== Sys2Proof/Machine/Corox.lean ====
section
/-!
DEFINITION. Corox modules (R336 to R350): flits with acknowledgement and replay, lane flags, windows, failures; and the guest sites (R351 to
R359) with FIREWALL_SET, GUEST_ADMIT and the firewall.
-/

namespace Sys2Proof.Machine

open Sys2Proof

/-! ## Guest packet fields (R352) -/

/-- Bytes that the packet accesses, and the right it needs (R292). -/
def GPacket.span (p : GPacket) : Nat :=
  match p.op with
  | 0x40 => 16 * (p.info % 16 + 1)
  | 0x41 => if p.masked then 16 * (p.len - 1) else 16 * p.len
  | _ => if bitOf p.info 4 then 8 else 4
def GPacket.need (p : GPacket) : Nat := if p.op = 0x40 then 1 else if p.op = 0x41 then 2 else 4

/-- The packet is one of Table 13-6, from its site to its hub, and keeps the limits of R352. -/
def GPacket.ok (k : Nat) (p : GPacket) : Bool :=
  p.dest == 18 + k && p.src == 20 + k && !p.transit && decide (p.addr % 256 + p.span ≤ 256) &&
    (match p.op with
     | 0x40 => p.vc == 0 && p.len == 0 && decide (p.info < 16) && !p.masked
     | 0x41 => p.vc == 3 && p.info == 0 &&
         (if p.masked then decide (2 ≤ p.len) && decide (p.len ≤ 9) else decide (1 ≤ p.len) && decide (p.len ≤ 16))
     | 0x42 => p.vc == 0 && p.len == 1 && decide (p.info < 32) && decide (p.info % 16 < 10) && !p.masked
     | _ => false)

/-! ## Lanes and widths (R346) -/

def crxLane (e lane : Nat) : Nat := 68 * e + lane

/-- Lanes received at an end that do not work: replaced or taken out. -/
def State.deadLanes (s : State) (e : Nat) : Nat :=
  ((List.range 68).filter fun l => s.fb .CRX_LANE_SPARED (crxLane e l) || s.fb .CRX_LANE_FAILED (crxLane e l)).length

/-- The width code that the working lanes of an end's receive direction allow (R346); a UCIe link does not narrow (R360). -/
def State.rxWidth (s : State) (e : Nat) : Nat :=
  let n := s.deadLanes e
  if s.f .CRX_STATUS_LINK e ≠ 0 || n ≤ 4 then 3 else if n ≤ 20 then 2 else if n ≤ 36 then 1 else 0

/-- The width code of an end's transmit direction: what the receiving lanes of the other end allow, at a guest those that it trained with. -/
def State.txWidth (s : State) (e : Nat) : Nat :=
  if s.f .CRX_STATUS_LINK e ≠ 0 then 3 else
    match endGuest e with
    | some k => (s.guest k).width
    | none => (crxPeer e).elim 0 s.rxWidth

/-- STATE and both widths of a module's ends; a window keeps the widths it began with until it ends. -/
def State.setModule (s : State) (e st : Nat) : State :=
  (crxEnds e).foldl (fun s x =>
    let s := s.setF .CRX_STATUS_STATE x st
    if st = 3 then s
    else
      let rx := if st = 2 then s.rxWidth x else 0
      let tx := if st = 2 then s.txWidth x else 0
      (s.setF .CRX_STATUS_WIDTH_RX x rx).setF .CRX_STATUS_WIDTH_TX x tx) s

/-! ## Firewall rules, and admitted requests performed (R353 to R356) -/

/-- Key of rule i of a site. -/
def ruleIx (k i : Nat) : Nat := 16 * k + i
def State.ruleBase (s : State) (k i : Nat) : Nat := s.f .CRX_GRULE_BASE_BASE (ruleIx k i) * 65536
def State.ruleSize (s : State) (k i : Nat) : Nat := s.f .CRX_GRULE_SIZE_SIZE (ruleIx k i) * 65536
def State.ruleValid (s : State) (k i : Nat) : Bool := s.fb .CRX_GRULE_SIZE_VALID (ruleIx k i)

def State.clearRule (s : State) (k i : Nat) : State := s.resetRegs [.CRX_GRULE_BASE, .CRX_GRULE_SIZE] [ruleIx k i]

/-- Every rule that names a partition cleared (R356). -/
def State.clearRulesOf (s : State) (p : Nat) : State :=
  (List.range 32).foldl (fun s j =>
    if s.ruleValid (j / 16) (j % 16) && s.f .CRX_GRULE_SIZE_PART j == p then s.clearRule (j / 16) (j % 16) else s) s

/-! ## Flits to a guest (R338, R342, R343) -/

/-- An event of the module at an end, for the counters of its die or hub (Table 18-1). -/
def State.evEnd (s : State) (e src k : Nat) : State :=
  if e < 144 then s.evDie (e / 9) src (e % 9) k else if e < 176 then s.evHub ((e - 144) / 8) src ((e - 144) % 8) 0 k else s

/-- Receive buffers of an end, in units for each VC 0 to 4 (Table 13-4). -/
def crxBuffers : List Nat := [64, 64, 128, 512, 32]

/-- The end has room in its replay buffer and credit for the units of a new data flit on each VC (R342, R343). -/
def CrxEnd.maySend (x : CrxEnd) (units : List Nat) : Bool :=
  decide (x.replay.length < 128) && units.all fun v => decide (units.count v ≤ x.credit.getD v 0)

/-- Credit spent on units, and credit gained back, held to the buffers. -/
def spendUnits (c : List Nat) (units : List Nat) : List Nat := units.foldl (fun c v => c.set v (c.getD v 0 - 1)) c
def gainUnits (c : List Nat) (l : List (Nat × Nat)) : List Nat :=
  l.foldl (fun c (v, n) => c.set v (min (c.getD v 0 + n) (crxBuffers.getD v 0))) c

/-- Units that wait for a guest as the payload of its next data flit: as many, up to 15, as credit and the replay buffer allow. -/
def State.guestPayload (s : State) (k : Nat) : List Bytes :=
  let x := s.crxE (guestEnd k)
  let q := (s.guest k).queue
  let fit := ((List.range 16).filter fun n => decide (n ≤ q.length) && x.maySend (unitsOf x.txPart ((q.take n).flatten)).1).foldl max 0
  q.take fit

/-- Credit that a hub returns to its guest in one flit: the units of two VCs that it has freed, unless RATE has it withheld (R358). -/
def State.guestReturns (s : State) (k : Nat) : List (Nat × Nat) :=
  if s.eng < (s.guest k).creditAt then []
  else (((s.crxE (guestEnd k)).held.zipIdx.filter fun x => x.1 != 0).map fun x => (x.2, x.1)).take 2

/-- The hub sends its guest a flit: the next data flit while packets wait and may go, else an idle flit; both carry ACK, NAK and the credit it
returns. -/
def State.sendGuestFlit (s : State) (k : Nat) : State :=
  let e := guestEnd k
  let x := s.crxE e
  let g := s.guest k
  let l := s.guestPayload k
  let ret := s.guestReturns k
  let units := unitsOf x.txPart l.flatten
  let seq := if l = [] then x.txSeq else (x.txSeq + 1) % 4096
  let b := crxFlit seq x.rxSeq x.nakOut (if l = [] then 1 else 0) (ret.getD 0 (0, 0)) (ret.getD 1 (0, 0)) l.flatten
  let y := { x with held := (List.range 5).map fun v => if ret.any (fun r => r.1 == v) then 0 else x.held.getD v 0 }
  let y := if l = [] then y else
    { y with txSeq := seq, replay := y.replay ++ [(seq, sliceB l.flatten 0 240)], txPart := units.2, credit := spendUnits y.credit units.1 }
  let far := s.crxE (176 + k)
  let s := ((s.setGuest k { g with queue := g.queue.drop l.length, flits := b :: g.flits }).setCrxE e y).setCrxE (176 + k)
    { far with credit := gainUnits far.credit ret }
  if l = [] then s else s.evEnd e 0x13 1

/-- Flits go to a guest while its link is UP and packets may go or credit is to be returned. -/
def State.pumpGuest (s : State) (k : Nat) : Nat → State
  | 0 => s
  | n + 1 =>
    if s.f .CRX_STATUS_STATE (guestEnd k) != 2 || (s.guestPayload k == [] && s.guestReturns k == []) then s
    else (s.sendGuestFlit k).pumpGuest k n

/-- A packet for a guest: its units wait for flits. -/
def State.sendGuest (s : State) (k : Nat) (b : Bytes) : State :=
  let g := s.guest k
  (s.setGuest k { g with out := b :: g.out
                         queue := g.queue ++ (List.range (b.length / 16)).map fun i => sliceB b (16 * i) 16 }).pumpGuest k 64

/-- Bytes moved since ADMIT count against RATE: credit is withheld until the rate has caught up with them (R358). -/
def State.meterGuest (s : State) (k n : Nat) : State :=
  let g := s.guest k
  let rate := s.f .CRX_GSTAT_RATE k
  s.setGuest k { g with moved := g.moved + n, creditAt := if rate = 0 then 0 else g.since + (g.moved + n + rate - 1) / rate }

/-- A denial (Table 13-7): G_DENY on RSP. -/
def State.denyGuest (s : State) (k : Nat) (p : GPacket) (reason : Nat) : State :=
  let s := ((s.incF .CRX_GDENY_DENIED k).setF .CRX_GDENY_LAST_REASON k reason).setF .CRX_GLAST_ADDR k p.addr
  s.sendGuest k (guestReply k 2 0x4A p.tag reason [])

/-- Performs an admitted request for partition q. -/
def State.performGuest (s : State) (k q : Nat) (p : GPacket) : State :=
  let fail := fun (s : State) (e : MErr) (a : Nat) =>
    match e with
    | .uncorr =>
      (s.postEvent q { addr := a, time := s.now, cause := 0x10, agentKind := 7, agentIx := 2 + k, kind := 2, access := p.need }).denyGuest k p 6
    | .closed => s.denyGuest k p 5
    | _ => s.denyGuest k p 4
  match p.op with
  | 0x40 =>
    match s.readPhys (some q) .bulk p.addr p.span with
    | (.ok b, s) => (s.meterGuest k p.span).sendGuest k (guestReply k 3 0x48 p.tag 0 b)
    | (.error (e, a), s) => fail s e a
  | 0x41 =>
    let d := if p.masked then p.data.drop 16 else p.data
    let m := if p.masked then leNat (p.data.take 16) else 2 ^ d.length - 1
    match s.writeMasked (some q) .bulk false p.addr d m with
    | (none, s) => s.sendGuest k (guestReply k 2 0x49 p.tag 0 [])
    | (some (e, a), s) => fail s e a
  | _ =>
    match s.atomPhys (some q) p.addr p.span (atomOfCode (p.info % 16)) (fldB p.data 0 8) (fldB p.data 8 8) with
    | (.ok v, s) => s.sendGuest k (guestReply k 3 0x49 p.tag 0 (leBytes 16 v))
    | (.error (e, a), s) => fail s e a

/-- Two requests reach a 64-byte granule in common. -/
def GPacket.meets (x y : GPacket) : Bool :=
  decide (x.addr / 64 ≤ (y.addr + y.span - 1) / 64) && decide (y.addr / 64 ≤ (x.addr + x.span - 1) / 64)

/-- The admitted requests of a site that are not yet performed, which OUTSTANDING counts. -/
def State.setWaiting (s : State) (k : Nat) (l : List (Nat × GPacket)) : State :=
  (s.setGuest k { s.guest k with waiting := l }).setF .CRX_GSTAT_OUTSTANDING k l.length

/-- Admitted requests are performed: all of them, or those that free values choose, those to one granule in arrival order (R353). -/
def State.serveGuest (s : State) (k : Nat) (all : Bool) : State :=
  (s.guest k).waiting.foldl (fun s x =>
    let (v, s) := s.takeFree
    let l := (s.guest k).waiting
    if (all || bitOf v 0) && !(l.takeWhile (· != x)).any (fun (y : Nat × GPacket) => y.2.meets x.2) then
      (s.setWaiting k (l.erase x)).performGuest k x.1 x.2
    else s) s

/-- The guest's link is down: the site is DOWN and its module trains (R359). Requests that have arrived whole are performed without a response
(R353), but a hub that stops loses them; what waits for flits, and part of a packet, is gone. -/
def State.guestDown (s : State) (k : Nat) : State :=
  if s.f .CRX_GSTAT_STATE k = 0 then s
  else
    let e := guestEnd k
    let sent := (s.guest k).out
    let s := if s.hubWorks (2 + k) then s.serveGuest k true else s.setWaiting k []
    let s := (s.setF .CRX_GSTAT_STATE k 1).setGuest k { s.guest k with lastTry := s.eng, out := sent, queue := [], part := [], lost := [] }
    if s.f .CRX_STATUS_STATE e = 4 || s.f .CRX_STATUS_STATE e = 5 then s else s.setModule e 1

/-- The half of a UCIe Advanced Package module that a lane belongs to: 32 data lanes with two redundant ones (R360; PRESUMED,
notes/assumptions/59). -/
def ucieHalf (lane : Nat) : Nat := if lane < 64 then lane / 32 else (lane - 64) / 2

/-- A UCIe link loses a lane: beyond the two that the repair of its half covers, the link goes down (R360). -/
def State.loseLane (s : State) (k lane : Nat) : State :=
  let g := s.guest k
  let lost := if g.lost.contains lane then g.lost else g.lost ++ [lane]
  let s := s.setGuest k { g with lost := lost }
  if 2 < (lost.filter fun l => ucieHalf l == ucieHalf lane).length then s.guestDown k else s

/-! ## Pending windows (R347) -/

/-- A window of a module becomes pending. -/
def State.pendCrx (s : State) (e : Nat) : State :=
  (crxEnds e).foldl (fun s x =>
    if s.fb .CRX_STATUS_PENDING x then s else
      let c := s.sched (schedKey 16 (s.f .CRX_CTRL_SCHEDULE x))
      (s.setF .CRX_STATUS_PENDING x 1).setCrxE x { s.crxE x with pendAt := s.eng, nextDeal := c.after s.now }) s

/-- A module that windows may run on: trained once and not failed. -/
def State.crxWindowed (s : State) (e : Nat) : Bool := [2, 3, 4].contains (s.f .CRX_STATUS_STATE e)

/-- One of the module's ends has DISABLE set. -/
def State.crxWantsOff (s : State) (e : Nat) : Bool := (crxEnds e).any fun x => s.fb .CRX_CTRL_DISABLE x

/-- Why a window is pending: a flagged lane of either direction, RETRAIN, a forced window, or DISABLE that differs from the module's state. -/
def State.crxReason (s : State) (e : Nat) : Bool :=
  (crxEnds e).any (fun x => (List.range 68).any (fun l => s.fb .CRX_LANE_FLAGGED (crxLane x l)) || (s.crxE x).retrain || (s.crxE x).forced) ||
    s.crxWantsOff e != (s.f .CRX_STATUS_STATE e == 4)

/-- PENDING follows the reasons for a window. -/
def State.settleCrx (s : State) (e : Nat) : State :=
  if s.crxWindowed e && s.crxReason e then s.pendCrx e
  else (crxEnds e).foldl (fun s x => s.setF .CRX_STATUS_PENDING x 0) s

/-- A receive lane is flagged (R347). A UCIe link repairs its lanes by its own specification (R360). -/
def State.flagCrx (s : State) (e lane : Nat) : State :=
  if s.f .CRX_STATUS_LINK e ≠ 0 then ((endGuest e).map fun k => s.loseLane k lane).getD s
  else if s.fb .CRX_LANE_SPARED (crxLane e lane) || s.fb .CRX_LANE_FAILED (crxLane e lane) then s
  else (s.setF .CRX_LANE_FLAGGED (crxLane e lane) 1).settleCrx e

/-- Flagged lanes of an end: replaced by a free spare, else taken out. -/
def State.spareCrx (s : State) (e : Nat) : State :=
  (List.range 68).foldl (fun s l =>
    if !s.fb .CRX_LANE_FLAGGED (crxLane e l) then s
    else
      let s := s.setF .CRX_LANE_FLAGGED (crxLane e l) 0
      let free := (List.range 4).find? fun i =>
        64 + i != l && !s.fb .CRX_LANE_SPARE_IN_USE (crxLane e (64 + i)) && !s.fb .CRX_LANE_FLAGGED (crxLane e (64 + i)) &&
          !s.fb .CRX_LANE_FAILED (crxLane e (64 + i)) && !s.fb .CRX_LANE_SPARED (crxLane e (64 + i))
      -- the data lane that a flagged spare carries is carried on by the next spare
      let carried := if l < 64 then some l else
        (List.range 64).find? fun d => s.fb .CRX_LANE_SPARED (crxLane e d) && 64 + s.f .CRX_LANE_SPARE (crxLane e d) == l
      let s := s.setF .CRX_LANE_SPARE_IN_USE (crxLane e l) 0
      match carried, free with
      | some d, some i =>
        let s := ((s.setF .CRX_LANE_SPARED (crxLane e d) 1).setF .CRX_LANE_SPARE (crxLane e d) i).setF .CRX_LANE_SPARE_IN_USE
          (crxLane e (64 + i)) 1
        if l < 64 then s.incF .CRX_STATUS_SPARES_RX e else s.setF .CRX_LANE_FAILED (crxLane e l) 1
      | some d, none =>
        if l < 64 then s.setF .CRX_LANE_FAILED (crxLane e l) 1
        else ((s.setF .CRX_LANE_FAILED (crxLane e l) 1).setF .CRX_LANE_SPARED (crxLane e d) 0).setF .CRX_LANE_FAILED (crxLane e d) 1
          |>.decF .CRX_STATUS_SPARES_RX e
      | none, _ => s.setF .CRX_LANE_FAILED (crxLane e l) 1) s

/-- The state that a module takes at the end of a window: DISABLED when either end wants it or a direction has no width left, else UP. -/
def State.crxGoal (s : State) (e : Nat) : Nat :=
  if s.crxWantsOff e || (crxEnds e).any fun x => s.rxWidth x == 0 || s.txWidth x == 0 then 4 else 2

/-- A window of a module starts (R347 steps 1 and 2): senders wait, flagged lanes are replaced or taken out. -/
def State.startCrxWindow (s : State) (e : Nat) : State :=
  let from_ := s.f .CRX_STATUS_STATE e
  let s := ((crxEnds e).foldl (fun s x => s.spareCrx x) s).setModule e 3
  (crxEnds e).foldl (fun s x =>
    (s.setF .CRX_STATUS_PENDING x 0).setCrxE x { s.crxE x with forced := false, retrain := false, goal := s.crxGoal e, prior := from_ }) s

def effCoroxWindow (e dt : Nat) (s : State) : State :=
  let s := s.elapse dt
  let x := s.crxE e
  let c := s.sched (schedKey 16 (s.f .CRX_CTRL_SCHEDULE e))
  let due := x.forced ||
    (if s.fb .CRX_CTRL_WIN_SCHED e && c.defined then c.due s.now x.nextDeal else decide (x.pendAt + 1000000 ≤ s.eng))
  let runs := (s.f .CRX_STATUS_STATE e == 2 || s.f .CRX_STATUS_STATE e == 4) && (s.crxWinTime e).all s.inOrder
  if runs && s.fb .CRX_STATUS_PENDING e && due && !s.crxBlocked e && (crxEnds e).all s.endPartWorks then s.startCrxWindow e else s
def execCoroxWindow (e dt : Nat) (s : State) : Out := run (.coroxWindow e dt) s (effCoroxWindow e dt s)

/-- An end has its replay buffer to replay, oldest flit first, before any new flit (R343, R347). -/
def State.replayEnd (s : State) (e : Nat) : State :=
  let x := s.crxE e
  let s := s.setCrxE e { x with resend := x.replay.map (·.1) }
  { s with out := { s.out with crxReplay := (x.replay.map fun q => (e, q.1)).reverse ++ s.out.crxReplay } }

/-- A hub replays its buffer to its guest at once: each flit with the present ACK and NAK. -/
def State.replayGuest (s : State) (k : Nat) : State :=
  let e := guestEnd k
  let x := s.crxE e
  let l := x.replay.map fun q => crxFlit q.1 x.rxSeq x.nakOut 0 (0, 0) (0, 0) q.2
  ((s.setCrxE e { x with resend := [] }).setGuest k { s.guest k with flits := l.reverse ++ (s.guest k).flits }).pumpGuest k 64

/-- The replay of an end, that of a guest's hub among them. -/
def State.replayFrom (s : State) (e : Nat) : State :=
  match endGuest e with
  | some k => (s.replayEnd e).replayGuest k
  | none => s.replayEnd e

/-- The delay of an end's route is measured, at training and at a window (R341); the time distribution compensates it, so that it changes no
time that a die reads. What is measured is a free value. -/
def State.measureCrx (s : State) (e : Nat) : State :=
  let (v, s) := s.takeFree
  s.setCrxE e { s.crxE e with delay := v }

/-- The undelivered flits of an end, after the last that the other end has received. -/
def State.undelivered (s : State) (e : Nat) : List (Nat × Bytes) :=
  let rx := (farEnd e).elim 0 fun y => (s.crxE y).rxSeq
  let l := (s.crxE e).replay
  let seqs := l.map (·.1)
  if seqs.contains rx then l.drop (seqs.idxOf rx + 1) else l

/-- An end of a module that is disabled (R349): the ends have exchanged the SEQ last delivered, so that its own SEQ goes on from there; the
undelivered packets of its replay buffer have gone by other routes, ahead of later ones; its buffers, and those of the other end, are empty. -/
def State.disableEnd (s : State) (e : Nat) : State :=
  let moved := s.undelivered e
  let rx := (farEnd e).elim 0 fun y => (s.crxE y).rxSeq
  let x := s.crxE e
  let s := s.setCrxE e { x with
    txSeq := rx, replay := [], resend := [], discarded := [], nakOut := false, nakRun := 0, stuck := [], credit := crxBuffers
    held := [0, 0, 0, 0, 0], txPart := (0, 0), rxPart := (0, 0) }
  { s with out := { s.out with crxMoved := (moved.map fun q => (e, q.1, q.2)).reverse ++ s.out.crxMoved } }

/-- An end after a window that leaves its module UP: lanes in their new places, so that the run of flits begins again (R337), the delay
measured, the replay buffer replayed. -/
def State.resumeEnd (s : State) (e : Nat) : State :=
  (((s.setCrxE e { s.crxE e with lastFlit := s.eng, nakRun := 0, phase := 0, stuck := [] }).measureCrx e).replayFrom e)

/-- A module leaves a window in state `st`: UP, DISABLED or FAILED. A module with no lane for the exchange of R349 is FAILED, and the flits of
its replay buffers are lost (R345); a guest whose module does not come up is DOWN (R359). -/
def State.endWindow (s : State) (e st : Nat) : State :=
  let ends := crxEnds e ++ ((endGuest e).map (176 + ·)).toList
  let s := s.setModule e st
  let s := if st = 2 then (crxEnds e).foldl (fun s x => s.resumeEnd x) s
    else
      let s := if st = 5 then ends.foldl (fun s x => s.setCrxE x { s.crxE x with replay := [] }) s else s
      ends.foldl (fun s x => s.disableEnd x) s
  if st = 2 then s else ((endGuest e).map fun k => s.guestDown k).getD s

/-- A window ends (R347 steps 3 to 5): each direction takes its width or the module goes down (R349); the replay buffers are replayed, the
windows counted, the lane counters cleared, and routes and distances follow (R350). -/
def effCoroxWindowEnd (e dt : Nat) (s : State) : State :=
  let s := s.elapse dt
  if s.f .CRX_STATUS_STATE e ≠ 3 then s
  else
    let widths := fun (s : State) => (s.f .CRX_STATUS_WIDTH_TX e, s.f .CRX_STATUS_WIDTH_RX e)
    let was := (widths s, (s.crxE e).prior)
    let goal := (s.crxE e).goal
    let dead := (crxEnds e).any fun x => s.deadLanes x == 68
    let s := s.endWindow e (if goal = 4 && dead then 5 else goal)
    let s := (crxEnds e).foldl (fun s x =>
      (List.range 68).foldl (fun s l => s.setF .CRX_LANE_ERRORS (crxLane x l) 0) (s.incF .CRX_STATUS_WINDOWS x)) s
    let s := s.settleCrx e
    if was = (widths s, s.f .CRX_STATUS_STATE e) then s else s.updateRoutes.keepOrder

/-! ## Flits (R338, R342 to R344) -/

/-- Units of a VC that a flit returns as credit. -/
def CFlit.returns (f : CFlit) (v : Nat) : Nat := ((f.credits.filter fun (c : Nat × Nat) => c.1 == v).map (·.2)).sum

/-- The units that an end has delivered and not yet returned; at a guest, those that its hub has spent. -/
def State.crxHeld (s : State) (e : Nat) : List Nat :=
  if 176 ≤ e then (List.range 5).map fun v => crxBuffers.getD v 0 - (s.crxE (guestEnd (e - 176))).credit.getD v 0 else (s.crxE e).held

/-- A flit returns credit only for units that its end has freed (R342). -/
def State.mayReturn (s : State) (e : Nat) (f : CFlit) : Bool := (List.range 8).all fun v => decide (f.returns v ≤ (s.crxHeld e).getD v 0)

/-- ACK and NAK that a flit of an end carries: its present ones. What a guest has received is its own affair. -/
def State.saysTruth (s : State) (e : Nat) (f : CFlit) : Bool := decide (176 ≤ e) || (f.ack == (s.crxE e).rxSeq && f.nak == (s.crxE e).nakOut)

/-- The end sends a flit, when R338, R342 and R343 let it: the next flit that a NAK or a window has it replay, an idle flit or window marker with
the last SEQ, or, when nothing is to be replayed, a new data flit with packet data, which takes the next SEQ, a place in the replay buffer and
credit. Every flit carries its ACK and NAK; an idle payload is zero. -/
def State.sentBy (s : State) (e : Nat) (f : CFlit) : Option State :=
  let x := s.crxE e
  let units := unitsOf x.txPart f.payload
  if !f.good || f.rsv != 0 || !s.mayReturn e f || !s.saysTruth e f then none
  else if f.typ = 0 && x.resend.head? == some f.seq && x.replay.contains (f.seq, f.payload) then
    some (s.setCrxE e { x with resend := x.resend.drop 1 })
  else if f.typ = 0 && x.resend == [] && f.seq == (x.txSeq + 1) % 4096 && units.1 != [] && x.maySend units.1 then
    some ((s.setCrxE e { x with
      txSeq := f.seq, replay := x.replay ++ [(f.seq, f.payload)], txPart := units.2, credit := spendUnits x.credit units.1 }).evEnd e 0x13 1)
  else if (f.typ = 1 || f.typ = 2) && f.seq == x.txSeq && (f.typ != 1 || f.payload.all (· == 0)) then some s
  else none

/-- Control of a good flit: the ACK frees the replay buffer, a NAK has it replayed, and credits return from the buffers of the other end. -/
def State.takeControl (s : State) (e : Nat) (f : CFlit) : State :=
  let x := s.crxE e
  let seqs := x.replay.map (·.1)
  let freed := if seqs.contains f.ack then seqs.idxOf f.ack + 1 else 0
  let x := { x with
    replay := x.replay.drop freed
    resend := x.resend.filter fun q => !(seqs.take freed).contains q
    credit := gainUnits x.credit f.credits
    nakRun := if f.nak then (if x.nakSeq = f.ack then x.nakRun + 1 else 1) else 0
    nakSeq := if f.nak then f.ack else x.nakSeq }
  let s := s.setCrxE e x
  let s := match crxPeer e with
    | some y => s.setCrxE y { s.crxE y with held := (List.range 5).map fun v => (s.crxE y).held.getD v 0 - f.returns v }
    | none => s
  if f.nak && x.replay != [] then ((s.replayFrom e).incF .CRX_ERR_REPLAYS e).evEnd e 0x14 1 else s

/-- The next flit of an end carries ACK, and NAK while the expected SEQ is missing; that of a guest's hub goes at once. -/
def State.sendControl (s : State) (e : Nat) : State :=
  match endGuest e with
  | some k => s.sendGuestFlit k
  | none => { s with out := { s.out with crx := (e, (s.crxE e).rxSeq, (s.crxE e).nakOut) :: s.out.crx } }

/-- A replayed flit arrives good: each lane that differed gains an error, and is flagged at LANE_LIMIT (R344, R347). -/
def State.noteLanes (s : State) (e : Nat) (lanes : List Nat) : State :=
  (lanes.filter (· < 68)).foldl (fun s l =>
    let s := s.satF .CRX_LANE_ERRORS (crxLane e l)
    if s.f .CRX_CTRL_LANE_LIMIT e ≤ s.f .CRX_LANE_ERRORS (crxLane e l) then s.flagCrx e l else s) s

/-- Lanes that an end receives on, in ascending order: as many as its width of those that work and are not idle spares. -/
def State.activeLanes (s : State) (e : Nat) : List Nat :=
  ((List.range 68).filter fun l => !s.fb .CRX_LANE_FAILED (crxLane e l) && !s.fb .CRX_LANE_SPARED (crxLane e l) &&
    (decide (l < 64) || s.fb .CRX_LANE_SPARE_IN_USE (crxLane e l))).take (16 * (s.f .CRX_STATUS_WIDTH_RX e + 1))

/-- Lanes that carried a bit in which a flit that was discarded differs from its replay (R344). -/
def differingLanes (old : DFlit) (b : Bytes) : List Nat :=
  ((diffBits old.bytes b).map fun i => stripedLane old.lanes old.phase i).eraseDups

/-- The SEQ under which a bad flit is kept: its own, when it is one of the 128 that may be on their way, else the one expected. -/
def badSeq (next q : Nat) : Nat := if (q + 4096 - next) % 4096 < 128 then q else next

/-- A data flit is discarded, at its place in the run of flits: its bytes are kept for comparison, and NAK is sent until the expected SEQ
arrives good. -/
def State.discardFlit (s : State) (e q ph : Nat) (b : Bytes) : State :=
  let x := s.crxE e
  (s.setCrxE e { x with nakOut := true, discarded := x.discarded ++ [⟨q, ph, s.activeLanes e, b⟩] }).sendControl e

/-- A data flit in sequence is delivered and acknowledged, its units filling the receive buffers; its lanes are judged by each copy of it that
was discarded before. -/
def State.deliverFlit (s : State) (e q : Nat) (b : Bytes) : State :=
  let x := s.crxE e
  let units := unitsOf x.rxPart (flitOf b).payload
  let s := s.setCrxE e { x with
    rxSeq := q, nakOut := false, discarded := x.discarded.filter fun (d : DFlit) => d.seq != q, rxPart := units.2
    held := (List.range 5).map fun v => x.held.getD v 0 + units.1.count v }
  ((x.discarded.filter fun (d : DFlit) => d.seq == q).foldl (fun s d => s.noteLanes e (differingLanes d b)) s).sendControl e

/-- An idle flit arrives: a lane that differs from the pattern in a bit of its payload adds to its run of such flits, every other lane begins
anew (R344). -/
def State.noteIdle (s : State) (e ph : Nat) (b : Bytes) : State :=
  let x := s.crxE e
  let bits := (List.range 2048).filter fun i => decide (64 ≤ i) && decide (i < 1984) && bitOf (leNat b) i
  let act := s.activeLanes e
  let off := (bits.map fun i => stripedLane act ph i).eraseDups
  s.setCrxE e { x with stuck := off.foldl (fun m l => m.fput l (x.stuck.fget l 0 + 1) 0) [] }

/-- A flit arrives at its receiving end (R343). -/
def State.takeFlit (s : State) (e : Nat) (b : Bytes) : State :=
  let f := flitOf b
  let ph := (s.crxE e).phase
  let s := s.setCrxE e { s.crxE e with lastFlit := s.eng, phase := (ph + 1) % 3 }
  let next := ((s.crxE e).rxSeq + 1) % 4096
  let s := if f.typ = 1 then s.noteIdle e ph b else s
  if !f.good then (if f.typ = 0 then (s.incF .CRX_ERR_CRC_ERRORS e).discardFlit e (badSeq next f.seq) ph b else s)
  else if 3 ≤ f.typ then s
  else
    let s := s.takeControl e f
    if f.typ ≠ 0 then s
    else if f.seq = next then s.deliverFlit e f.seq b
    else if ((s.crxE e).rxSeq + 4096 - f.seq) % 4096 < 2048 then s
    else s.discardFlit e f.seq ph b

/-- Sixteen NAKs in a row that name one SEQ (R345). -/
def effCoroxForcedWindow (e : Nat) (s : State) : State :=
  if s.f .CRX_STATUS_STATE e = 2 && 16 ≤ (s.crxE e).nakRun then
    let s := ((crxEnds e).foldl (fun s x => s.incF .CRX_ERR_FORCED x) s).setCrxE e { s.crxE e with forced := true, nakRun := 0 }
    let s := s.pendCrx e
    if s.crxBlocked e then s else s.startCrxWindow e
  else s
def execCoroxForcedWindow (e : Nat) (s : State) : Out := run (.coroxForcedWindow e) s (effCoroxForcedWindow e s)

/-- A module is FAILED: its replay buffers are lost, routes change (R345, R350). -/
def State.failModule (s : State) (e : Nat) : State :=
  let old := s
  let s := s.setModule e 5
  let s := (crxEnds e).foldl (fun s x =>
    (s.setF .CRX_STATUS_PENDING x 0).setCrxE x { s.crxE x with replay := [], resend := [], forced := false, retrain := false }) s
  let s := match endGuest e with
    | some k => s.guestDown k
    | none => s
  s.rerouted old

def effCoroxModuleFail (e dt : Nat) (s : State) : State :=
  let s := s.elapse dt
  if s.endUp e && decide ((s.crxE e).lastFlit + 1000 ≤ s.eng) then s.failModule e else s

/-- Identities and answers of transactions are forgotten 100 µs after they were performed (R430). -/
def effTransactionMemoryExpiry (dt : Nat) (s : State) : State :=
  let s := s.elapse dt
  { s with crxTxns := s.crxTxns.filter fun x => decide (s.eng < x.at_ + 100000) }
def execTransactionMemoryExpiry (dt : Nat) (s : State) : Out := run (.transactionMemoryExpiry dt) s (effTransactionMemoryExpiry dt s)

/-- A lane that has differed from the idle pattern in 1,024 consecutive idle flits is flagged as stuck (R344). -/
def effCoroxLaneStuck (e l : Nat) (s : State) : State :=
  let x := s.crxE e
  if s.f .CRX_STATUS_STATE e = 2 && 1024 ≤ x.stuck.fget l 0 then (s.setCrxE e { x with stuck := x.stuck.fput l 0 0 }).flagCrx e l else s
def execCoroxLaneStuck (e l : Nat) (s : State) : Out := run (.coroxLaneStuck e l) s (effCoroxLaneStuck e l s)

/-! ## Guest sites: training and identity (R351, R359) -/

/-- What a training attempt finds (R351, R360): 0 nothing, 1 Corox native, which is tried first, 2 and 3 UCIe at 16 and 32 GT/s, the highest
rate that the guest supports. -/
def guestMode (g : GuestOffer) : Nat := if g.native then 1 else if bitOf g.rates 1 then 3 else if bitOf g.rates 0 then 2 else 0

/-- A guest's module trained: its link mode and widths, DISABLED when a direction has no width (R346), both ends with empty buffers, and a
window pending when DISABLE asks for one (R347). -/
def State.trainGuest (s : State) (k : Nat) (g : GuestOffer) : State :=
  let e := guestEnd k
  let s := (s.setGuest k { s.guest k with width := g.width, queue := [], part := [], lost := [] }).setF .CRX_STATUS_LINK e (guestMode g - 1)
  let s := s.setModule e (if s.rxWidth e = 0 || s.txWidth e = 0 then 4 else 2)
  (((s.setCrxE e { lastFlit := s.eng }).setCrxE (176 + k) {}).measureCrx e).settleCrx e

/-- A training attempt, each millisecond while the site is DOWN. -/
def effGuestTrainRetry (k : Nat) (g : GuestOffer) (dt : Nat) (s : State) : State :=
  let s := s.elapse dt
  let e := guestEnd k
  if s.f .CRX_GSTAT_STATE k = 1 && s.hubWorks (2 + k) && s.f .CRX_STATUS_STATE e = 1 && decide ((s.guest k).lastTry + 1000000 ≤ s.eng) then
    let s := s.setGuest k { s.guest k with lastTry := s.eng }
    if guestMode g = 0 then s else s.trainGuest k g
  else s
def execGuestTrainRetry (k : Nat) (g : GuestOffer) (dt : Nat) (s : State) : Out := run (.guestTrainRetry k g dt) s (effGuestTrainRetry k g dt s)

def effGuestIdentity (k : Nat) (lo hi : Word) (s : State) : State :=
  if s.f .CRX_GSTAT_STATE k = 1 && s.endUp (guestEnd k) then
    ((s.setF .CRX_GID_LO_ID k lo.toNat).setF .CRX_GID_HI_ID k hi.toNat).setF .CRX_GSTAT_STATE k 2
  else s
def execGuestIdentity (k : Nat) (lo hi : Word) (s : State) : Out := run (.guestIdentity k lo hi) s (effGuestIdentity k lo hi s)

def effGuestLinkDown (k : Nat) (s : State) : State := if s.endUp (guestEnd k) then s.guestDown k else s
def execGuestLinkDown (k : Nat) (s : State) : Out := run (.guestLinkDown k) s (effGuestLinkDown k s)

/-- Every admitted request is performed, and EXPEL completes; the site becomes TRAINED unless its link went down. -/
def effGuestExpelDone (k : Nat) (s : State) : State :=
  match (s.guest k).expel with
  | some (r, pos) =>
    let s := s.serveGuest k true
    let s := s.setGuest k { s.guest k with expel := none }
    let s := if s.f .CRX_GSTAT_STATE k = 4 then s.setF .CRX_GSTAT_STATE k 2 else s
    if s.isActive r pos then s.doneWith r pos else s
  | none => s
def execGuestExpelDone (k : Nat) (s : State) : Out := run (.guestExpelDone k) s (effGuestExpelDone k s)

/-! ## GUEST_ADMIT and FIREWALL_SET (R354 to R358) -/

def effGuestAdmit (r pos : Nat) (s : State) : State :=
  s.startCmd r pos 0x86 fun s e =>
    let k := e.body 0 1
    let out := e.body 2 2
    let rate := e.body 4 2
    let modes := e.body 6 1
    if 2 ≤ k || 2 ≤ e.body 1 1 || !e.zero 7 1 || !e.zero 24 40 then s.endWith r pos stPARAM
    else if e.body 1 1 = 1 then
      if !e.zero 2 5 || !e.zero 8 16 then s.endWith r pos stPARAM
      else if s.f .CRX_GSTAT_STATE k = 3 then
        (s.setF .CRX_GSTAT_STATE k 4).setGuest k { s.guest k with expel := some (r, pos) }
      else s.doneWith r pos
    else if out = 0 || 256 < out || 320 < rate || 4 ≤ modes then s.endWith r pos stPARAM
    else
      let st := s.f .CRX_GSTAT_STATE k
      let link := s.f .CRX_STATUS_LINK (guestEnd k)
      if st < 2 then s.endWith r pos stPARAM 1
      else if st ≠ 2 then s.endWith r pos stPARAM 2
      else if !bitOf modes (if link = 0 then 0 else 1) ||
          (!e.zero 8 16 && (e.body 8 8 != s.f .CRX_GID_LO_ID k || e.body 16 8 != s.f .CRX_GID_HI_ID k)) then s.endWith r pos stRIGHTS
      else
        let s := ((s.setF .CRX_GSTAT_STATE k 3).setF .CRX_GSTAT_MAX_OUT k out).setF .CRX_GSTAT_RATE k rate
        (s.setGuest k { s.guest k with moved := 0, since := s.eng, creditAt := 0 }).doneWith r pos link
def execGuestAdmit (r pos : Nat) (s : State) : Out := run (.guestAdmit r pos) s (effGuestAdmit r pos s)

def effFirewallSet (r pos : Nat) (s : State) : State :=
  s.startCmd r pos 0x85 fun s e =>
    let base := e.body 0 8
    let size := e.body 8 8
    let k := e.body 16 1
    let i := e.body 17 1
    let rights := e.body 18 1
    let p := e.body 19 1
    if 2 ≤ k || 16 ≤ i || 8 ≤ rights || 16 ≤ p || 2 ≤ e.body 20 1 || !e.zero 21 43 then s.endWith r pos stPARAM
    else if e.body 20 1 = 1 then
      if !e.zero 0 16 || rights ≠ 0 || p ≠ 0 then s.endWith r pos stPARAM
      else ((s.serveGuest k true).clearRule k i).doneWith r pos
    else if base % 65536 ≠ 0 || 2 ^ 52 ≤ base || size % 65536 ≠ 0 || size < 65536 || 2 ^ 40 < size || rights = 0 || !s.partValid p ||
        ((List.range 16).any fun j => j != i && s.ruleValid k j && meets base size (s.ruleBase k j) (s.ruleSize k j)) then
      s.endWith r pos stPARAM
    else
      -- requests that passed the earlier rule have been performed before DONE (R355)
      let s := (s.serveGuest k true).setF .CRX_GRULE_BASE_BASE (ruleIx k i) (base / 65536)
      let s := ((s.setF .CRX_GRULE_SIZE_SIZE (ruleIx k i) (size / 65536)).setF .CRX_GRULE_SIZE_RIGHTS (ruleIx k i) rights)
      ((s.setF .CRX_GRULE_SIZE_PART (ruleIx k i) p).setF .CRX_GRULE_SIZE_VALID (ruleIx k i) 1).doneWith r pos
def execFirewallSet (r pos : Nat) (s : State) : Out := run (.firewallSet r pos) s (effFirewallSet r pos s)

/-! ## Guest packets (R352, R353, R356) -/

/-- The first piece of a request that lies in a hole, or on a stack of no or another partition, under the present map (R356). -/
def State.guestHole (s : State) (q : Nat) (p : GPacket) : Bool :=
  (pieces p.addr p.span).any fun (_, a, _) => match s.locate (some q) a with
    | .error .outside => true
    | _ => false

/-- A request has arrived from a guest (R353): the checks of Table 13-7 against the present rules and map, then it waits, and is performed now or
later. A request whose TAG an outstanding one holds is dropped: no response could tell them apart (notes/assumptions/25). -/
def State.guestRequest (s : State) (k op : Nat) (p : GPacket) : State :=
  let s := if op = 0x40 then s else s.meterGuest k p.span
  let open_ := (s.guest k).waiting
  if open_.any fun (x : Nat × GPacket) => x.2.tag == p.tag then s
  else if s.f .CRX_GSTAT_STATE k ≠ 3 then s.denyGuest k p 1
  else if p.op ≠ op || !p.ok k || decide (s.f .CRX_GSTAT_MAX_OUT k ≤ open_.length) then s.denyGuest k p 7
  else match (List.range 16).find? fun i => s.ruleValid k i && decide (s.ruleBase k i ≤ p.addr) &&
      decide (p.addr + p.span ≤ s.ruleBase k i + s.ruleSize k i) with
    | none => s.denyGuest k p 2
    | some i =>
      let q := s.f .CRX_GRULE_SIZE_PART (ruleIx k i)
      let st := s.f .RST_PART_STATE q
      if p.need &&& s.f .CRX_GRULE_SIZE_RIGHTS (ruleIx k i) ≠ p.need then s.denyGuest k p 3
      else if st = 0 || st = 2 || st = 3 then s.denyGuest k p 8
      else if s.guestHole q p then s.denyGuest k p 4
      else (s.setWaiting k (open_ ++ [(q, p)])).serveGuest k false

/-- The units of a packet, its header among them, on its VC; a reserved VC has no buffer. -/
def GPacket.units (p : GPacket) : List Nat := if p.vc < 5 then List.replicate (1 + p.len) p.vc else []

/-- A guest packet comes by itself, in flits that nothing disturbs: it waits at the guest while the guest has no credit for it, or a window of
the module runs; its units fill the hub's buffers, and are returned as RATE allows (R342, R347, R358). -/
def State.guestPacket (s : State) (k op : Nat) (p : GPacket) : State :=
  let e := guestEnd k
  if s.f .CRX_STATUS_STATE e != 2 || !s.hubWorks (2 + k) || !p.whole then s
  else
    let s := s.pumpGuest k 64
    let far := s.crxE (176 + k)
    if !far.maySend p.units then s
    else
      let s := s.setCrxE (176 + k) { far with credit := spendUnits far.credit p.units }
      let x := s.crxE e
      let s := s.setCrxE e { x with held := (List.range 5).map fun v => x.held.getD v 0 + p.units.count v }
      (s.guestRequest k op p).pumpGuest k 64

/-- The packets that a flit delivered at a guest's hub has completed (R339). -/
def State.guestUnits (s : State) (k : Nat) (payload : Bytes) : State :=
  let r := packetsIn (s.guest k).part payload
  let s := s.setGuest k { s.guest k with part := r.1 }
  (r.2.foldl (fun s b => s.guestRequest k (guestPacketOf b).op (guestPacketOf b)) s).pumpGuest k 64

/-- A flit of the other end, sent when it may be, arrives with the named bits disturbed; at a guest's hub the packets that it completes are acted
on. -/
def effFlit (e : Nat) (sent : Bytes) (errs : List Nat) (s : State) : State :=
  if s.f .CRX_STATUS_STATE e ≠ 2 then s
  else match (farEnd e).bind fun y => s.sentBy y (flitOf sent) with
    | some t =>
      let u := t.takeFlit e (flipBits sent errs)
      match endGuest e with
      | some k =>
        if (u.crxE e).rxSeq = (t.crxE e).rxSeq then u.pumpGuest k 64
        else u.guestUnits k (flitOf (flipBits sent errs)).payload
      | none => u
    | none => s
def execFlit (e : Nat) (f : SentFlit) (s : State) : Out := run (.flit e f) s (effFlit e f.sent f.errs s)

def effGRead (k : Nat) (b : Bytes) (s : State) : State := s.guestPacket k 0x40 (guestPacketOf b)
def execGRead (k : Nat) (b : Bytes) (s : State) : Out := run (.gRead k b) s (effGRead k b s)

def effGWrite (k : Nat) (b : Bytes) (s : State) : State := s.guestPacket k 0x41 (guestPacketOf b)
def execGWrite (k : Nat) (b : Bytes) (s : State) : Out := run (.gWrite k b) s (effGWrite k b s)

def effGAtomic (k : Nat) (b : Bytes) (s : State) : State := s.guestPacket k 0x42 (guestPacketOf b)
def execGAtomic (k : Nat) (b : Bytes) (s : State) : Out := run (.gAtomic k b) s (effGAtomic k b s)

end Sys2Proof.Machine
end

