-- ==== Sys2Proof/Machine/Operands.lean ====
section
/-!
DEFINITION. What an instruction of a group reads and writes (Tables 4-2 and 4-4): registers, lanes, the third operand and its literal, the
reconvergence stack before a fetch (R118), and how a fault of a group goes to the launch controller (R145).
-/

namespace Sys2Proof.Machine

open Sys2Proof

/-! ## Registers (R113) -/

def Group.top (x : Group) : StackEnt := x.stack.headD ⟨0, 0, 0⟩
def Group.pc (x : Group) : Nat := x.top.pc

/-- The running path goes on at another address. -/
def Group.setPc (x : Group) (pc : Nat) : Group :=
  { x with stack := { x.top with pc := pc % 2 ^ 64 } :: x.stack.drop 1 }

def Group.vget (x : Group) (n lane : Nat) : Nat := x.v.fget (64 * n + lane) 0
def Group.vput (x : Group) (n lane val : Nat) : Group := { x with v := x.v.fput (64 * n + lane) (val % 2 ^ 32) 0 }

/-- A pair v(2k), v(2k+1); the even register holds the low half. -/
def Group.vgetD (x : Group) (n lane : Nat) : Nat := x.vget n lane + x.vget (n + 1) lane * 2 ^ 32
def Group.vputD (x : Group) (n lane val : Nat) : Group := (x.vput n lane val).vput (n + 1) lane (val / 2 ^ 32)

/-- A register, or a pair when `wide`. -/
def Group.vgetW (x : Group) (wide : Bool) (n lane : Nat) : Nat := if wide then x.vgetD n lane else x.vget n lane
def Group.vputW (x : Group) (wide : Bool) (n lane val : Nat) : Group := if wide then x.vputD n lane val else x.vput n lane val

def Group.sget (x : Group) (n : Nat) : Nat := x.s.fget n 0
def Group.sput (x : Group) (n val : Nat) : Group := { x with s := x.s.fput n (val % 2 ^ 64) 0 }

/-- p0 reads as the active mask. -/
def Group.pget (x : Group) (n : Nat) : Nat := if n = 0 then x.lanes else x.p.fget n 0

/-- The bits of `mask` of a predicate register; writes of p0 are ignored. -/
def Group.pput (x : Group) (n mask val : Nat) : Group :=
  if n = 0 then x else { x with p := x.p.fput n (andNot (x.p.fget n 0) mask ||| (val &&& mask)) 0 }

/-! ## Fields of the word (R115) -/

def wordLen (w : IWord) : Nat := if w.lit.isSome then 16 else 8

/-- The bits of the instruction word (Table 4-4). -/
def wordBits (w : IWord) (cls op : Nat) : Nat :=
  cls + op * 2 ^ 4 + w.d * 2 ^ 14 + w.a * 2 ^ 22 + w.b * 2 ^ 30 + w.c * 2 ^ 38 + w.pred * 2 ^ 46 + b2n w.pneg * 2 ^ 49 + w.fmt * 2 ^ 50 +
    w.rnd * 2 ^ 53 + b2n w.lit.isSome * 2 ^ 56 + w.mod * 2 ^ 57

/-- The bytes fetched are this instruction: its class, its fields and its literal; its OP where the spec gives its code. What the other codes
of a class stand for is not given: the row names the operation (notes/assumptions/55). -/
def spelt (w : IWord) (cls : Nat) (op : Option Nat) (b : Bytes) : Bool :=
  let x := leNat (b.take 8)
  x == wordBits w cls (op.getD (bitsOf x 4 10)) && leNat (b.drop 8) == (w.lit.map (·.toNat)).getD 0

/-- The lanes that execute: the active lanes, under the predicate when PRED names one. -/
def Group.exec (x : Group) (w : IWord) : Nat :=
  if w.pred = 0 then x.lanes
  else if w.pneg then andNot x.lanes (x.pget w.pred) else x.lanes &&& x.pget w.pred

/-- The third operand of a scalar instruction: the literal, or s[C]. -/
def Group.thirdS (x : Group) (w : IWord) : Nat := match w.lit with
  | some l => l.toNat
  | none => x.sget w.c

/-- The third operand of a lane: the literal, or v[C]. -/
def Group.thirdV (x : Group) (wide : Bool) (w : IWord) (lane : Nat) : Nat := match w.lit with
  | some l => if wide then l.toNat else l.toNat % 2 ^ 32
  | none => x.vgetW wide w.c lane

/-- Register numbers that the group has: a vector register below VREGS, and even as the base of a pair (R113). -/
def vOk (vregs : Nat) (wide : Bool) (n : Nat) : Bool :=
  if wide then n % 2 == 0 && decide (n + 1 < vregs) else decide (n < vregs)
def sOk (n : Nat) : Bool := decide (n < 64)
def pOk (n : Nat) : Bool := decide (n < 8)

/-- The third operand names a register only without a literal. -/
def thirdOkV (vregs : Nat) (wide : Bool) (w : IWord) : Bool := w.lit.isSome || vOk vregs wide w.c
def thirdOkS (w : IWord) : Bool := w.lit.isSome || sOk w.c

/-- `f` written to D in every lane of the mask; `f` sees the registers as they were. -/
def Group.mapLanes (x : Group) (wide : Bool) (d mask : Nat) (f : Nat → Nat) : Group :=
  (bitList mask 64).foldl (fun y l => y.vputW wide d l (f l)) x

/-! ## The reconvergence stack (R118) -/

/-- Joins and empty paths that have reached the top leave it, but for the bottom entry. -/
def popJoins : List StackEnt → List StackEnt
  | a :: b :: t => if a.pc = a.rpc || a.mask = 0 then popJoins (b :: t) else a :: b :: t
  | l => l

/-- The group as it stands before a fetch. -/
def Group.atFetch (x : Group) : Group := { x with stack := popJoins x.stack }

/-! ## Issue (R112, R131) -/

/-- The yield count of a kernel. -/
def Kernel.yieldCount (k : Kernel) : Nat := if k.yield = 0 then 4096 else k.yield

def unitOf (g : Nat) : Nat := g / 32
def State.kernelOf (s : State) (g : Nat) : Kernel := s.kernel (s.group g).kernel

/-- The group may issue: resident, not held, its kernel running on a working die, and no forced yield or STALEMATE due. A kernel that stops
issues nothing, but an instruction that had issued goes on (R145, R168). -/
def State.canIssue (s : State) (g : Nat) : Bool :=
  let x := s.group g
  let k := s.kernel x.kernel
  x.live && x.wait == .none && k.live && (k.phase == .running || (k.phase == .stopping && x.begun)) && s.dieWorks (unitOf g / 128) &&
    decide (x.bb < k.yieldCount) && decide (x.fy < 2 ^ 24)

/-- The other groups of a unit that may issue and have waited longer since their last issue than group g, or as long in a lower slot. -/
def State.ahead (s : State) (g : Nat) : List Nat :=
  ((List.range 32).map fun i => 32 * unitOf g + i).filter fun h =>
    h != g && s.canIssue h && (decide ((s.group h).order < (s.group g).order) || ((s.group h).order == (s.group g).order && decide (h < g)))

/-- The unit chooses group g (R112). Whether a group that comes before it has its operands ready and its pipe free is a matter of cycles, which
the model does not keep: a free bit of its slot says so (notes/assumptions/54). -/
def State.chosen (s : State) (g : Nat) : Bool :=
  (s.ahead g).all fun h => bitOf (Config.freeBits s.free).toNat (h % 32)

/-- The place behind every other group of a unit. -/
def State.lastPlace (s : State) (u : Nat) : Nat := ((List.range 32).map fun i => (s.group (32 * u + i)).order).foldl max 0 + 1

/-- The instruction has issued and the group stands after it: counted by its class (Table 18-1). -/
def State.retire (s : State) (g cls : Nat) (x : Group) : State := (s.setGroup g { x with begun := false }).evUnit (unitOf g) 0x05 cls 1

/-- The group stands after the instruction. -/
def Group.next (x : Group) (w : IWord) : Group := x.setPc (x.pc + wordLen w)

/-! ## Faults of a group (R145) -/

/-- Group index: TEAM × team + place in the team. -/
def State.groupIndex (s : State) (g : Nat) : Nat := (s.group g).team * (s.kernelOf g).team + (s.group g).inTeam

/-- The group issues no more, and its fault is on its way to the launch controller. -/
def State.groupStop (s : State) (g : Nat) (res : Result) (r : FRec) : State :=
  (s.setGroup g { s.group g with wait := .stopped }).groupFault g res r

/-- The record of a fault of a group at its present instruction. -/
def State.groupRec (s : State) (g cause addr kind access info info2 : Nat) : FRec :=
  let k := s.kernelOf g
  { addr := addr, mask := (s.group g).lanes, pos := some k.pos, info := info, time := s.now, ring := some k.ring, cause := cause, asid := k.asid,
    agentKind := 0, agentIx := unitOf g, info2 := info2, kind := kind, access := access }

/-- KERNEL_FAULT with a subcode of Table 4-15: RESULT the instruction's address, DETAIL the group index. -/
def State.kfault (s : State) (g sub : Nat) (addr : Nat := 0) (kind : Nat := 0) (access : Nat := 0) (info2 : Nat := 0) : State :=
  let pc := (s.group g).pc
  s.groupStop g { status := stKFAULT, sub := sub, result := pc, detail := s.groupIndex g }
    (s.groupRec g (0x20 + sub) addr kind access pc info2)

def kfILLEGAL : Nat := 1
def kfMISALIGNED : Nat := 2
def kfXLATE : Nat := 3
def kfPARTIAL : Nat := 4
def kfSTALEMATE : Nat := 5
def kfDEPTH : Nat := 6
def kfSCRATCH : Nat := 7
def kfTRAP : Nat := 8

/-- A fault that is no KERNEL_FAULT: RIGHTS, UNCORRECTABLE and the like. Its record's cause is no kernel cause, so MASK and INFO are 0
(Table 11-11). -/
def State.gdeny (s : State) (g status cause addr kind access : Nat) : State :=
  s.groupStop g { status := status } { s.groupRec g cause addr kind access 0 0 with mask := 0 }

end Sys2Proof.Machine
end

