-- ==== Sys2Proof/Machine/Flags.lean ====
section
/-!
DEFINITION. Compares: the relations of integers of a width, and the predicate bits that a compare writes (R174; Table 4-5 "compare to p").
-/

namespace Sys2Proof.Machine

open Sys2Proof

/-- Integer formats of FMT (Table 4-4): 0 int32, 1 uint32, 2 int64. -/
def fmtWidth (fmt : Nat) : Nat := if fmt = 2 then 64 else 32
def fmtSigned (fmt : Nat) : Bool := fmt != 1

/-- The value of an operand of an integer format. -/
def fmtInt (fmt v : Nat) : Int := if fmtSigned fmt then toSigned (fmtWidth fmt) v else ((v % 2 ^ fmtWidth fmt : Nat) : Int)

/-- A relation of the vector integer compares. -/
def intRel (op : VIntOp) (a b : Int) : Bool :=
  match op with
  | .cmpEq => a == b
  | .cmpNe => a != b
  | .cmpLt => decide (a < b)
  | .cmpLe => decide (a ≤ b)
  | _ => false

/-- The lanes of a mask in which a relation holds. -/
def lanesWhere (mask : Nat) (f : Nat → Bool) : Nat := maskOf ((bitList mask 64).filter f)

/-- A compare writes the bits of its executing lanes in p[D]. -/
def Group.compare (x : Group) (d mask : Nat) (f : Nat → Bool) : Group := x.pput d mask (lanesWhere mask f)

end Sys2Proof.Machine
end

