-- ==== Sys2Proof/Machine/KMem.lean ====
section
/-!
DEFINITION. Memory accesses of groups (R124, R126, R263, R266 to R271, R282): translation of every lane, loads through the near caches and
the region slice with their fills, stores under each policy, window requests of lanes (R304, R374), instruction fetch, cluster scratch
(R127), and the arrival of sectors (R270).
-/

namespace Sys2Proof.Machine

open Sys2Proof

/-- One piece of a group's access: the lane it belongs to, its virtual address and bytes. A piece lies within one 32-byte sector. -/
structure Acc where
  lane : Nat
  va : Nat
  len : Nat
deriving DecidableEq, Repr

/-- What a read of one piece answers. -/
inductive GRead where
  | got (b : Bytes)
  | wait
  | bad (e : MErr) (pa : Nat)
deriving DecidableEq, Repr

/-! ## The region slice (R269, R270) -/

/-- A slice's copy of a granule, when it holds data. -/
def State.sliceCopy (s : State) (sl g : Nat) : Option Bytes :=
  let c := s.copy (sliceAgent sl) g
  if c.st != .i && c.data.length == 64 then some c.data else none

def State.setFills (s : State) (l : List Fill) : State := { s with caches := { s.caches with fills := l } }

/-- The granules of a line that a sector request brings beside the missed one (R269): each is granted in E when its home shows no copy and no
transaction. One that the slice holds, or has asked for, is left as it is. -/
def State.grantFree (s : State) (sl line : Nat) (missed : Nat) : State :=
  let a := sliceAgent sl
  (s.lineGrans line).foldl (fun s g =>
    if g ≠ missed && (s.copy a g).st == .i && s.noRequest a g then s.grantClean a g else s) s

/-- The granules of a line that a slice holds, as a mask, and its bytes; those it does not hold are zero. -/
def State.sliceHas (s : State) (sl line : Nat) : Nat :=
  maskOf ((List.range 2).filter fun i => ((s.lineGrans line)[i]?.bind (s.sliceCopy sl)).isSome)
def State.sliceLine (s : State) (sl line : Nat) : Bytes :=
  (s.lineGrans line).flatMap fun g => (s.sliceCopy sl g).getD (zeroBytes 64)

/-- The rest of the sector of a miss on line `line`: the other granule of the line, then the buddy line, allocated when a granule of it is
granted and it is not present. The fill of the line delivers the
granules of `mine` and those granted; that of the buddy line follows it. -/
def State.bringSector (s : State) (sl line missed first mine : Nat) (waiters : List Nat) : State :=
  let s := (s.grantFree sl line missed).evDie (sl / 4) 0x0A 0 1
  let buddy := line ^^^ 1
  let had := s.sliceHas sl buddy
  let s := s.grantFree sl buddy missed
  let came := andNot (s.sliceHas sl buddy) had
  let s := if came = 0 then s else (s.sliceAlloc sl buddy).2
  let other := andNot (s.sliceHas sl line) (2 ^ (first / 2))
  s.setFills (s.caches.fills ++ openFills
    [{ slice := sl, line := line, first := first, have_ := mine ||| other, data := s.sliceLine sl line, waiters := waiters },
     { slice := sl, line := buddy, first := 0, have_ := came, data := s.sliceLine sl buddy, after := some line }])

/-- The slice has 256 fills in progress. -/
def State.fillsFull (s : State) (sl : Nat) : Bool :=
  decide (256 ≤ (s.caches.fills.filter fun f => f.slice == sl && !f.over && f.after.isNone).length)

/-- The slice has a way for a line and for its buddy; without one the allocation waits (R264). -/
def State.sliceRoom (s : State) (sl line : Nat) : Bool := (s.sliceWay sl line).1.isSome && (s.sliceWay sl (line ^^^ 1)).1.isSome

/-- A fill starts for a missed granule. Nothing is allocated for uncorrectable data (R271). -/
def State.startFill (s : State) (g sl pa k a : Nat) : GRead × State :=
  let line := pa / 128
  if !s.sliceRoom sl line then (.wait, s)
  else
    match (s.countPath k .bulk 1).obtainShared (sliceAgent sl) (granKey k a) false with
    | (none, s) => (.bad .uncorr pa, s)
    | (some _, s) => (.wait, (s.sliceAlloc sl line).2.bringSector sl line (granKey k a) (pa % 128 / 32) (2 ^ (pa % 128 / 64)) [g])

/-- A STREAM load of a granule that its slice does not hold: a NoAllocRead, on the path of Table 9-3. -/
def State.startStream (s : State) (g sl pa k a : Nat) (path : Path) : GRead × State :=
  match (s.slotRead k a path pa 1 pa).readGran (granKey k a) with
  | (none, s) => (.bad .uncorr pa, s)
  | (some b, s) =>
    let h := pa % 128 / 64
    let f : Fill := { slice := sl, line := pa / 128, first := pa % 128 / 32, have_ := 2 ^ h, alloc := false,
                      data := zeroBytes (64 * h) ++ b, waiters := [g] }
    (.wait, (s.setFills (s.caches.fills ++ [f])).evDie (sl / 4) 0x0A 0 1)

/-- A miss on a line that is being filled joins the fill `f`, and waits for the granule's sectors (R270); a granule that the slice does not
hold is obtained, its whole sector read (R242). -/
def State.joinFill (s : State) (g sl pa k a : Nat) (f : Fill) : GRead × State :=
  let h := pa % 128 / 64
  let held := (s.sliceCopy sl (granKey k a)).isSome
  match (if held then s else s.slotRead k a .bulk pa 1 pa).obtainShared (sliceAgent sl) (granKey k a) false with
  | (none, s) => (.bad .uncorr pa, s)
  | (some b, s) =>
    let d := if h = 0 then b ++ f.data.drop 64 else f.data.take 64 ++ b
    let x : Fill := { f with have_ := setBit f.have_ h, data := d, arrived := if held then f.arrived else andNot f.arrived (3 * 4 ^ h)
                             waiters := if f.waiters.contains g then f.waiters else f.waiters ++ [g] }
    (.wait, s.setFills (s.caches.fills.map fun y => if y == f then x else y))

/-- Bytes of a physical address as a slice gives them to group g: from a fill that has delivered them, from its copy, or a miss; `stream`
names the path of a STREAM load. -/
def State.sliceRead (s : State) (g sl pa len : Nat) (stream : Option Path) : GRead × State :=
  match s.decodePA pa with
  | none => (.bad .outside pa, s)
  | some (k, a) =>
    let s := s.dieEnergy (sl / 4) (200 * 64)
    let h := pa % 128 / 64
    let here := fun (f : Fill) => f.slice == sl && f.line == pa / 128
    let c := s.sliceCopy sl (granKey k a)
    match s.caches.fills.find? fun f => here f && f.waiters.contains g && bitOf f.have_ h with
    | some f =>
      if bitOf f.arrived (pa % 128 / 32) then (.got (sliceB (c.getD ((f.data.drop (64 * h)).take 64)) (a % 64) len), s) else (.wait, s)
    | none =>
      match s.caches.fills.find? fun f => here f && f.alloc && !f.over, c with
      | some f, some d =>
        if bitOf f.have_ h && !bitOf f.arrived (pa % 128 / 32) then s.joinFill g sl pa k a f else (.got (sliceB d (a % 64) len), s)
      | some f, none => s.joinFill g sl pa k a f
      | none, some d => (.got (sliceB d (a % 64) len), s)
      | none, none =>
        if s.fillsFull sl then (.wait, s)
        else match stream with
          | some path => s.startStream g sl pa k a path
          | none => s.startFill g sl pa k a

/-- A group's load has taken its bytes: it waits on no fill. -/
def State.leaveFills (s : State) (g : Nat) : State :=
  s.setFills (openFills (s.caches.fills.map fun f => { f with waiters := f.waiters.filter (· != g) }))

/-! ## Loads through the near caches (R266, R267) -/

def covers (x : NLine) (mask : Nat) : Bool := x.valid &&& mask == mask

/-- Bytes placed at their offset of a line. -/
def placed (pa : Nat) (b : Bytes) : Bytes := zeroBytes (pa % 128) ++ b
def lineMask (pa len : Nat) : Nat := (2 ^ len - 1) * 2 ^ (pa % 128)

/-- Bytes that were not valid filled into a line; valid bytes, dirty ones among them, stay. -/
def NLine.fill (x : NLine) (b : Bytes) (mask : Nat) : NLine :=
  { x with data := mergeLine x.data b (andNot mask x.valid), valid := x.valid ||| mask }

/-- A group's access has put dirty bytes of near caches out, and some of those writes were not performed (R251, R195): the group's own kernel ends
at the first that it stored, with the access; the other kernels that stored such bytes end too, and records name the rest. -/
def State.lost (s : State) (g part : Nat) (bad : Lost) : Option (MErr × Nat) × State :=
  let (mine, others) := lostOf (s.group g).kernel bad
  (mine, s.postLost part others)

/-- The slice of a near cache still holds the granule of an address: bytes of a fill whose granule it has lost since go to the load that waited
for them, and are not kept in near caches (R267, R283). -/
def State.sliceKeeps (s : State) (u pa : Nat) : Bool :=
  (s.decodePA pa).any fun x => (s.sliceCopy (sliceOf u) (granKey x.1 x.2)).isSome

/-- Bytes through the cluster near cache: a miss fills from the region slice. -/
def State.clusterRead (s : State) (g u pa len part : Nat) : GRead × State :=
  let cl := clusterOf u
  let line := pa / 128
  let m := lineMask pa len
  let s := s.dieEnergy (u / 128) (90 * 64)
  let x := s.nline (clNear cl) line
  if covers x m then (.got (sliceB x.data (pa % 128) len), s.touchWay (clNear cl) line
      ((s.caches.nearWays.fget (clNear cl * 512 + nearSet (clNear cl) line) []).idxOf (line + 1)))
  else match s.sliceRead g (sliceOf u) pa len none with
    | (.got b, s) =>
      if !s.sliceKeeps u pa then (.got b, s) else
      let (bad, s) := s.allocCluster cl line
      let y := (s.nline (clNear cl) line).fill (placed pa b) m
      match ((s.setNline (clNear cl) line y).evDie (u / 128) 0x09 0 1).lost g part bad with
      | (none, s) => (.got (sliceB y.data (pa % 128) len), s)
      | (some (e, a), s) => (.bad e a, s)
    | r => r

/-- Bytes of a piece under a policy of Table 4-9, for a unit of a partition; 4 is STREAM on the narrow path. -/
def State.groupRead (s : State) (g part pol pa len : Nat) : GRead × State :=
  let u := unitOf g
  match s.locate (some part) pa with
  | .error e => (.bad e pa, s)
  | .ok (k, _) =>
    let s := s.touchStack k
    let line := pa / 128
    let m := lineMask pa len
    match pol with
    | 0 =>
      let s := s.dieEnergy (u / 128) (90 * 64)
      let x := s.nline u line
      if covers x m then (.got (sliceB x.data (pa % 128) len), s.touchWay u line
          ((s.caches.nearWays.fget (u * 512 + nearSet u line) []).idxOf (line + 1)))
      else match s.clusterRead g u pa len part with
        | (.got b, s) =>
          if !covers (s.nline (clNear (clusterOf u)) line) m then (.got b, s) else
          let (bad, s) := s.allocUnit u line
          let y := (s.nline u line).fill (placed pa b) m
          match ((s.setNline u line y).evUnit u 0x08 0 1).lost g part bad with
          | (none, s) => (.got (sliceB y.data (pa % 128) len), s)
          | (some (e, a), s) => (.bad e a, s)
        | r => r
    | 1 => s.clusterRead g u pa len part
    | 2 => s.sliceRead g (sliceOf u) pa len none
    | 3 => s.sliceRead g (sliceOf u) pa len (some .bulk)
    | _ => s.sliceRead g (sliceOf u) pa len (some .narrow)

/-! ## Stores (R124, R266, R282) -/

/-- Bytes written into the copy that a near cache holds, where it is valid; the copy keeps its dirty state (R282). -/
def State.patchNear (s : State) (cache pa : Nat) (b : Bytes) : State :=
  let line := pa / 128
  let x := s.nline cache line
  let m := x.valid &&& lineMask pa b.length
  if m = 0 then s else s.setNline cache line { x with data := mergeLine x.data (placed pa b) m }

/-- Groups whose loads wait on fills of a slice try again. -/
def State.wakeFills (s : State) (sl : Nat) : State :=
  { s with groups := s.groups.map fun (e : Nat × Group) =>
      if e.2.live && sliceOf (unitOf e.1) == sl && e.2.wait == .fill then (e.1, { e.2 with wait := .none }) else e }

/-- What a slice waits for arrives: the sectors of its fills and every message in flight (notes/assumptions/51). -/
def State.awaitSlice (s : State) (sl : Nat) : State :=
  ((s.setFills (openFills (s.caches.fills.map fun f => if f.slice == sl then { f with arrived := 15 } else f))).wakeFills sl).quiesce 4096

/-- A slice can take a store to an address now: it holds the granule, or has room for its line and buddy and fewer than 256 fills in progress. -/
def State.storeRoom (s : State) (sl pa : Nat) : Bool :=
  (s.decodePA pa).any fun x => (s.sliceCopy sl (granKey x.1 x.2)).isSome || (s.sliceRoom sl (pa / 128) && !s.fillsFull sl)

/-- A granule put in M into its slice for a store: a miss brings its sector (R269). It answers the granule's bytes, none when it is
uncorrectable (R251). -/
def State.sliceOwn (s : State) (sl pa k a : Nat) (full : Bool) : Option Bytes × State :=
  let g := granKey k a
  let held := (s.sliceCopy sl g).isSome
  match (if held then s else s.countPath k .bulk 1).acquireOwn (sliceAgent sl) g full with
  | (none, s) => (none, s)
  | (some old, s) =>
    if held then (some old, s)
    else (some old, (s.sliceAlloc sl (pa / 128)).2.bringSector sl (pa / 128) g (pa % 128 / 32) 0 [])

/-- A COHERENT store: the slice obtains the granule in M and writes the bytes (R282); `full`: the store covers the granule (Table 10-5). It
answers false when the granule is uncorrectable. -/
def State.storeSlice (s : State) (sl pa : Nat) (full : Bool) (b : Bytes) : Bool × State :=
  match s.decodePA pa with
  | none => (false, s)
  | some (k, a) =>
    let g := granKey k a
    let m := byteMask (a % 64) b.length
    match s.sliceOwn sl pa k a full with
    | (none, s) => (false, s)
    | (some old, s) =>
      (true, s.setCopy (sliceAgent sl) g { s.copy (sliceAgent sl) g with st := .m, data := mergeMask old (zeroBytes (a % 64) ++ b) m })

/-- Why a piece of a store cannot be performed, found before any byte is written: its place, R195, R451. -/
def State.pieceBar (s : State) (part pa : Nat) : Option MErr :=
  match s.locate (some part) pa with
  | .error e => some e
  | .ok (k, off) => if s.inCellar k off || s.inBootImage pa then some .closed else none

/-- Bytes of a piece stored under a policy, by a store that covers its granule when `full`; the first write that was not performed. -/
def State.groupWrite (s : State) (g part pol pa : Nat) (full : Bool) (b : Bytes) : Option (MErr × Nat) × State :=
  let u := unitOf g
  match s.decodePA pa with
  | none => (some (.outside, pa), s)
  | some (k, _) =>
    let s := (s.touchStack k).dieEnergy (u / 128) (if pol < 2 then 90 * 64 else 200 * 64)
    let m := lineMask pa b.length
    match pol with
    | 0 => let (bad, s) := s.storeUnit u (pa / 128) m (placed pa b) [(s.group g).kernel]; s.lost g part bad
    | 1 =>
      let (bad, s) := (s.patchNear u pa b).storeCluster (clusterOf u) (pa / 128) m (placed pa b) [(s.group g).kernel]
      s.lost g part bad
    | _ =>
      match s.storeSlice (sliceOf u) pa full b with
      | (true, s) => (none, (s.patchNear u pa b).patchNear (clNear (clusterOf u)) pa b)
      | (false, s) => (some (.uncorr, pa), s)

/-! ## What an access of a group ends in -/

/-- An access of physical memory that was not performed. -/
def State.groupMemErr (s : State) (g : Nat) (e : MErr) (pa access : Nat) : State :=
  match e with
  | .outside => s.gdeny g stRIGHTS 0x09 pa 2 access
  | .uncorr => s.gdeny g stUNCORR 0x10 pa 2 access
  | .closed => s.gdeny g stRIGHTS 0x08 pa 2 access
  | .failed => s.interrupt (s.kernelOf g).ring (s.kernelOf g).pos

/-- The group's instruction waits, and is tried again. -/
def State.groupWait (s : State) (g : Nat) (w : GWait) : State :=
  let x := s.group g
  s.setGroup g { x with wait := w, ipc := x.pc, begun := true }

/-- The group waits on a service request, or for a free tag of the queue. -/
def State.groupSvc (s : State) (g n : Nat) (tag : Option Nat) (va need : Nat) : State :=
  (s.groupWait g .service).svcWait n tag none (some g) va need

/-- The group waits on fills; with none in progress at its slice the instruction is tried again. -/
def State.groupFill (s : State) (g : Nat) : State :=
  s.groupWait g (if s.caches.fills.any fun f => f.slice == sliceOf (unitOf g) && !f.over then .fill else .none)

/-- Every piece translated, in order; `none` when one fails or waits, with what follows from it. -/
def State.groupXlate (s : State) (g need : Nat) : List Acc → Option (List (Acc × Loc)) × State
  | [] => (some [], s)
  | a :: t =>
    let k := s.kernelOf g
    match s.xlate (clusterCache (clusterOf (unitOf g))) k.part k.asid a.va need with
    | (.ok (.host _ _), s) => (none, s.gdeny g stRIGHTS 0x0A a.va 1 need)
    | (.ok l, s) =>
      match s.groupXlate g need t with
      | (some r, s) => (some ((a, l) :: r), s)
      | (none, s) => (none, s)
    | (.fail st cause, s) =>
      (none, if st = stRIGHTS then s.gdeny g st cause a.va 1 need else s.kfault g kfXLATE a.va 1 need)
    | (.uncorr pa, s) => (none, s.gdeny g stUNCORR 0x10 pa 2 1)
    | (.wait n tag, s) => (none, s.groupSvc g n tag a.va need)

/-- The pieces in this module, with their physical addresses. -/
def localOf (l : List (Acc × Loc)) : List (Acc × Nat) :=
  l.filterMap fun (e : Acc × Loc) => match e.2 with
    | .phys _ pa => some (e.1, pa)
    | _ => none

/-- The pieces that go through windows. -/
def remoteOf (l : List (Acc × Loc)) : List (Acc × Loc) :=
  l.filter fun (e : Acc × Loc) => match e.2 with
    | .remote .. => true
    | _ => false

/-- Every piece in this module read: all bytes, or a wait, or the first error. -/
def State.readPieces (s : State) (g part pol : Nat) : List (Acc × Nat) → Except (MErr × Nat) (Option (List (Acc × Bytes))) × State
  | [] => (.ok (some []), s)
  | (a, pa) :: t =>
    match s.groupRead g part pol pa a.len with
    | (.bad e pa, s) => (.error (e, pa), s)
    | (.wait, s) =>
      match s.readPieces g part pol t with
      | (.ok _, s) => (.ok none, s)
      | (.error e, s) => (.error e, s)
    | (.got b, s) =>
      match s.readPieces g part pol t with
      | (.ok (some l), s) => (.ok (some ((a, b) :: l)), s)
      | (.ok none, s) => (.ok none, s)
      | (.error e, s) => (.error e, s)

/-- The bytes of a sector that pieces touch, as a mask of 256. -/
def sectorMask (l : List (Acc × Nat)) (sec : Nat) : Nat :=
  l.foldl (fun m (e : Acc × Nat) => if e.2 / 256 == sec then m ||| (2 ^ e.1.len - 1) * 2 ^ (e.2 % 256) else m) 0

/-- A STREAM load takes the narrow path when it touches at most 64 bytes of each sector it names (Table 9-3). -/
def loadPol (pol : Nat) (l : List (Acc × Nat)) : Nat :=
  if pol = 3 && l.all fun (e : Acc × Nat) => decide (popCount (sectorMask l (e.2 / 256)) 256 ≤ 64) then 4 else pol

/-- A group's load of pieces: the bytes of those in this module and the places of the others; `none` when the instruction does not complete
now, with what follows. -/
def State.groupLoad (s : State) (g need pol : Nat) (accs : List Acc) : Option (List (Acc × Bytes) × List (Acc × Loc)) × State :=
  match s.groupXlate g need accs with
  | (none, s) => (none, s)
  | (some l, s) =>
    match s.readPieces g (s.kernelOf g).part (loadPol pol (localOf l)) (localOf l) with
    | (.error (e, pa), s) => (none, s.groupMemErr g e pa need)
    | (.ok none, s) => (none, s.groupFill g)
    | (.ok (some bs), s) => (some (bs, remoteOf l), s.leaveFills g)

/-! ## Window requests of lanes (R374) -/

/-- The hub that carries a group's window requests: the home hub of its die, else the lowest-numbered that works (R30 and R374 name none:
DESIGN CHOICE, notes/assumptions/65). -/
def State.groupHub (s : State) (g : Nat) : Nat :=
  let h := homeHub (unitOf g / 128)
  if s.hubWorks h then h else ((List.range 4).find? s.hubWorks).getD h

/-- A window read of a piece whose bytes go to register `dst` on, or to the instruction's words. -/
def State.sendRead (s : State) (g h dst : Nat) (a : Acc) (l : Loc) : State :=
  s.sendReq h l 1 a.len 0 false false [] (.group g a.lane dst a.len 0) none a.va

/-! ## Fetch (R115, R266) -/

/-- The 8-byte words of the instruction at the group's pc. -/
def Group.codeAccs (x : Group) (len : Nat) : List Acc := (List.range (len / 8)).map fun i => ⟨0, (x.pc + 8 * i) % 2 ^ 64, 8⟩

/-- The instruction at the group's pc comes through the near caches like a NEAR load, or through an import window (R304); none when it does not
come now. Nothing has issued before it has come. -/
def State.groupFetch (s : State) (g len : Nat) : Option Bytes × State :=
  let x := s.group g
  if x.pc % 8 ≠ 0 then (none, s.kfault g kfMISALIGNED x.pc 1 8)
  else
    let had := x.codeAccs len |>.map fun a => x.code.find? fun (e : Nat × Bytes) => e.1 == a.va
    if had.all (·.isSome) then (some (had.flatMap fun e => (e.map (·.2)).getD []), s)
    else match s.groupLoad g 8 0 (x.codeAccs len) with
      | (some (bs, []), s) => (some (bs.flatMap (·.2)), s)
      | (some (bs, rem), s) =>
        let s := s.setGroup g { s.group g with wait := .remote rem.length, ipc := x.pc, code := bs.map fun (a, b) => (a.va, b) }
        (none, rem.foldl (fun s (a, l) => s.sendRead g (s.groupHub g) fetchDst a l) s)
      | (none, s) => (none, s.setGroup g { s.group g with begun := x.begun })

/-- The group issues: it takes the last place in its unit's choice. -/
def State.placed (s : State) (g : Nat) : State := s.setGroup g { s.group g with order := s.lastPlace (unitOf g), code := [] }

/-- The group issues an instruction when its unit chooses it: joins are popped, the words are fetched, and `body` runs when they are those of
the row. A row that names another instruction than the one at the pc does nothing. -/
def State.issue (s : State) (g len : Nat) (spelt : Bytes → Bool) (body : State → State) : State :=
  if !s.canIssue g then s
  else if !s.chosen g then { s with free := s.free + 1 }
  else
    let t := s.setGroup g (s.group g).atFetch
    match t.groupFetch g len with
    | (none, t) => t.settleRetire
    | (some b, t) => if spelt b then body (t.settleRetire.placed g) else s

/-- The instruction's registers and its requests: with no request the registers are written at once, else when the last has answered. -/
def State.groupRemote (s : State) (g cls : Nat) (w : IWord) (writes : List (Nat × Nat)) (rem : List (Acc × Loc))
    (send : State → Nat → Acc × Loc → State) : State :=
  let x := s.group g
  if rem = [] then
    s.retire g cls ({ x with v := writes.foldl (fun v (e : Nat × Nat) => v.fput e.1 (e.2 % 2 ^ 32) 0) x.v }.next w)
  else
    let h := s.groupHub g
    let s := s.retire g cls ({ x with wait := .remote rem.length, ipc := x.pc, late := writes }.next w)
    rem.foldl (fun s a => send s h a) s

/-- Register lanes that the bytes of a lane fill from register d on. -/
def State.laneRegs (s : State) (d lane : Nat) (b : Bytes) : List (Nat × Nat) × State :=
  let (low, s) := s.widen b.length (fldB b 0 (min b.length 4))
  ((List.range (max (b.length / 4) 1)).map fun i => (64 * (d + i) + lane, if i = 0 then low else fldB b (4 * i) 4), s)

def State.allLaneRegs (s : State) (d : Nat) : List (Acc × Bytes) → List (Nat × Nat) × State
  | [] => ([], s)
  | (a, b) :: t =>
    let (r, s) := s.laneRegs d a.lane b
    let (rs, s) := s.allLaneRegs d t
    (r ++ rs, s)

/-- A load into registers from d on. -/
def State.loadRegs (s : State) (g cls : Nat) (w : IWord) (d pol : Nat) (accs : List Acc) : State :=
  match s.groupLoad g 1 pol accs with
  | (none, s) => s
  | (some (bs, rem), s) =>
    let (ws, s) := s.allLaneRegs d bs
    s.groupRemote g cls w ws rem fun s h (a, l) => s.sendRead g h d a l

/-- Pieces in this module written in order, up to the first that cannot be; each with whether the store covers its granule. -/
def State.putPieces (s : State) (g part pol : Nat) (data : Acc → Bytes) : List (Acc × Nat × Bool) → Option (MErr × Nat) × State
  | [] => (none, s)
  | (a, pa, full) :: t =>
    match s.groupWrite g part pol pa full (data a) with
    | (some e, s) => (some e, s)
    | (none, s) => s.putPieces g part pol data t

/-- The pieces granule by granule, each granule's in lane order; a granule whose 64 bytes they cover is marked. -/
def byGranule (l : List (Acc × Nat)) : List (Acc × Nat × Bool) :=
  ((l.map fun e => e.2 / 64).eraseDups).flatMap fun gr =>
    let mine := l.filter fun e => e.2 / 64 == gr
    let full := mine.foldl (fun m e => m ||| byteMask (e.2 % 64) e.1.len) 0 == fullMask
    mine.map fun e => (e.1, e.2, full)

/-- Pieces in this module written, none when one of them is barred; the first error. -/
def State.writePieces (s : State) (g part pol : Nat) (data : Acc → Bytes) (l : List (Acc × Nat)) : Option (MErr × Nat) × State :=
  match l.findSome? fun (e : Acc × Nat) => (s.pieceBar part e.2).map fun x => (x, e.2) with
  | some x => (some x, s)
  | none => s.putPieces g part pol data (byGranule l)

/-- A store has completed: BB and FY are 0 (R131). -/
def State.storeDone (s : State) (g : Nat) : State := s.setGroup g { s.group g with bb := 0, fy := 0 }

/-- The slice of a unit takes a store's pieces now; one under COHERENT or STREAM that it cannot take waits for what the slice waits for. -/
def State.storeWaits (s : State) (sl pol : Nat) (l : List (Acc × Nat)) : Bool × State :=
  if pol < 2 || l.all fun e => s.storeRoom sl e.2 then (false, s)
  else
    let s := s.awaitSlice sl
    (!(l.all fun e => s.storeRoom sl e.2), s)

/-- A store of pieces: every piece translated with write right before any byte is written. -/
def State.storePieces (s : State) (g cls : Nat) (w : IWord) (pol : Nat) (accs : List Acc) (data : Acc → Bytes) : State :=
  match s.groupXlate g 2 accs with
  | (none, s) => s
  | (some l, s) =>
    let rem := remoteOf l
    match s.storeWaits (sliceOf (unitOf g)) pol (localOf l) with
    | (true, s) => s.groupFill g
    | (false, s) =>
      match s.writePieces g (s.kernelOf g).part pol data (localOf l) with
      | (some (e, pa), s) => s.groupMemErr g e pa 2
      | (none, s) =>
        (s.storeDone g).groupRemote g cls w [] rem fun s h (a, l) => s.sendWrites h l false (data a) (.group g a.lane 256 a.len 0) a.va

/-! ## Cluster scratch (R127) -/

/-- The team of a group. -/
def State.teamOf (s : State) (g : Nat) : Team := s.team ((s.group g).kernel * 2 ^ 40 + (s.group g).team)

/-- Key of a scratch address of a team. -/
def Team.scratchKey (t : Team) (a : Nat) : Nat := t.cluster * 2 ^ 20 + t.grans.getD (a / 4096) 0 * 4096 + a % 4096

/-- Every byte of an access lies below SCRATCH. -/
def State.scratchOk (s : State) (g a len : Nat) : Bool := decide (a + len ≤ (s.kernelOf g).scratch)

def State.scratchBytes (s : State) (t : Team) (a len : Nat) : Bytes :=
  (List.range len).map fun i => s.scratch.fget (t.scratchKey (a + i)) 0

def State.scratchPut (s : State) (t : Team) (a : Nat) (b : Bytes) : State :=
  { s with scratch := (List.range b.length).foldl (fun m i => m.fput (t.scratchKey (a + i)) (b.getD i 0) 0) s.scratch }

/-- The first piece outside the allocation faults the kernel; `none` when there is none. -/
def State.scratchCheck (s : State) (g access : Nat) (accs : List Acc) : Option State :=
  (accs.find? fun a => !s.scratchOk g a.va a.len).map fun a => s.kfault g kfSCRATCH a.va 1 access

/-! ## Sectors arrive (R270) -/

/-- A fill whose next sector is `sec`; the buddy line of a miss comes after the missed line. -/
def State.delivers (s : State) (f : Fill) (sec : Nat) : Bool :=
  f.nextSector == some sec && !(s.caches.fills.any fun x => x.slice == f.slice && f.after == some x.line && x.after.isNone && !x.over)

def effSectorDelivery (sl line sec : Nat) (s : State) : State :=
  let mine := fun (f : Fill) => f.slice == sl && f.line == line && s.delivers f sec
  if !(s.caches.fills.any mine) then s
  else
    (s.setFills (openFills (s.caches.fills.map fun f => if mine f then { f with arrived := setBit f.arrived sec } else f))).wakeFills sl
def execSectorDelivery (sl line sec : Nat) (s : State) : Out := run (.sectorDelivery sl line sec) s (effSectorDelivery sl line sec s)

end Sys2Proof.Machine
end

