-- ==== Sys2Proof/Machine/Groups.lean ====
section
/-!
DEFINITION. Instructions of classes 0 to 5, 10 and 11 (R112 to R123, R126, R128, R131 to R133, R174 to R182, R458): scalar and control, vector,
special function, conversion, cross-lane, synchronisation and system. An OP that the row's instruction does not have, and every breach of
R113 and R116, ends the kernel with ILLEGAL_INSTRUCTION.
-/

namespace Sys2Proof.Machine

open Sys2Proof

/-- MOD is zero but for the low `n` bits, which the instruction's class uses (R116). -/
def modOk (n : Nat) (w : IWord) : Bool := decide (w.mod < 2 ^ n)

/-- A rounding field that is not reserved. -/
def rndOk (w : IWord) : Bool := decide (w.rnd < 5)

/-- Issue of an instruction of a class, and of an OP where the spec gives its code, whose fields are judged first. -/
def State.issueOk (s : State) (g cls : Nat) (op : Option Nat) (w : IWord) (ok : Group → Kernel → Bool) (body : State → State) : State :=
  s.issue g (wordLen w) (spelt w cls op) fun s => if ok (s.group g) (s.kernelOf g) then body s else s.kfault g kfILLEGAL

/-! ## Scalar arithmetic (class 0) -/

/-- Operand of a scalar instruction of a format: 32-bit formats take the low half. -/
def scalarIn (fmt v : Nat) : Int := fmtInt fmt v

/-- The 64 bits that a scalar result writes: above a 32-bit result stand free bits, the low ones of `hi` (notes/assumptions/15). -/
def scalarOut (fmt hi : Nat) (i : Int) : Nat :=
  if fmt = 2 then ofSigned 64 i else ofSigned 32 i + hi % 2 ^ 32 * 2 ^ 32

/-- `v` shifted by a count below the width; the result of a longer shift is free (notes/assumptions/15). -/
def shiftVal (kind fmt a count : Nat) (v : Int) : Int :=
  if count < fmtWidth fmt then v else (Config.wideShift kind fmt a count : Int)

/-- A scalar operation on A and B; `mov` takes the third operand. -/
def scalarVal (op : ScalarOp) (fmt a b c : Nat) : Int :=
  let w := fmtWidth fmt
  let x := scalarIn fmt a
  let y := scalarIn fmt b
  let ua := a % 2 ^ w
  let ub := b % 2 ^ w
  let t := fun (p : Bool) => ((b2n p : Nat) : Int)
  match op with
  | .mov => scalarIn fmt c
  | .add => x + y
  | .sub => x - y
  | .mul => x * y
  | .band => ((ua &&& ub : Nat) : Int)
  | .bor => ((ua ||| ub : Nat) : Int)
  | .bxor => ((ua ^^^ ub : Nat) : Int)
  | .shl => shiftVal 0 fmt ua ub ((ua * 2 ^ (ub % w) : Nat) : Int)
  | .shr => shiftVal 1 fmt ua ub ((ua / 2 ^ (ub % w) : Nat) : Int)
  | .sar => shiftVal 2 fmt ua ub (toSigned w a / ((2 ^ (ub % w) : Nat) : Int))
  | .cmpEq => t (x == y)
  | .cmpNe => t (x != y)
  | .cmpLt => t (decide (toSigned w a < toSigned w b))
  | .cmpLtu => t (decide (ua < ub))
  | .reserved => 0

def scalarOk (op : ScalarOp) (w : IWord) : Bool :=
  op != .reserved && decide (w.fmt < 3) && rndOk w && modOk 0 w && sOk w.d &&
    (if op = .mov then thirdOkS w else sOk w.a && sOk w.b)

def effScalarArithmetic (g : Nat) (op : ScalarOp) (w : IWord) (s : State) : State :=
  s.issueOk g 0 none w (fun _ _ => scalarOk op w) fun s =>
    let x := s.group g
    let v := scalarOut w.fmt (Config.freeBits s.free).toNat (scalarVal op w.fmt (x.sget w.a) (x.sget w.b) (x.thirdS w))
    let s := { s with free := s.free + 1 }
    s.retire g 0 ((if x.exec w = 0 then x else x.sput w.d v).next w)
def execScalarArithmetic (g : Nat) (op : ScalarOp) (w : IWord) (s : State) : Out :=
  run (.scalarArithmetic g op w) s (effScalarArithmetic g op w s)

/-! ## Branches (R118 to R121, R131) -/

/-- A signed 32-bit byte offset of a literal, from the address of the branch. -/
def branchTo (pc off : Nat) : Nat := ofSigned 64 ((pc : Int) + toSigned 32 off)

/-- BB after a taken backward branch under `mask` (R131). -/
def Group.countBack (x : Group) (mask : Nat) : Group :=
  { x with bb := if x.lastBack = some mask then x.bb + 1 else 1, lastBack := some mask }

/-- A branch is backward when its target does not lie after it. -/
def Group.back (x : Group) (pc target mask : Nat) : Group := if target ≤ pc then x.countBack mask else x

/-- R118 with T and F from the executing lanes. -/
def Group.branch (x : Group) (len target rp taken : Nat) : Group :=
  let a := x.lanes
  let pc := x.pc
  let f := andNot a taken
  if f = 0 then (x.setPc target).back pc target a
  else if taken = 0 then x.setPc (pc + len)
  else
    let t : StackEnt := ⟨target, taken, rp⟩
    let n : StackEnt := ⟨(pc + len) % 2 ^ 64, f, rp⟩
    let takenFirst := decide (((bitList taken 64).headD 64) < (bitList f 64).headD 64)
    let x := x.setPc rp
    ({ x with stack := (if takenFirst then [t, n] else [n, t]) ++ x.stack }).back pc target a

/-- Both paths and the join fit the 32 entries of the stack (R121). -/
def Group.deep (x : Group) (n : Nat) : Bool := decide (32 < x.stack.length + n)

/-- BRANCH, and JUMP_INDIRECT, carry a literal (R115): a word without LIT is ILLEGAL_INSTRUCTION (DESIGN CHOICE, notes/assumptions/14). -/
def branchOk (w : IWord) : Bool := w.lit.isSome && decide (w.fmt < 7) && rndOk w && modOk 0 w

/-- BRANCH (R118); a lane's condition is that it executes under PRED and PNEG: DESIGN CHOICE, notes/assumptions/15. -/
def effBranch (g : Nat) (w : IWord) (s : State) : State :=
  s.issueOk g 0 none w (fun _ _ => branchOk w) fun s =>
    let x := s.group g
    let l := (w.lit.getD 0).toNat
    let target := branchTo x.pc (l % 2 ^ 32)
    let rp := branchTo x.pc (l / 2 ^ 32)
    let taken := x.exec w
    if taken ≠ 0 && target % 8 ≠ 0 then s.kfault g kfMISALIGNED target 1
    else if taken ≠ 0 && andNot x.lanes taken ≠ 0 && x.deep 2 then s.kfault g kfDEPTH
    else s.retire g 0 (x.branch (wordLen w) target rp taken)
def execBranch (g : Nat) (w : IWord) (s : State) : Out := run (.branch g w) s (effBranch g w s)

/-- The distinct targets of the active lanes with their masks, in ascending order of their lowest lane. -/
def targetsOf (f : Nat → Nat) : List Nat → List (Nat × Nat)
  | [] => []
  | l :: t =>
    let rest := targetsOf f t
    let pc := f l
    match rest.find? fun (e : Nat × Nat) => e.1 == pc with
    | some e => (pc, setBit e.2 l) :: rest.filter fun (e : Nat × Nat) => e.1 != pc
    | none => (pc, 2 ^ l) :: rest

/-- JUMP_INDIRECT without LIT is ILLEGAL_INSTRUCTION as BRANCH is (DESIGN CHOICE, notes/assumptions/14). -/
def jumpOk (vregs : Nat) (w : IWord) : Bool :=
  w.lit.isSome && decide (w.fmt < 7) && rndOk w && modOk 0 w && vOk vregs true w.a

/-- JUMP_INDIRECT (R119); what counts as its backward branch (R131): DESIGN CHOICE, notes/assumptions/15. -/
def effJumpIndirect (g : Nat) (w : IWord) (s : State) : State :=
  s.issueOk g 0 none w (fun _ k => jumpOk k.vregs w) fun s =>
    let x := s.group g
    let pc := x.pc
    let rp := branchTo pc ((w.lit.getD 0).toNat / 2 ^ 32)
    let lanes := x.exec w
    let off := andNot x.lanes lanes
    let ts := targetsOf (fun l => x.vgetD w.a l) (bitList lanes 64)
    -- lanes that a predicate excludes go on after the instruction
    let all := if off = 0 then ts else (ts ++ [((pc + wordLen w) % 2 ^ 64, off)])
    match ts.find? fun (e : Nat × Nat) => e.1 % 8 ≠ 0 with
    | some e => s.kfault g kfMISALIGNED e.1 1
    | none =>
      if ts = [] then s.retire g 0 (x.next w)
      else if x.deep all.length then s.kfault g kfDEPTH
      else
        let low := fun (e : Nat × Nat) => (bitList e.2 64).headD 64
        let order := (List.range 64).filterMap fun l => all.find? fun e => low e == l
        let y := x.setPc rp
        let y := { y with stack := (order.map fun (e : Nat × Nat) => (⟨e.1, e.2, rp⟩ : StackEnt)) ++ y.stack }
        s.retire g 0 (if ts.any fun (e : Nat × Nat) => decide (e.1 ≤ pc) then y.countBack x.lanes else y)
def execJumpIndirect (g : Nat) (w : IWord) (s : State) : Out := run (.jumpIndirect g w) s (effJumpIndirect g w s)

/-- END: the lanes leave every entry; entries left empty are popped (R120). -/
def Group.endLanes (x : Group) (w : IWord) : Group :=
  let m := x.exec w
  let y := x.next w
  { y with stack := (y.stack.map fun e => { e with mask := andNot e.mask m }).filter fun e => e.mask != 0 }

/-- The resident groups of a team. -/
def State.teamGroups (s : State) (k t : Nat) : List (Nat × Group) :=
  s.groups.filter fun (e : Nat × Group) => e.2.live && e.2.kernel == k && e.2.team == t

/-- The group leaves its slot, and its team its scratch with the last group; the kernel counts the group (R143). -/
def State.groupEnd (s : State) (g : Nat) : State :=
  let k := (s.group g).kernel
  let t := (s.group g).team
  let s := (s.setGroup g {}).setKernel k { s.kernel k with ended := (s.kernel k).ended + 1 }
  if s.teamGroups k t = [] then s.setTeam (k * 2 ^ 40 + t) {} else s

def endOk (w : IWord) : Bool := decide (w.fmt < 7) && rndOk w && modOk 0 w

def effEndInstr (g : Nat) (w : IWord) (s : State) : State :=
  s.issueOk g 0 none w (fun _ _ => endOk w) fun s =>
    let x := (s.group g).endLanes w
    let s := s.retire g 0 x
    if x.stack = [] then s.groupEnd g else s
def execEndInstr (g : Nat) (w : IWord) (s : State) : Out := run (.endInstr g w) s (effEndInstr g w s)

/-! ## Vector integer (class 1, R178) -/

def vintCmp : VIntOp → Bool
  | .cmpEq | .cmpNe | .cmpLt | .cmpLe => true
  | _ => false

/-- One lane's result; a right shift keeps the sign of a signed format. -/
def vintVal (op : VIntOp) (fmt a b c : Nat) : Nat :=
  let w := fmtWidth fmt
  let x := fmtInt fmt a
  let y := fmtInt fmt b
  match op with
  | .mov => c % 2 ^ w
  | .add => (a + b) % 2 ^ w
  | .sub => ofSigned w (x - y)
  | .mul => a * b % 2 ^ w
  | .shl => ofSigned w (shiftVal 0 fmt a b ((a * 2 ^ (b % w) : Nat) : Int))
  | .shr => ofSigned w (shiftVal (if fmtSigned fmt then 2 else 1) fmt a b (x / ((2 ^ (b % w) : Nat) : Int)))
  | .band => a &&& b
  | .bor => a ||| b
  | .bxor => a ^^^ b
  | .minimum => if x ≤ y then a else b
  | .maximum => if x ≤ y then b else a
  | _ => 0

def vintOk (vregs : Nat) (op : VIntOp) (w : IWord) : Bool :=
  let wide := w.fmt == 2
  op != .reserved && decide (w.fmt < 3) && rndOk w && modOk 0 w &&
    (if vintCmp op then pOk w.d else vOk vregs wide w.d) &&
    (if op = .mov then thirdOkV vregs wide w else vOk vregs wide w.a && vOk vregs wide w.b)

def effVectorInteger (g : Nat) (op : VIntOp) (w : IWord) (s : State) : State :=
  s.issueOk g 1 none w (fun _ k => vintOk k.vregs op w) fun s =>
    let x := s.group g
    let wide := w.fmt == 2
    let m := x.exec w
    let a := fun l => x.vgetW wide w.a l
    let b := fun l => x.vgetW wide w.b l
    let y := if vintCmp op then x.compare w.d m fun l => intRel op (fmtInt w.fmt (a l)) (fmtInt w.fmt (b l))
      else x.mapLanes wide w.d m fun l => vintVal op w.fmt (a l) (b l) (x.thirdV wide w l)
    s.retire g 1 (y.next w)
def execVectorInteger (g : Nat) (op : VIntOp) (w : IWord) (s : State) : Out :=
  run (.vectorInteger g op w) s (effVectorInteger g op w s)

/-! ## Vector floating (class 2, R174 to R178) -/

def vfloatIsCmp : VFloatOp → Bool
  | .cmpEq | .cmpNe | .cmpLt | .cmpLe => true
  | _ => false

/-- The format of a floating FMT. -/
def floatFmt (fmt : Nat) : FFmt := if fmt = 3 then fB32 else if fmt = 4 then fB64 else if fmt = 5 then fB16 else fW16

/-- Rounding mode of an instruction: RND, or RMODE of the kernel's mode (R175). -/
def roundMode (k : Kernel) (w : IWord) : Nat := if w.rnd = 0 then bitsOf k.mode 3 2 else w.rnd - 1

/-- FLUSH of the kernel's mode. -/
def Kernel.flush (k : Kernel) : Bool := bitOf k.mode 5

/-- One lane's result; a packed pair is two elements. -/
def vfloatLane (fmt mode : Nat) (flush : Bool) (op : VFloatOp) (a b c : Nat) : Nat :=
  let f := floatFmt fmt
  if fmt < 5 then vfloatElem f mode flush op a b c
  else
    let e := fun h => vfloatElem f mode flush op (bitsOf a (16 * h) 16) (bitsOf b (16 * h) 16) (bitsOf c (16 * h) 16)
    e 0 + e 1 * 2 ^ 16

def vfloatOk (vregs : Nat) (op : VFloatOp) (w : IWord) : Bool :=
  let wide := w.fmt == 4
  op != .reserved && decide (3 ≤ w.fmt) && decide (w.fmt < (if vfloatIsCmp op then 5 else 7)) && rndOk w && modOk 0 w &&
    (if vfloatIsCmp op then pOk w.d else vOk vregs wide w.d) && vOk vregs wide w.a && vOk vregs wide w.b &&
    (op != .fma || thirdOkV vregs wide w)

def effVectorFloating (g : Nat) (op : VFloatOp) (w : IWord) (s : State) : State :=
  s.issueOk g 2 none w (fun _ k => vfloatOk k.vregs op w) fun s =>
    let x := s.group g
    let k := s.kernelOf g
    let wide := w.fmt == 4
    let m := x.exec w
    let a := fun l => x.vgetW wide w.a l
    let b := fun l => x.vgetW wide w.b l
    let y := if vfloatIsCmp op then x.compare w.d m fun l => vfloatCmp (floatFmt w.fmt) k.flush op (a l) (b l)
      else x.mapLanes wide w.d m fun l => vfloatLane w.fmt (roundMode k w) k.flush op (a l) (b l) (x.thirdV wide w l)
    s.retire g 2 (y.next w)
def execVectorFloating (g : Nat) (op : VFloatOp) (w : IWord) (s : State) : Out :=
  run (.vectorFloating g op w) s (effVectorFloating g op w s)

/-! ## Special functions (class 3, R179) -/

def sfuCode : SfuOp → Nat
  | .rcp => 0 | .sqrt => 1 | .rsqrt => 2 | .exp2 => 3 | .log2 => 4 | .sin => 5 | .cos => 6 | .reserved => 7

/-- Which free value stands for an operation on an input: one for each (R188: one result for given inputs on every unit). -/
def sfuKey (op : SfuOp) (x : Nat) : Nat := 2 ^ 100 + sfuCode op * 2 ^ 32 + x

def sfuOk' (vregs : Nat) (op : SfuOp) (w : IWord) : Bool :=
  op != .reserved && w.fmt == 3 && w.rnd == 0 && modOk 0 w && vOk vregs false w.d && vOk vregs false w.a

def effSpecialFunction (g : Nat) (op : SfuOp) (w : IWord) (s : State) : State :=
  s.issueOk g 3 none w (fun _ k => sfuOk' k.vregs op w) fun s =>
    let x := s.group g
    let k := s.kernelOf g
    s.retire g 3 ((x.mapLanes false w.d (x.exec w) fun l =>
      sfuElem op k.flush (sfuKey op (flushIn fB32 k.flush (x.vget w.a l))) (x.vget w.a l)).next w)
def execSpecialFunction (g : Nat) (op : SfuOp) (w : IWord) (s : State) : Out :=
  run (.specialFunction g op w) s (effSpecialFunction g op w s)

/-! ## Conversion (class 4, R180 to R182) -/

def cvtCodeOk (c : Nat) : Bool := decide (c < 13) && c != 7

/-- A position within the elements of a 32-bit register. -/
def cvtPosOk (code pos : Nat) : Bool := if 32 ≤ codeWidth code then pos == 0 else decide (pos < 32 / max (codeWidth code) 1)

def cvtOk (vregs op : Nat) (w : IWord) : Bool :=
  let dst := op % 16
  let src := op / 16 % 16
  decide (op < 256) && w.fmt == 0 && rndOk w && cvtCodeOk dst && cvtCodeOk src && (dst != 12 || src == 1) && (src != 12 || dst == 1) &&
    cvtPosOk src (w.mod % 8) && cvtPosOk dst (w.mod / 8 % 8) &&
    vOk vregs (codeWidth dst == 64) w.d && vOk vregs (codeWidth src == 64) w.a

/-- D after one element is converted from A. -/
def cvtLane (op mode : Nat) (w : IWord) (a d : Nat) : Nat :=
  let dst := op % 16
  let src := op / 16 % 16
  let v := cvtElem dst src mode (bitOf w.mod 6) (bitsOf a (w.mod % 8 * codeWidth src) (codeWidth src))
  if 32 ≤ codeWidth dst then v else setBits d (w.mod / 8 % 8 * codeWidth dst) (codeWidth dst) v

def effCvt (g op : Nat) (w : IWord) (s : State) : State :=
  s.issueOk g 4 (some op) w (fun _ k => cvtOk k.vregs op w) fun s =>
    let x := s.group g
    let k := s.kernelOf g
    let wd := codeWidth (op % 16) == 64
    let ws := codeWidth (op / 16 % 16) == 64
    s.retire g 4 ((x.mapLanes wd w.d (x.exec w) fun l => cvtLane op (roundMode k w) w (x.vgetW ws w.a l) (x.vgetW wd w.d l)).next w)
def execCvt (g op : Nat) (w : IWord) (s : State) : Out := run (.cvt g op w) s (effCvt g op w s)

/-! ## Cross-lane (class 5, R122, R123) -/

/-- The source lane of lane i in a segment of W lanes (Table 4-7): `b` is lane i's operand B, `n` the scalar operand. -/
def shflSrc (op : ShflOp) (w i b n : Nat) : Nat :=
  let base := i - i % w
  let src : Option Nat := match op with
    | .idx => some (base + b % w)
    | .up => if base + n ≤ i then some (i - n) else none
    | .down => if i + n < base + w then some (i + n) else none
    | .xor => if n < w then some (i ^^^ n) else none
    | .bcast => if n < w then some (base + n) else none
    | .reserved => none
  src.getD i

def shflOk (vregs : Nat) (op : ShflOp) (w : IWord) : Bool :=
  let wide := w.fmt == 2 || w.fmt == 4
  op != .reserved && decide (w.fmt < 7) && rndOk w && decide (1 ≤ w.mod) && decide (w.mod ≤ 6) && vOk vregs wide w.d && vOk vregs wide w.a &&
    (if op = .idx then vOk vregs false w.b else thirdOkS w)

def effShfl (g : Nat) (op : ShflOp) (w : IWord) (s : State) : State :=
  s.issueOk g 5 none w (fun _ k => shflOk k.vregs op w) fun s =>
    let x := s.group g
    let wide := w.fmt == 2 || w.fmt == 4
    let seg := 2 ^ w.mod
    s.retire g 5 ((x.mapLanes wide w.d (x.exec w) fun l =>
      x.vgetW wide w.a (shflSrc op seg l (x.vget w.b l) (x.thirdS w))).next w)
def execShfl (g : Nat) (op : ShflOp) (w : IWord) (s : State) : Out := run (.shfl g op w) s (effShfl g op w s)

def voteOk (vregs : Nat) (op : VoteOp) (w : IWord) : Bool :=
  op != .reserved && decide (w.fmt < 7) && rndOk w && modOk 3 w &&
    (if op = .matchMask then vOk vregs true w.d && vOk vregs false w.b else sOk w.d && pOk w.a)

/-- The scalar result of a vote over the lanes `m` with the predicate's bits `q` (Table 4-8). -/
def voteVal (op : VoteOp) (m q : Nat) : Nat :=
  let h := m &&& q
  match op with
  | .all => b2n (h == m)
  | .any => b2n (h != 0)
  | .ballot => h
  | .count => popCount h 64
  | .first => (bitList h 64).headD 64
  | _ => 0

def effVote (g : Nat) (op : VoteOp) (w : IWord) (s : State) : State :=
  s.issueOk g 5 none w (fun _ k => voteOk k.vregs op w) fun s =>
    let x := s.group g
    let m := x.exec w
    let y := if op = .matchMask then x.mapLanes true w.d m fun l => lanesWhere m fun j => x.vget w.b j == x.vget w.b l
      else x.sput w.d (voteVal op m (x.pget w.a))
    s.retire g 5 (y.next w)
def execVote (g : Nat) (op : VoteOp) (w : IWord) (s : State) : Out := run (.vote g op w) s (effVote g op w s)

/-! ## Synchronisation (class 10, R126, R128, R145) -/

/-- Synchronisation and special instructions; their classes use the low two bits of MOD, for MEMBAR's scope and a counter's number. -/
def syncOk (n : Nat) (w : IWord) : Bool := decide (w.fmt < 7) && rndOk w && modOk n w

def effBar (g : Nat) (w : IWord) (s : State) : State :=
  s.issueOk g 10 none w (fun _ _ => syncOk 2 w) fun s => s.retire g 10 { (s.group g).next w with wait := .barrier }
def execBar (g : Nat) (w : IWord) (s : State) : Out := run (.bar g w) s (effBar g w s)

/-- When every group of the team waits at the barrier or has ended, all go on (R128). -/
def effBarRelease (k t : Nat) (s : State) : State :=
  let l := s.teamGroups k t
  if l != [] && l.all fun (e : Nat × Group) => e.2.wait == .barrier then
    { s with groups := s.groups.map fun (e : Nat × Group) =>
        if e.2.live && e.2.kernel == k && e.2.team == t then (e.1, { e.2 with wait := .none }) else e }
  else s
def execBarRelease (k t : Nat) (s : State) : Out := run (.barRelease k t) s (effBarRelease k t s)

/-- MEMBAR (R126): TEAM carries the unit's dirty bytes to the cluster; PARTITION carries both caches' to the coherent domain. The first
write-back that was not performed (R251, R195). -/
def State.membar (s : State) (g : Nat) (part : Bool) : Option (MErr × Nat) × State :=
  let u := unitOf g
  let p := (s.kernelOf g).part
  let (a, s) := s.flushUnits fun c => c == u
  if part then
    let (b, s) := s.flushClusters fun c => c == clusterOf u
    (s.dropClean fun c => c == u || c == clNear (clusterOf u)).lost g p (a ++ b)
  else (s.dropClean fun c => c == u).lost g p a

/-- MEMBAR (R126); one with the reserved scope 2 or 3 is ILLEGAL_INSTRUCTION (DESIGN CHOICE, notes/assumptions/14). -/
def effMembar (g : Nat) (w : IWord) (s : State) : State :=
  s.issueOk g 10 none w (fun _ _ => syncOk 1 w) fun s =>
    match s.membar g (w.mod == 1) with
    | (none, s) => s.retire g 10 ((s.group g).next w)
    | (some (e, pa), s) => s.groupMemErr g e pa 2
def execMembar (g : Nat) (w : IWord) (s : State) : Out := runR (.membar g w) s (effMembar g w s)

/-- TRAP executed by any active lane (Table 4-15); where its code stands: DESIGN CHOICE, notes/assumptions/15. -/
def effTrap (g : Nat) (w : IWord) (s : State) : State :=
  s.issueOk g 10 none w (fun _ _ => syncOk 2 w && thirdOkS w) fun s =>
    let x := s.group g
    if x.exec w = 0 then s.retire g 10 (x.next w) else s.kfault g kfTRAP 0 0 0 (x.thirdS w % 2 ^ 32)
def execTrap (g : Nat) (w : IWord) (s : State) : Out := run (.trap g w) s (effTrap g w s)

/-! ## System (class 11) -/

/-- An instruction that writes one value to s[D] when any lane executes. -/
def State.writeS (s : State) (g : Nat) (w : IWord) (v : Nat) : State :=
  let x := s.group g
  s.retire g 11 ((if x.exec w = 0 then x else x.sput w.d v).next w)

def effTimerd (g : Nat) (w : IWord) (s : State) : State :=
  s.issueOk g 11 none w (fun _ _ => syncOk 2 w && sOk w.d) fun s => s.writeS g w s.now
def execTimerd (g : Nat) (w : IWord) (s : State) : Out := run (.timerd g w) s (effTimerd g w s)

def effLaneid (g : Nat) (w : IWord) (s : State) : State :=
  s.issueOk g 11 none w (fun _ k => syncOk 2 w && vOk k.vregs false w.d) fun s =>
    let x := s.group g
    s.retire g 11 ((x.mapLanes false w.d (x.exec w) fun l => l).next w)
def execLaneid (g : Nat) (w : IWord) (s : State) : Out := run (.laneid g w) s (effLaneid g w s)

def effUnitid (g : Nat) (w : IWord) (s : State) : State :=
  s.issueOk g 11 none w (fun _ _ => syncOk 2 w && sOk w.d) fun s => s.writeS g w (unitOf g)
def execUnitid (g : Nat) (w : IWord) (s : State) : Out := run (.unitid g w) s (effUnitid g w s)

def effCounterRead (g : Nat) (w : IWord) (s : State) : State :=
  s.issueOk g 11 none w (fun _ _ => syncOk 2 w && sOk w.d) fun s => s.writeS g w (s.f .CTR_UVAL_VALUE (4 * unitOf g + w.mod))
def execCounterRead (g : Nat) (w : IWord) (s : State) : Out := run (.counterRead g w) s (effCounterRead g w s)

/-- The first word is of a reserved class, or of a class with an OP reserved in it: in class 9 every OP but 0 to 2 (R147). -/
def speltReserved (cls : Nat) (b : Bytes) : Bool :=
  let x := leNat b
  x % 16 == cls && (cls != 9 || decide (3 ≤ bitsOf x 4 10))

/-- A reserved class or OP (R116, R147). -/
def effReservedClass (g cls : Nat) (s : State) : State :=
  s.issue g 8 (speltReserved cls) fun s => s.kfault g kfILLEGAL
def execReservedClass (g cls : Nat) (s : State) : Out := runIf (okReserved g cls) s (effReservedClass g cls s)

/-! ## Forced yield and stalemate (R131 to R133) -/

/-- The running path exchanged with the nearest entry below that has its reconvergence point; `none` without one. -/
def swapSibling (l : List StackEnt) : Option (List StackEnt) :=
  match l with
  | [] => none
  | t :: rest =>
    match rest.findIdx? fun e => e.rpc == t.rpc with
    | some i => (rest[i]?).map fun e => e :: rest.set i t
    | none => none

def effForcedYield (g : Nat) (s : State) : State :=
  let x := s.group g
  let k := s.kernel x.kernel
  if !x.live || !k.live || x.bb < k.yieldCount || 2 ^ 24 ≤ x.fy || !(x.wait == .none) then s
  else
    let x := { x.atFetch with bb := 0, fy := x.fy + 1 }
    let x := match (if x.stack.length ≤ 1 then none else swapSibling x.stack) with
      | some l => { x with stack := l }
      | none => { x with order := s.lastPlace (unitOf g) }
    (s.setGroup g x).evUnit (unitOf g) 0x07 0 1
def execForcedYield (g : Nat) (s : State) : Out := run (.forcedYield g) s (effForcedYield g s)

def effStalemate (g : Nat) (s : State) : State :=
  let x := s.group g
  let k := s.kernel x.kernel
  if x.live && k.live && decide (2 ^ 24 ≤ x.fy) && x.wait == .none && k.phase == .running then s.kfault g kfSTALEMATE else s
def execStalemate (g : Nat) (s : State) : Out := run (.stalemate g) s (effStalemate g s)

end Sys2Proof.Machine
end

