-- ==== Sys2Proof/Machine/GroupMem.lean ====
section
/-!
DEFINITION. Instructions of classes 6, 7 and 8 (R124, R127, R129 to R131, R281): LD, ST, LDS, STS, ATOM and ATOMS.
-/

namespace Sys2Proof.Machine

open Sys2Proof

/-! ## LD and ST (R124) -/

def widthOk (n : Nat) : Bool := n == 1 || n == 2 || n == 4 || n == 8 || n == 16

/-- The registers that a value of `n` bytes takes from d on. -/
def dataOk (vregs n d : Nat) : Bool := if n = 16 then d % 2 == 0 && decide (d + 3 < vregs) else vOk vregs (n == 8) d

/-- Address of a lane: s[A] plus the v pair B. -/
def Group.laneAddr (x : Group) (w : IWord) (l : Nat) : Nat := (x.sget w.a + x.vgetD w.b l) % 2 ^ 64

/-- The accesses of the executing lanes. -/
def Group.laneAccs (x : Group) (w : IWord) (n : Nat) (addr : Nat → Nat) : List Acc :=
  (bitList (x.exec w) 64).map fun l => ⟨l, addr l, n⟩

/-- The first address that is not naturally aligned. -/
def misaligned (l : List Acc) : Option Nat := (l.find? fun a => a.va % a.len ≠ 0).map (·.va)

def addrOk (vregs : Nat) (w : IWord) : Bool := sOk w.a && vOk vregs true w.b

/-- LD; any FMT below 7 is accepted, here and by ST, LDS, STS, ATOM and ATOMS (DESIGN CHOICE, notes/assumptions/14). -/
def ldOk (vregs n : Nat) (w : IWord) : Bool :=
  widthOk n && decide (w.fmt < 7) && rndOk w && modOk 2 w && dataOk vregs n w.d && addrOk vregs w

def effLd (g n : Nat) (w : IWord) (s : State) : State :=
  s.issueOk g 6 none w (fun _ k => ldOk k.vregs n w) fun s =>
    let x := s.group g
    let accs := x.laneAccs w n (x.laneAddr w)
    match misaligned accs with
    | some a => s.kfault g kfMISALIGNED a 1 1
    | none => s.loadRegs g 6 w w.d w.mod accs
def execLd (g n : Nat) (w : IWord) (s : State) : Out := runR (.ld g n w) s (effLd g n w s)

/-- What a lane stores: `n` bytes of register C on, or of the literal; `hi` are the bytes above a literal. -/
def Group.laneData (x : Group) (w : IWord) (n hi l : Nat) : Bytes :=
  match w.lit with
  | some v => leBytes n (v.toNat + hi * 2 ^ 64)
  | none => leBytes n (x.vget w.c l + (if 8 ≤ n then x.vget (w.c + 1) l * 2 ^ 32 else 0) +
      (if n = 16 then x.vgetD (w.c + 2) l * 2 ^ 64 else 0))

def stOk (vregs n : Nat) (w : IWord) : Bool :=
  widthOk n && decide (w.fmt < 7) && rndOk w && modOk 2 w && (w.lit.isSome || dataOk vregs n w.c) && addrOk vregs w

def effSt (g n : Nat) (w : IWord) (s : State) : State :=
  s.issueOk g 6 none w (fun _ k => stOk k.vregs n w) fun s =>
    let x := s.group g
    let accs := x.laneAccs w n (x.laneAddr w)
    match misaligned accs with
    | some a => s.kfault g kfMISALIGNED a 1 2
    | none =>
      let (hi, s) := s.takeFree
      s.storePieces g 6 w w.mod accs fun a => x.laneData w n hi a.lane
def execSt (g n : Nat) (w : IWord) (s : State) : Out := runR (.st g n w) s (effSt g n w s)

/-! ## LDS and STS (R127) -/

def ldsOk (vregs n : Nat) (w : IWord) : Bool :=
  widthOk n && decide (w.fmt < 7) && rndOk w && modOk 0 w && dataOk vregs n w.d && addrOk vregs w

def effLds (g n : Nat) (w : IWord) (s : State) : State :=
  s.issueOk g 7 none w (fun _ k => ldsOk k.vregs n w) fun s =>
    let x := s.group g
    let accs := x.laneAccs w n (x.laneAddr w)
    match s.scratchCheck g 1 accs with
    | some s => s
    | none =>
      let t := s.teamOf g
      let (ws, s) := s.allLaneRegs w.d (accs.map fun a => (a, s.scratchBytes t a.va a.len))
      s.groupRemote g 7 w ws [] fun s _ _ => s
def execLds (g n : Nat) (w : IWord) (s : State) : Out := run (.lds g n w) s (effLds g n w s)

def stsOk (vregs n : Nat) (w : IWord) : Bool :=
  widthOk n && decide (w.fmt < 7) && rndOk w && modOk 0 w && (w.lit.isSome || dataOk vregs n w.c) && addrOk vregs w

def effSts (g n : Nat) (w : IWord) (s : State) : State :=
  s.issueOk g 7 none w (fun _ k => stsOk k.vregs n w) fun s =>
    let x := s.group g
    let accs := x.laneAccs w n (x.laneAddr w)
    match s.scratchCheck g 2 accs with
    | some s => s
    | none =>
      let t := s.teamOf g
      let (hi, s) := s.takeFree
      let s := accs.foldl (fun s a => s.scratchPut t a.va (x.laneData w n hi a.lane)) s
      let s := s.storeDone g
      s.retire g 7 ((s.group g).next w)
def execSts (g n : Nat) (w : IWord) (s : State) : Out := run (.sts g n w) s (effSts g n w s)

/-! ## ATOM and ATOMS (R129, R130) -/

def atomOk (vregs n : Nat) (op : AtomOp) (w : IWord) : Bool :=
  op != .reserved && (n == 4 || (n == 8 && op != .fadd)) && decide (w.fmt < 7) && rndOk w && modOk 0 w &&
    vOk vregs (n == 8) w.d && vOk vregs true w.a && vOk vregs (n == 8) w.b && (op != .cas || thirdOkV vregs (n == 8) w)

/-- Operands B and C of a lane. -/
def Group.atomB (x : Group) (w : IWord) (n l : Nat) : Nat := x.vgetW (n == 8) w.b l
def Group.atomC (x : Group) (w : IWord) (n l : Nat) : Nat := x.thirdV (n == 8) w l

/-- The pieces granule by granule, each granule's in lane order. -/
def atomGroups (l : List (Acc × Nat)) : List (List (Acc × Nat)) :=
  ((l.map fun e => e.2 / 64).eraseDups).map fun gr => l.filter fun e => e.2 / 64 == gr

/-- What the prior value `v` of a lane's word leaves: near copies that hold the word take the new value (R282), and the lane's registers from
d on the prior one; and whether the word was written. -/
def State.atomLaneDone (s : State) (g : Nat) (op : AtomOp) (d : Nat) (b c : Nat → Nat) (a : Acc) (pa v : Nat) : List (Nat × Nat) × Bool × State :=
  let (nv, hit) := atomApply op (8 * a.len) v (b a.lane) (c a.lane)
  let u := unitOf g
  ((List.range (a.len / 4)).map fun i => (64 * (d + i) + a.lane, bitsOf v (32 * i) 32), hit,
    if hit then (s.patchNear u pa (leBytes a.len nv)).patchNear (clNear (clusterOf u)) pa (leBytes a.len nv) else s)

/-- The lanes in this module act, those of one granule by one Atomic to its home, in ascending order (R130, R281): prior values as register
lanes of d, and whether a word was written; or the first error. -/
def State.atomPieces (s : State) (g part : Nat) (op : AtomOp) (d : Nat) (b c : Nat → Nat) :
    List (List (Acc × Nat)) → Bool → Except (MErr × Nat) (List (Nat × Nat) × Bool) × State
  | [], wr => (.ok ([], wr), s)
  | l :: t, wr =>
    let pa := (l.headD (⟨0, 0, 0⟩, 0)).2
    match s.atomLanesPhys (some part) pa (l.map fun (a, q) => atomLane q a.len op (b a.lane) (c a.lane)) with
    | (.error e, s) => (.error e, s)
    | (.ok ps, s) =>
      let (r, hit, s) := (l.zip ps).foldl (fun (acc : List (Nat × Nat) × Bool × State) (x : (Acc × Nat) × Nat) =>
        let (r, hit, s) := acc.2.2.atomLaneDone g op d b c x.1.1 x.1.2 x.2
        (acc.1 ++ r, acc.2.1 || hit, s)) ([], false, s)
      match s.atomPieces g part op d b c t (wr || hit) with
      | (.ok (rs, w), s) => (.ok (r ++ rs, w), s)
      | (.error e, s) => (.error e, s)

def effAtom (g : Nat) (op : AtomOp) (n : Nat) (w : IWord) (s : State) : State :=
  s.issueOk g 8 none w (fun _ k => atomOk k.vregs n op w && (op != .fadd || bitOf (s.f .ID_FEAT_FEAT) 2)) fun s =>
    let x := s.group g
    let accs := x.laneAccs w n (x.vgetD w.a)
    match misaligned accs with
    | some a => s.kfault g kfMISALIGNED a 1 4
    | none =>
      match s.groupXlate g 4 accs with
      | (none, s) => s
      | (some l, s) =>
        let rem := remoteOf l
        match s.atomPieces g (s.kernelOf g).part op w.d (x.atomB w n) (x.atomC w n) (atomGroups (localOf l)) false with
          | (.error (e, pa), s) => s.groupMemErr g e pa 4
          | (.ok (ws, hit), s) =>
            let s := if hit || (rem != [] && op != .cas) then s.storeDone g else s
            s.groupRemote g 8 w ws rem fun s h (a, l) =>
              let b := x.atomB w n a.lane
              s.sendReq h l 3 n (codeOfAtom op + (if n = 8 then 16 else 0)) false false (leBytes 8 b ++ leBytes 8 (x.atomC w n a.lane))
                (.group g a.lane w.d n (if op = .cas then b % 2 ^ (8 * n) + 1 else 0)) none a.va
def execAtom (g : Nat) (op : AtomOp) (n : Nat) (w : IWord) (s : State) : Out := runR (.atom g op n w) s (effAtom g op n w s)

/-- The lanes' operations on scratch words, in ascending order. -/
def State.atomScratch (s : State) (t : Team) (op : AtomOp) (d : Nat) (b c : Nat → Nat) : List Acc → Bool → List (Nat × Nat) × Bool × State
  | [], wr => ([], wr, s)
  | a :: l, wr =>
    let v := leNat (s.scratchBytes t a.va a.len)
    let (nv, hit) := atomApply op (8 * a.len) v (b a.lane) (c a.lane)
    let s := if hit then s.scratchPut t a.va (leBytes a.len nv) else s
    let r := (List.range (a.len / 4)).map fun i => (64 * (d + i) + a.lane, bitsOf v (32 * i) 32)
    let (rs, w, s) := s.atomScratch t op d b c l (wr || hit)
    (r ++ rs, w, s)

def effAtoms (g : Nat) (op : AtomOp) (n : Nat) (w : IWord) (s : State) : State :=
  s.issueOk g 8 none w (fun _ k => atomOk k.vregs n op w) fun s =>
    let x := s.group g
    let accs := x.laneAccs w n (x.vgetD w.a)
    match misaligned accs with
    | some a => s.kfault g kfMISALIGNED a 1 4
    | none =>
      match s.scratchCheck g 4 accs with
      | some s => s
      | none =>
        let (ws, hit, s) := s.atomScratch (s.teamOf g) op w.d (x.atomB w n) (x.atomC w n) accs false
        let s := if hit then s.storeDone g else s
        s.groupRemote g 8 w ws [] fun s _ _ => s
def execAtoms (g : Nat) (op : AtomOp) (n : Nat) (w : IWord) (s : State) : Out := run (.atoms g op n w) s (effAtoms g op n w s)

end Sys2Proof.Machine
end

