-- ==== Sys2Proof/Machine/Matrix.lean ====
section
/-!
DEFINITION. The matrix class (R147 to R163): MMA with its layouts, formats and accumulation, MLD and MST.
-/

namespace Sys2Proof.Machine

open Sys2Proof

/-! ## Fields shared by the class (R148, R162, R163) -/

/-- FMT, RND, PRED and PNEG are 0. -/
def matrixPlain (w : IWord) : Bool := w.fmt == 0 && w.rnd == 0 && w.pred == 0 && !w.pneg

/-- Encoding, then the full mask, then the instruction. -/
def State.issueMatrix (s : State) (g op : Nat) (w : IWord) (ok : Kernel → Bool) (body : State → State) : State :=
  s.issueOk g 9 (some op) w (fun _ k => matrixPlain w && ok k) fun s =>
    if (s.group g).lanes = fullMask then body s else s.kfault g kfPARTIAL

/-- Registers a, a + n and b, b + m do not meet. -/
def regsApart (a n b m : Nat) : Bool := decide (a + n ≤ b) || decide (b + m ≤ a)

/-- Depth and register count of an input format (Table 5-3). -/
def mmaK (fmt : Nat) : Nat := [4, 8, 32, 32, 64, 64, 64, 128].getD fmt 4
def mmaRegs (fmt : Nat) : Nat := if fmt < 2 then 4 else 8
def mmaAccRegs (fmt : Nat) : Nat := if fmt = 0 then 32 else 16

/-- Element width in bits of an input format. -/
def mmaBits (fmt : Nat) : Nat := [64, 32, 16, 16, 8, 8, 8, 4].getD fmt 32

/-- Element q of lane t of an operand whose first register is b (Table 5-4). -/
def Group.operand (x : Group) (bits b t q : Nat) : Nat :=
  if bits = 64 then x.vgetD (b + 2 * q) t
  else
    let per := 32 / bits
    bitsOf (x.vget (b + q / per) t) (bits * (q % per)) bits

/-- Element k' of a line of an operand (R152). -/
def Group.lineElem (x : Group) (fmt b line k' : Nat) : Nat :=
  let half := mmaK fmt / 2
  x.operand (mmaBits fmt) b (2 * line + k' / half) (k' % half)

/-- Element of row i, column j of an accumulator whose first register is d (R153). -/
def Group.accElem (x : Group) (wide : Bool) (d i j : Nat) : Nat :=
  x.vgetW wide (d + (if wide then 2 else 1) * (j % 16)) (2 * i + j / 16)

/-! ## MMA (R149 to R157) -/

def mmaOk (vregs : Nat) (w : IWord) : Bool :=
  let fmt := w.mod % 8
  let n := mmaRegs fmt
  let m := mmaAccRegs fmt
  let zero := bitOf w.mod 4
  modOk 5 w && (!bitOf w.mod 3 || fmt == 4 || fmt == 5) && w.a % n == 0 && w.b % n == 0 && w.d % 16 == 0 &&
    decide (w.a + n ≤ vregs) && decide (w.b + n ≤ vregs) && decide (w.d + m ≤ vregs) && regsApart w.d m w.a n && regsApart w.d m w.b n &&
    (if fmt = 7 then decide (w.c < vregs) && regsApart w.d m w.c 1
     else if zero then w.c == 0
     else w.c % 16 == 0 && decide (w.c + m ≤ vregs) && (w.c == w.d || regsApart w.d m w.c m))

/-- Float formats of A and B. -/
def mmaFmts (mod : Nat) : FFmt × FFmt :=
  let alt := bitOf mod 3
  match mod % 8 with
  | 0 => (fB64, fB64)
  | 1 => (fB32, fB32)
  | 2 => (fB16, fB16)
  | 3 => (fW16, fW16)
  | 4 => (fE4M3, if alt then fE5M2 else fE4M3)
  | 5 => (fE5M2, if alt then fE4M3 else fE5M2)
  | _ => (fE2M1, fE2M1)

/-- The block sum P(b) of MXFP4 (R155), rounded to binary32 where it lies beyond its range. -/
def Group.blockSum (x : Group) (w : IWord) (i j b : Nat) : FVal :=
  let scale := fun line sh => bitsOf (x.vget w.c (2 * line + b / 2)) (sh + 8 * (b % 2)) 8
  let sa := scale i 0
  let sb := scale j 16
  if sa = 255 || sb = 255 then .nan
  else
    let sum := (List.range 32).foldl (fun acc q =>
      addX 0 acc (mulX (unpackF fE2M1 (x.lineElem 7 w.a i (32 * b + q))) (unpackF fE2M1 (x.lineElem 7 w.b j (32 * b + q)))))
      (.fin false 0 0)
    unpackF fB32 (roundF fB32 0 false false (mulX sum (.fin false 1 ((sa : Int) + sb - 254))))

/-- The terms that are added to the base: exact products, or the four block sums (R186). -/
def Group.mmaTerms (x : Group) (w : IWord) (i j : Nat) : List FVal :=
  let fmt := w.mod % 8
  if fmt = 7 then (List.range 4).map fun b => x.blockSum w i j b
  else
    let (fa, fb) := mmaFmts w.mod
    (List.range (mmaK fmt)).map fun k => mulX (unpackF fa (x.lineElem fmt w.a i k)) (unpackF fb (x.lineElem fmt w.b j k))

/-- D[i][j]; `ctr` is the element's free value. -/
def Group.mmaElem (x : Group) (w : IWord) (ctr i j : Nat) : Nat :=
  let fmt := w.mod % 8
  let zero := bitOf w.mod 4
  let src := if fmt = 7 then w.d else w.c
  let base := if zero then 0 else x.accElem (fmt == 0) src i j
  if fmt = 6 then
    let sum := (List.range 64).foldl (fun acc k => acc + toSigned 8 (x.lineElem 6 w.a i k) * toSigned 8 (x.lineElem 6 w.b j k))
      (toSigned 32 base)
    ofSigned 32 sum
  else
    let f := if fmt = 0 then fB64 else fB32
    accumulate f ctr (if zero then .fin false 0 0 else unpackF f base) (x.mmaTerms w i j)

/-- The accumulator D written, element by element. -/
def Group.mma (x : Group) (w : IWord) (free : Nat) : Group :=
  let wide := w.mod % 8 == 0
  (List.range 1024).foldl (fun y n =>
    let i := n / 32
    let j := n % 32
    y.vputW wide (w.d + (if wide then 2 else 1) * (j % 16)) (2 * i + j / 16) (x.mmaElem w (free + 128 * n) i j)) x

def effMma (g : Nat) (w : IWord) (s : State) : State :=
  s.issueMatrix g 0 w (fun k => mmaOk k.vregs w) fun s =>
    let x := (s.group g).mma w s.free
    let s := { s with free := s.free + 131072 }
    (s.retire g 9 (x.next w)).evUnit (unitOf g) 0x06 (w.mod % 8) 1
def execMma (g : Nat) (w : IWord) (s : State) : Out := run (.mma g w) s (effMma g w s)

/-! ## MLD (R158, R160, R161) -/

/-- Bytes of a line: 32 for binary64 and binary32, 64 for the others. -/
def mldLine (fmt : Nat) : Nat := if fmt < 2 then 32 else 64

def mldOk (vregs : Nat) (w : IWord) : Bool :=
  let n := mmaRegs (w.mod % 8)
  modOk 6 w && w.c == 0 && (!bitOf w.mod 5 || bitsOf w.mod 3 2 == 0) && w.d % n == 0 && decide (w.d + n ≤ vregs) && sOk w.a && sOk w.b

/-- Base or stride is no multiple of 32. -/
def Group.unaligned32 (x : Group) (w : IWord) : Bool := x.sget w.a % 32 != 0 || x.sget w.b % 32 != 0

/-- Half h of line L goes to lane 2L + h. -/
def Group.mldAccs (x : Group) (w : IWord) : List Acc :=
  let half := mldLine (w.mod % 8) / 2
  (List.range 64).map fun t => ⟨t, (x.sget w.a + t / 2 * x.sget w.b + t % 2 * half) % 2 ^ 64, half⟩

/-- MLD (R159, R160). A base or stride that is no multiple of 32 is MISALIGNED; its record names s[A] as a virtual address, and the stride is
a 64-bit number without sign: DESIGN CHOICE, notes/assumptions/69. -/
def effMld (g : Nat) (w : IWord) (s : State) : State :=
  s.issueMatrix g 1 w (fun k => mldOk k.vregs w) fun s =>
    let x := s.group g
    if x.unaligned32 w then s.kfault g kfMISALIGNED (x.sget w.a) 1 1
    else if bitOf w.mod 5 then
      match s.scratchCheck g 1 (x.mldAccs w) with
      | some s => s
      | none =>
        let t := s.teamOf g
        let (ws, s) := s.allLaneRegs w.d ((x.mldAccs w).map fun a => (a, s.scratchBytes t a.va a.len))
        s.groupRemote g 9 w ws [] fun s _ _ => s
    else s.loadRegs g 9 w w.d (bitsOf w.mod 3 2) (x.mldAccs w)
def execMld (g : Nat) (w : IWord) (s : State) : Out := runR (.mld g w) s (effMld g w s)

/-! ## MST (R159 to R161, R183) -/

/-- Bytes of an output element. -/
def mstSize (out : Nat) : Nat := [8, 4, 2, 2, 1, 1, 4].getD out 4

/-- The pairs of ACC and OUT that MST accepts. -/
def mstPair (acc out : Nat) : Bool :=
  (acc == 2 && decide (out < 2)) || (acc == 0 && decide (1 ≤ out) && decide (out ≤ 5)) || (acc == 1 && out == 6)

def mstOk (vregs : Nat) (w : IWord) : Bool :=
  let acc := bitsOf w.mod 3 2
  mstPair acc (w.mod % 8) && w.d == 0 && (!bitOf w.mod 5 || !bitOf w.mod 6) && w.c % 16 == 0 &&
    decide (w.c + (if acc = 2 then 32 else 16) ≤ vregs) && sOk w.a && sOk w.b

/-- One element converted (R183). A binary64 NaN copied to binary64 is written as the canonical NaN (R173, R181; notes/assumptions/15). -/
def mstElem (acc out x : Nat) : Nat :=
  if acc = 1 then x
  else if acc = 2 && out == 0 then (if unpackF fB64 x = .nan then fB64.nan else x)
  else cvtElem out (if acc = 2 then 0 else 1) 0 (out == 4 || out == 5) x

/-- The bytes of row i. -/
def Group.mstRow (x : Group) (w : IWord) (i : Nat) : Bytes :=
  let acc := bitsOf w.mod 3 2
  let out := w.mod % 8
  (List.range 32).flatMap fun j => leBytes (mstSize out) (mstElem acc out (x.accElem (acc == 2) w.c i j))

/-- The 32-byte pieces of the rows; `lane` numbers the piece. -/
def Group.mstAccs (x : Group) (w : IWord) : List Acc :=
  let n := mstSize (w.mod % 8)
  (List.range (32 * n)).map fun p => ⟨p, (x.sget w.a + p / n * x.sget w.b + p % n * 32) % 2 ^ 64, 32⟩

/-- MST (R159 to R161). As MLD; a stride below the row length, compared without sign, is MISALIGNED too: DESIGN CHOICE,
notes/assumptions/69. -/
def effMst (g : Nat) (w : IWord) (s : State) : State :=
  s.issueMatrix g 2 w (fun k => mstOk k.vregs w) fun s =>
    let x := s.group g
    let n := mstSize (w.mod % 8)
    let data := fun (a : Acc) => sliceB (x.mstRow w (a.lane / n)) (a.lane % n * 32) 32
    if x.unaligned32 w || x.sget w.b < 32 * n then s.kfault g kfMISALIGNED (x.sget w.a) 1 2
    else if bitOf w.mod 5 then
      match s.scratchCheck g 2 (x.mstAccs w) with
      | some s => s
      | none =>
        let t := s.teamOf g
        let s := (x.mstAccs w).foldl (fun s a => s.scratchPut t a.va (data a)) s
        let s := s.storeDone g
        s.retire g 9 ((s.group g).next w)
    else s.storePieces g 9 w (if bitOf w.mod 6 then 2 else 0) (x.mstAccs w) data
def execMst (g : Nat) (w : IWord) (s : State) : Out := runR (.mst g w) s (effMst g w s)

end Sys2Proof.Machine
end

