-- ==== Sys2Proof/Machine/Tilus.lean ====
section
/-!
DEFINITION. Tilus (R362 to R382): frames, ports and their losses, packets that arrive, window responses and timeouts, reserved slots and
SLOT_RESERVE.
-/

namespace Sys2Proof.Machine

open Sys2Proof

/-! ## Packets that arrive (R371, R374, R375) -/

/-- Units of a receive buffer freed: their credit goes back with the port's next frame (R366). -/
def State.giveBack (s : State) (p : Nat) (x : TPacket) : State :=
  let t := s.tls p
  s.setTls p { t with back := t.back.set x.buffer (t.back.getD x.buffer 0 + x.units) }

/-- A packet is handled: it leaves the receive buffer that held it, whichever hub's port that is, and its units are returned. -/
def State.consume (s : State) (x : TPacket) : State :=
  match (List.range 16).find? fun p => (s.tls p).rx.contains x with
  | some p => ((s.setTls p { s.tls p with rx := (s.tls p).rx.erase x }).giveBack p x).sendIdle p
  | none => s

/-- A request of kind `op` for this module arrives at hub h. -/
def State.windowRequest (s : State) (h op : Nat) (x : TPacket) : State :=
  if s.hubWorks h && x.op == op && x.dest == s.node then (s.consume x).serveAndReply h x else s

/-- A response of kind `op` for this module arrives at hub h, and ends the request that it answers; what waited for it goes on. -/
def State.windowResponse (s : State) (h op : Nat) (x : TPacket) : State :=
  if s.hubWorks h && x.op == op && x.dest == s.node then
    ((s.consume x).takeResponse x).settleAnswers
  else s

def effWRead (h : Nat) (x : TPacket) (s : State) : State := s.windowRequest h 0x01 x
def execWRead (h : Nat) (x : TPacket) (s : State) : Out := runR (.wRead h x) s (effWRead h x s)

def effWWrite (h : Nat) (x : TPacket) (s : State) : State := s.windowRequest h 0x02 x
def execWWrite (h : Nat) (x : TPacket) (s : State) : Out := runR (.wWrite h x) s (effWWrite h x s)

def effWAtomic (h : Nat) (x : TPacket) (s : State) : State := s.windowRequest h 0x03 x
def execWAtomic (h : Nat) (x : TPacket) (s : State) : Out := runR (.wAtomic h x) s (effWAtomic h x s)

def effWData (h : Nat) (x : TPacket) (s : State) : State := s.windowResponse h 0x08 x
def execWData (h : Nat) (x : TPacket) (s : State) : Out := runR (.wData h x) s (effWData h x s)

def effWDone (h : Nat) (x : TPacket) (s : State) : State := s.windowResponse h 0x09 x
def execWDone (h : Nat) (x : TPacket) (s : State) : Out := runR (.wDone h x) s (effWDone h x s)

def effWDeny (h : Nat) (x : TPacket) (s : State) : State := s.windowResponse h 0x0A x
def execWDeny (h : Nat) (x : TPacket) (s : State) : Out := runR (.wDeny h x) s (effWDeny h x s)

/-- A table packet of this module with the given TAG and flow could not reach its tree neighbour (R382). -/
def State.loseTabTag (s : State) (tag flow : Nat) : State :=
  let p := (tag - 0x8000) / 32
  let i := (tag - 0x8000) % 32
  (s.partTables p).foldl (fun s id =>
    let t := s.table (tkey p id)
    if id % 65536 = flow && i < t.nbrs.length then s.endTable p id stREMOTELOST (.loss stREMOTELOST) (t.nbrs[i]?) else s) s

def effRouteFail (h : Nat) (x : TPacket) (s : State) : State :=
  if x.tag < 0x8000 then s.windowResponse h 0x0B x
  else if s.hubWorks h && x.op == 0x0B && x.dest == s.node then (s.consume x).loseTabTag x.tag x.flow
  else s
def execRouteFail (h : Nat) (x : TPacket) (s : State) : Out := run (.routeFail h x) s (effRouteFail h x s)

/-- REMOTE_US in ns (Table 14-11). -/
def State.remoteNs (s : State) : Nat := (if s.f .TLS_CTRL_REMOTE_US = 0 then 1000 else s.f .TLS_CTRL_REMOTE_US) * 1000

/-- A request ends with REMOTE_LOST (Table 14-6). -/
def State.loseReq (s : State) (key : Nat) : State := (s.failReq key stREMOTELOST 0x0E stREMOTELOST 0).settleAnswers

def effRemoteTimeout (h tag dt : Nat) (s : State) : State :=
  let s := s.elapse dt
  match s.rreqs.find? fun (e : Nat × RReq) => e.1 == tag && e.2.hub == h with
  | some (key, q) => if q.unsent.isNone && decide (q.sentAt + s.remoteNs ≤ s.eng) then s.loseReq key else s
  | none => s
def execRemoteTimeout (h tag dt : Nat) (s : State) : Out := run (.remoteTimeout h tag dt) s (effRemoteTimeout h tag dt s)

/-- A packet for another node passes through hub h (R371). -/
def effTilusTransit (h : Nat) (x : TPacket) (s : State) : State :=
  if s.hubWorks h && x.dest != s.node then (s.consume x).sendPkt h x else s
def execTilusTransit (h : Nat) (x : TPacket) (s : State) : Out := run (.tilusTransit h x) s (effTilusTransit h x s)

/-! ## Frames (R364 to R366) -/

/-- The data frames of a port's replay buffer sent again, oldest first, with its present control (R365). -/
def State.replayPort (s : State) (p : Nat) : State := (s.tls p).replay.foldl (fun s (q, l) => s.sendData p q l) s

/-- Table packets of this module among packets that a neighbour's port has acknowledged (R382). -/
def State.ackTables (s : State) (l : List TPacket) : State :=
  (l.filter fun x => x.src == s.node && decide (0x10 ≤ x.op) && decide (0x8000 ≤ x.tag)).foldl (fun s x => s.tableAck x.tag x.flow) s

/-- Control of a good frame: the ACK frees the replay buffer, a NAK has the rest replayed, channel credits (0 to 7) and pool credit (8)
return. -/
def State.frameControl (s : State) (p : Nat) (f : TFrame) : State :=
  let t := s.tls p
  let seqs := t.replay.map (·.1)
  let freed := if seqs.contains f.ack then seqs.idxOf f.ack + 1 else 0
  let acked := (t.replay.take freed).flatMap (·.2)
  let replay := t.replay.drop freed
  let t := f.credits.foldl (fun (t : TlsPort) (v, n) =>
    if v < 8 then { t with credit := t.credit.set v (min 1024 (t.credit.getD v 0 + n)) } else { t with pool := min 57344 (t.pool + n) }) t
  let t := { t with
    replay := replay
    nakRun := if f.nak then (if t.nakSeq = f.ack then t.nakRun + 1 else 1) else 0
    nakSeq := if f.nak then f.ack else t.nakSeq }
  let s := (s.setTls p t).ackTables acked
  if f.nak && replay != [] then (s.replayPort p).incF .TLS_PERR_REPLAYS p else s

/-- A packet taken in: table packets, whose bytes are generation-specific, act by rows of their own and leave the buffer at once. -/
def State.takeIn (s : State) (p : Nat) (x : TPacket) : State :=
  if 0x10 ≤ x.op && x.dest = s.node then s.giveBack p x
  else s.setTls p { s.tls p with rx := (s.tls p).rx ++ [x] }

/-- A data frame whose CRC is good: delivered in sequence, dropped when it has been delivered, else discarded with a NAK (R365). -/
def State.takeData (s : State) (p : Nat) (f : TFrame) : State :=
  let s := s.hubEnergy (p / 4) 640000
  let t := s.tls p
  if f.seq = (t.rxSeq + 1) % 65536 then
    f.packets.foldl (fun s x => s.takeIn p x) (s.setTls p { t with rxSeq := f.seq, nakOut := false })
  else if (t.rxSeq + 65536 - f.seq) % 65536 < 32768 then s
  else s.setTls p { t with nakOut := true }

/-- A port's queue sent as far as it can be. -/
def State.pumpPort (s : State) (p : Nat) : State := s.pump p ((s.tls p).queue.length + 1)

/-- What a port owes after a data frame: its ACK or NAK goes with the next data frame, or in an idle frame when none goes now. -/
def State.answerFrame (s : State) (p : Nat) : State :=
  let t := s.pumpPort p
  if (t.tls p).txSeq = (s.tls p).txSeq then t.sendIdle p else t

/-- A frame arrives, in which the lane code corrected `fixed` codewords. Beacon frames carry control as idle ones do; what their body says comes
by BEACON_RECEIVE. -/
def State.takeFrame (s : State) (p fixed : Nat) (f : TFrame) : State :=
  if !s.tlsUp p then s
  else
    let s := s.incF .TLS_PERR_FEC_FIXED p fixed
    if !f.good then
      if f.typ = 0 then ((s.incF .TLS_PERR_CRC_ERRORS p).setTls p { s.tls p with nakOut := true }).answerFrame p else s
    else if 3 ≤ f.typ then s
    else
      let s := s.frameControl p f
      if f.typ = 0 then (s.takeData p f).answerFrame p else s.pumpPort p
def effTilusFrame (p : Nat) (f : RecvFrame) (s : State) : State := s.takeFrame p f.fixed (frameOf f.bytes)
def execTilusFrame (p : Nat) (f : RecvFrame) (s : State) : Out := run (.tilusFrame p f) s (effTilusFrame p f s)

/-! ## Port states and loss (R363, R365, R380, R381) -/

/-- A packet that was queued at a lost port routed afresh (R381). A table packet of this module that finds no port ends with REMOTE_LOST, as the
ROUTE_FAIL that it draws has it (R371, R382). -/
def State.rerouteQueued (s : State) (h : Nat) (x : TPacket) : State :=
  match s.routePkt h x with
  | (.fail, t) =>
    if x.src = s.node && 0x10 ≤ x.op && 0x8000 ≤ x.tag then (t.incF .TLS_STATUS_ROUTE_FAILS 0).loseTabTag x.tag x.flow else s.sendPkt h x
  | _ => s.sendPkt h x

/-- A port goes down into a state: its queue is routed afresh, its unacknowledged frames are discarded and what they and its open requests
carried ends (R381); time and tables follow (R46, R382). TIME_PORT.LOST is set for a port that is disabled or FAILED too, which can show no beacon
any more, and is cleared when the port is up again (R74, R381; DESIGN CHOICE, notes/assumptions/68). -/
def State.portDown (s : State) (p st : Nat) : State :=
  let t := s.tls p
  let partner := if s.fb .TLS_PSTAT_PARTNER_VALID p then some (s.f .TLS_PSTAT_PARTNER p) else none
  let s := (s.setF .TLS_PSTAT_STATE p st).setF .TLS_PSTAT_WIDTH p 0
  let s := ((s.setF .TIME_PORT_LOST p 1).dropBeacons p).setTport p {}
  let s := s.setTls p { lastTry := t.lastTry, lastBeacon := t.lastBeacon }
  let s := t.queue.foldl (fun s x => s.rerouteQueued (p / 4) { x with hops := x.hops + 1 }) s
  let s := (t.replay.flatMap (·.2)).foldl (fun s x =>
    if x.src = s.node then (if 0x10 ≤ x.op && 0x8000 ≤ x.tag then s.loseTabTag x.tag x.flow else s)
    else if x.answerable then s.sendResponse (p / 4) (x.reply s.node (s.f .TLS_CTRL_HOPS) 0x0B 0 [])
    else s) s
  let keys := (s.rreqs.filter fun (e : Nat × RReq) => e.2.port == some p).map fun (e : Nat × RReq) => e.1
  let s := keys.foldl (fun s k => s.loseReq k) s
  match partner with
  | some nd =>
    (s.liveTables.filter fun e => e.2.nbrs.contains nd).foldl (fun s e =>
      s.endTable (e.1 / 2 ^ 32) (e.1 % 2 ^ 32) stREMOTELOST (.loss stREMOTELOST) (some nd)) s
  | none => s

/-- A port becomes LOST. -/
def State.portLost (s : State) (p : Nat) : State := (s.incF .TLS_PSTAT_LOSSES p).portDown p 4

def effTilusRetrain (p : Nat) (s : State) : State :=
  if s.tlsUp p && 16 ≤ (s.tls p).nakRun then
    ((s.setF .TLS_PSTAT_STATE p 3).incF .TLS_PSTAT_RETRAINS p).setTls p { s.tls p with downAt := some s.eng, nakRun := 0 }
  else s
def execTilusRetrain (p : Nat) (s : State) : Out := run (.tilusRetrain p) s (effTilusRetrain p s)

def effTilusRetrainEnd (p dt : Nat) (s : State) : State :=
  let s := s.elapse dt
  if s.f .TLS_PSTAT_STATE p = 3 && s.hubWorks (p / 4) then
    let s := (s.setF .TLS_PSTAT_STATE p 2).setTls p { s.tls p with downAt := none }
    (s.replayPort p).pumpPort p
  else s
def execTilusRetrainEnd (p dt : Nat) (s : State) : Out := run (.tilusRetrainEnd p dt) s (effTilusRetrainEnd p dt s)

def effTilusRetrainTimeout (p dt : Nat) (s : State) : State :=
  let s := s.elapse dt
  match (s.tls p).downAt with
  | some t => if s.f .TLS_PSTAT_STATE p ≠ 2 && decide (t + 1000000 ≤ s.eng) then s.portLost p else s
  | none => s
def execTilusRetrainTimeout (p dt : Nat) (s : State) : Out := run (.tilusRetrainTimeout p dt) s (effTilusRetrainTimeout p dt s)

/-- A training attempt of an enabled port that is not up, with the lanes that work in both directions (R363). -/
def effTilusPortTrain (p lanes dt : Nat) (s : State) : State :=
  let s := s.elapse dt
  let st := s.f .TLS_PSTAT_STATE p
  if s.fb .TLS_PCTRL_ENABLE p && (st == 1 || st == 4) && s.hubWorks (p / 4) &&
      ((s.tls p).lastTry == 0 || decide ((s.tls p).lastTry + 1000000 ≤ s.eng)) then
    let width := if lanes = 255 then 3 else if lanes % 16 = 15 then 1 else if lanes / 16 = 15 then 2 else 0
    let t := s.tls p
    if width = 0 then s.setTls p { t with lastTry := max s.eng 1 }
    else
      let s := ((s.setF .TLS_PSTAT_STATE p 2).setF .TLS_PSTAT_WIDTH p width).setF .TIME_PORT_LOST p 0
      s.setTls p { lastTry := max s.eng 1, lastBeacon := s.eng, prioAt := s.eng }
  else s
def execTilusPortTrain (p lanes dt : Nat) (s : State) : Out := run (.tilusPortTrain p lanes dt) s (effTilusPortTrain p lanes dt s)

/-- The port's lanes show electrical idle; without a beacon for 2 µs it is LOST. -/
def effTilusPortLost (p dt : Nat) (s : State) : State :=
  let s := s.elapse dt
  let st := s.f .TLS_PSTAT_STATE p
  if (st == 2 || st == 3) && decide ((s.tls p).lastBeacon + 2000 ≤ s.eng) then s.portLost p else s
def execTilusPortLost (p dt : Nat) (s : State) : Out := run (.tilusPortLost p dt) s (effTilusPortLost p dt s)

def effTilusPortFail (p : Nat) (s : State) : State :=
  if s.hubPresent (p / 4) && s.f .TLS_PSTAT_STATE p ≠ 5 then s.portDown p 5 else s
def execTilusPortFail (p : Nat) (s : State) : Out := run (.tilusPortFail p) s (effTilusPortFail p s)

/-! ## Reserved slots (R376 to R378) -/

/-- USED and SUM_NS follow the reservations in force. -/
def State.syncResv (s : State) (p : Nat) : State :=
  let used := (List.range 16).filter fun r => s.resValid p r
  (s.setF .TLS_PRESV_USED p (maskOf used)).setF .TLS_PRESV_SUM_NS p
    (used.foldl (fun n r => n + s.f .TLS_RES_SLOT_NS (resIx p r)) 0)

/-- A reservation ends. -/
def State.release (s : State) (p r : Nat) : State :=
  ((s.resetRegs [.TLS_RES, .TLS_RES_FLOW] [resIx p r]).setResv (resIx p r) {}).syncResv p

/-- Every reservation of a partition ends (R377, R419). -/
def State.releasePart (s : State) (q : Nat) : State :=
  (List.range 256).foldl (fun s i =>
    if s.resValid (i / 16) (i % 16) && s.f .TLS_RES_FLOW_PART i == q then s.release (i / 16) (i % 16) else s) s

/-- The slot of a reservation's deal opens at its time; one that a step forward skipped, in the order of the skipped times (R51). -/
def effReservedSlotOpen (p r dt : Nat) (s : State) : State :=
  let s := s.elapse dt
  let ix := resIx p r
  match s.slotDeal p r with
  | some k =>
    if (s.slotTime p r).all s.inOrder then
      (s.setResv ix { s.resvOf ix with openUntil := some (s.now + s.f .TLS_RES_SLOT_NS ix), deal := k, nextDeal := k + 1 }).pumpPort p
    else s
  | none => s
def execReservedSlotOpen (p r dt : Nat) (s : State) : Out := run (.reservedSlotOpen p r dt) s (effReservedSlotOpen p r dt s)

def effReservedSlotClose (p r dt : Nat) (s : State) : State :=
  let s := s.elapse dt
  let ix := resIx p r
  let x := s.resvOf ix
  let c := s.resSched p r
  if !s.resValid p r then s
  else
    let s := match x.openUntil with
      | some t => if t ≤ s.now then s.setResv ix { x with openUntil := none } else s
      | none => s
    let last := c.boundary (x.firstDeal + x.count - 1) + s.f .TLS_RES_OFFSET_NS ix + s.f .TLS_RES_SLOT_NS ix
    if x.count ≠ 0 && (s.resvOf ix).openUntil.isNone && decide (last ≤ s.now) then s.release p r else s
def execReservedSlotClose (p r dt : Nat) (s : State) : Out := run (.reservedSlotClose p r dt) s (effReservedSlotClose p r dt s)

/-- A 1 µs interval of a port ends: its PRIO budget is renewed, and an interval that reached it is counted. -/
def effPrioInterval (p dt : Nat) (s : State) : State :=
  let s := s.elapse dt
  let t := s.tls p
  if t.prioAt + 1000 ≤ s.eng then
    let s := if t.prioOver then s.incF .TLS_PFRAME_RESV_OVER p else s
    let s := s.setTls p { t with prioNs := 0, prioAt := s.eng, prioOver := false }
    s.pumpPort p
  else s
def execPrioInterval (p dt : Nat) (s : State) : Out := run (.prioInterval p dt) s (effPrioInterval p dt s)

/-- The status and DETAIL of the first check of R377 that fails for a new reservation. -/
def State.resvCheck (s : State) (r : Nat) (e : Entry) : Option Nat :=
  let p := e.body 24 1 % 16
  let c := s.sched (schedKey (s.ringPart r) (e.body 25 1 % 16))
  let off := e.body 12 4
  let ns := e.body 16 4
  let kind := e.body 26 1
  let others := (List.range 16).filter fun i => s.resValid p i
  if 16 ≤ e.body 24 1 || 16 ≤ e.body 25 1 || 2 ≤ kind || e.body 27 1 ≠ 0 || !e.zero 28 36 || (kind = 1 && 256 ≤ e.body 20 4) then some 0
  else if !s.hubPresent (p / 4) || ns < 16 || (c.defined && c.period < off + ns) then some 2
  else if !c.defined || others.any (fun i => (s.resSched p i).period != c.period || (s.resSched p i).anchor != c.anchor) then some 1
  else if others.any (fun i => meets off ns (s.f .TLS_RES_OFFSET_NS (resIx p i)) (s.f .TLS_RES_SLOT_NS (resIx p i))) then some 3
  else if 3 * c.period < 4 * (s.f .TLS_PRESV_SUM_NS p + ns) then some 4
  else if 16 ≤ others.length then some 5
  else if others.any (fun i => s.f .TLS_RES_FLOW_PART (resIx p i) == s.ringPart r && s.f .TLS_RES_FLOW_KIND (resIx p i) == kind &&
      s.f .TLS_RES_FLOW_FLOW_ID (resIx p i) == e.body 20 4) then some 6
  else none

def effSlotReserve (r pos : Nat) (s : State) : State :=
  s.startCmd r pos 0x31 fun s e =>
    let p := e.body 24 1 % 16
    if bitOf (e.body 26 1) 7 then
      let i := e.body 27 1
      if !e.zero 0 24 || e.body 25 1 ≠ 0 || e.body 26 1 ≠ 0x80 || 16 ≤ i || 16 ≤ e.body 24 1 || !e.zero 28 36 then s.endWith r pos stPARAM
      else if !s.resValid p i then s.endWith r pos stPARAM 2
      else if !s.ringModule r && s.f .TLS_RES_FLOW_PART (resIx p i) ≠ s.ringPart r then s.endWith r pos stRIGHTS
      else (s.release p i).doneWith r pos
    else if s.ringModule r then s.endWith r pos stPARAM
    else match s.resvCheck r e with
      | some d => s.endWith r pos stPARAM d
      | none =>
        let i := ((List.range 16).find? fun i => !s.resValid p i).getD 0
        let ix := resIx p i
        let s := (s.setF .TLS_RES_OFFSET_NS ix (e.body 12 4)).setF .TLS_RES_SLOT_NS ix (e.body 16 4)
        let s := (s.setF .TLS_RES_FLOW_FLOW_ID ix (e.body 20 4)).setF .TLS_RES_FLOW_KIND ix (e.body 26 1)
        let s := (s.setF .TLS_RES_FLOW_PART ix (s.ringPart r)).setF .TLS_RES_FLOW_SCHEDULE ix (e.body 25 1)
        let s := s.setF .TLS_RES_FLOW_VALID ix 1
        ((s.setResv ix { firstDeal := e.body 0 8, count := e.body 8 4, since := 2 ^ 64 }).syncResv p).doneWith r pos i
def execSlotReserve (r pos : Nat) (s : State) : Out := run (.slotReserve r pos) s (effSlotReserve r pos s)

end Sys2Proof.Machine
end

