-- ==== Sys2Proof/Machine/Kernels.lean ====
section
/-!
DEFINITION. Kernels (R134 to R146): LAUNCH and LAUNCH_AT, start, dispatch of teams, end, faults and the time limit.
-/

namespace Sys2Proof.Machine

open Sys2Proof

/-! ## The launch body and the descriptor (R134 to R136) -/

/-- Body fields of LAUNCH and LAUNCH_AT (Tables 4-12 and 4-13). -/
structure LaunchBody where
  desc : Nat
  args : Nat
  groups : Nat
  team : Nat
  prio : Nat
  mask : Nat
  limit : Nat

def Entry.launch (e : Entry) : LaunchBody :=
  { desc := e.body 0 8, args := e.body 8 8, groups := e.body 16 4, team := e.body 20 1 % 32, prio := e.body 21 1 % 4, mask := e.body 22 2,
    limit := e.body 24 4 }

/-- Step 1 of R136, with the reserved fields (R9) and the alignment of DESC (R134). -/
def State.launchBodyOk (s : State) (p : Nat) (e : Entry) (at_ : Bool) : Bool :=
  let b := e.launch
  let t := e.body 20 1
  decide (t < 32) && decide (e.body 21 1 < 4) && (if at_ then e.zero 28 4 && e.body 40 1 < 2 && e.body 41 1 < 16 && e.zero 42 22 else e.zero 28 36) &&
    decide (1 ≤ b.team) && decide (b.team ≤ 16) && decide (b.groups ≤ 2 ^ 31) && b.groups % b.team == 0 &&
    (bitList b.mask 16).all (fun n => s.dieOwner n == some p) && b.desc % 64 == 0

/-- Steps 3 and 4 of R136 on the 64 bytes of the descriptor: the status of the first that fails. -/
def State.descCheck (s : State) (d : Bytes) : Option Nat :=
  let f := fun o n => fldB d o n
  let vregs := f 2 2
  if 1 < f 0 1 || f 1 1 ≠ 9 || vregs < 16 || 256 < vregs || vregs % 16 ≠ 0 || 1048576 < f 4 4 || f 8 8 % 64 ≠ 0 || f 16 8 < 8 ||
      2 ^ 32 < f 16 8 || f 16 8 % 8 ≠ 0 || 2 ≤ f 28 2 || f 30 8 ≠ 0 || !(d.drop 38).all (· == 0) then some stPARAM
  else if andNot (f 24 2) (s.f .ID_FEAT_FEAT) ≠ 0 then some stUNSUPPORTED
  else none

/-- The kernel that a launch makes. -/
def mkKernel (e : Entry) (d : Bytes) (r part asid id : Nat) : Kernel :=
  let b := e.launch
  let f := fun o n => fldB d o n
  { live := true, ring := r, pos := e.pos, part := part, asid := asid, vregs := if d = [] then 16 else f 2 2, scratch := f 4 4, code := f 8 8,
    codeSize := f 16 8, features := f 24 2, yield := f 26 2, zero := bitOf (f 28 2) 0, args := b.args, groups := b.groups, team := b.team,
    prio := b.prio, dies := b.mask, timeLimit := b.limit, seq := id }

/-- The kernel enters the queue for start. A LAUNCH has begun execution at its start: its place and mode are of that moment (R71, R139). A
LAUNCH_AT begins at its release, in the mode of its release time where a step forward skipped it (R51, R138). -/
def State.addKernel (s : State) (r : Nat) (e : Entry) (d : Bytes) : State :=
  let k := fun (id : Nat) (at_ : Nat × Nat) => { mkKernel e d r (s.ringPart r) (s.ringAsid r) id with epoch := at_.1, mode := at_.2 }
  if e.op = 0x08 then
    let e' := (s.entry? r e.pos).getD e
    s.setKernel e'.startNo (k e'.startNo (e'.epoch, e'.mode))
  else
    let t := ((s.actionTime r { e with st := .running, phase := 1 }).filter s.skipped).getD s.now
    { s with nextKernel := s.nextKernel + 1 }.setKernel s.nextKernel (k s.nextKernel (s.launchMode (s.ringPart r) t))

/-- Step 2 of R136: the descriptor's bytes; otherwise the command has ended, or waits. A descriptor behind an import comes by window
requests (R304). -/
def State.readDesc (s : State) (r pos : Nat) (e : Entry) : Option Bytes × State :=
  let va := e.launch.desc
  match s.cmdXlate (s.cmdCache r) r va 1 with
  | (.ok l, s) =>
    match s.readLoc l .narrow 64 with
    | (.ok b, s) => (some b, s)
    | (.error .remote, s) => s.remoteBytes (s.ringHub r) r pos l va 64
    | (.error x, s) => (none, s.failAccess r pos x 1 7 (s.hubAgent r))
  | (x, s) => (none, s.failXlate r pos x va 1 7 (s.hubAgent r))

def effLaunch (r pos : Nat) (s : State) : State :=
  s.startCmd r pos 0x08 fun s e =>
    if !s.launchBodyOk (s.ringPart r) e false then s.endWith r pos stPARAM
    else if e.launch.groups = 0 then s.addKernel r e []
    else match s.readDesc r pos e with
      | (none, s) => s
      | (some d, s) =>
        match s.descCheck d with
        | some st => s.endWith r pos st
        | none => s.addKernel r e d
def execLaunch (r pos : Nat) (s : State) : Out := runR (.launch r pos) s (effLaunch r pos s)

/-- The schedule of a LAUNCH_AT. -/
def State.launchSched (s : State) (r : Nat) (e : Entry) : Sched := s.sched (schedKey (s.ringSet r) (e.body 41 1))

/-- LAUNCH_AT makes the checks at start and waits for its release (R138); its descriptor is kept with the entry. -/
def effLaunchAt (r pos : Nat) (s : State) : State :=
  s.startCmd r pos 0x09 fun s e =>
    if !s.launchBodyOk (s.ringPart r) e true then s.endWith r pos stPARAM
    else if e.body 40 1 = 1 && !(s.launchSched r e).defined then s.endWith r pos stPARAM
    else if e.launch.groups = 0 then s.modEntry r pos fun e => { e with phase := 1 }
    else match s.readDesc r pos e with
      | (none, s) => s
      | (some d, s) =>
        match s.descCheck d with
        | some st => s.endWith r pos st
        | none => s.modEntry r pos fun e => { e with phase := 1, got := [(e.launch.desc, d)] }
def execLaunchAt (r pos : Nat) (s : State) : Out := runR (.launchAt r pos) s (effLaunchAt r pos s)

/-- The release time has come: System Time AT, or the boundary of deal AT of the schedule as it is now defined. -/
def State.launchDue (s : State) (r : Nat) (e : Entry) : Bool :=
  if e.body 40 1 = 0 then decide (e.body 32 8 ≤ s.now)
  else decide ((s.launchSched r e).boundary (e.body 32 8) ≤ s.now)

def effLaunchAtRelease (r pos dt : Nat) (s : State) : State :=
  let s := s.elapse dt
  match s.entry? r pos with
  | none => s
  | some e =>
    if !e.active || e.op ≠ 0x09 || e.phase ≠ 1 then s
    else if e.body 40 1 = 1 && !(s.launchSched r e).defined then s.endWith r pos stPARAM
    else if s.launchDue r e && (s.actionTime r e).all s.inOrder then
      (s.modEntry r pos fun e => { e with phase := 0 }).addKernel r e ((e.got.head?.map (·.2)).getD [])
    else s
def execLaunchAtRelease (r pos dt : Nat) (s : State) : Out := run (.launchAtRelease r pos dt) s (effLaunchAtRelease r pos dt s)

/-! ## Die set, mode and start (R139, R140, R142) -/

/-- The working dies of a kernel's die set. -/
def State.dieSet (s : State) (k : Kernel) : List Nat :=
  (if k.dies = 0 then s.partDies k.part else bitList k.dies 16).filter fun n => s.dieOwner n == some k.part && s.dieWorks n

/-- Kernels of a partition that have started and not ended. -/
def State.runningIn (s : State) (p : Nat) : Nat :=
  (s.kernels.filter fun (e : Nat × Kernel) => e.2.live && e.2.part == p && e.2.phase != .queued).length

/-! ## Dispatch (R114, R139, R141) -/

/-- Groups on a unit, and the vector registers they hold. -/
def State.unitGroups (s : State) (u : Nat) : List (Nat × Group) := s.groups.filter fun (e : Nat × Group) => e.2.live && unitOf e.1 == u
def State.unitRegs (s : State) (u : Nat) : Nat :=
  (s.unitGroups u).foldl (fun a (e : Nat × Group) => a + (s.kernel e.2.kernel).vregs) 0

/-- 4 KiB granules of scratch that a kernel's team needs, and those free on a cluster. -/
def Kernel.granules (k : Kernel) : Nat := divUp k.scratch 4096
def State.freeGrans (s : State) (cl : Nat) : List Nat :=
  let used := s.teams.flatMap fun (e : Nat × Team) => if e.2.live && e.2.cluster == cl then e.2.grans else []
  (List.range 256).filter fun g => !used.contains g

/-- Groups of a team that go to local unit j of a cluster. -/
def Kernel.onUnit (k : Kernel) (j : Nat) : Nat := (k.team + 3 - j) / 4

/-- The cluster has room for a team, and no unit that receives a group is held by R73. -/
def State.hasRoom (s : State) (k : Kernel) (cl : Nat) : Bool :=
  decide (k.granules ≤ (s.freeGrans cl).length) &&
    (List.range 4).all fun j =>
      let n := k.onUnit j
      let u := 4 * cl + j
      n == 0 || (decide ((s.unitGroups u).length + n ≤ 32) && decide (s.unitRegs u + n * k.vregs ≤ 2048) &&
        decide (k.epoch ≤ s.f .TIME_EPOCH_EPOCH u))

/-- Resident groups of a cluster. -/
def State.clusterGroups (s : State) (cl : Nat) : Nat := (s.groups.filter fun (e : Nat × Group) => e.2.live && unitOf e.1 / 4 == cl).length

/-- The cluster that takes the kernel's next team: room, then fewest resident groups, then lowest index. -/
def State.pickCluster (s : State) (k : Kernel) : Option Nat :=
  let cs := ((s.dieSet k).flatMap fun n => (List.range 32).map fun i => 32 * n + i).filter fun cl => s.hasRoom k cl
  cs.foldl (fun (best : Option Nat) cl => match best with
    | none => some cl
    | some b => if s.clusterGroups cl < s.clusterGroups b then some cl else some b) none

/-- The registers that a group begins with (Table 4-14). -/
def startGroup (k : Kernel) (id team j unit : Nat) : Group :=
  let ss := [k.args, k.team * team + j, team, j, k.groups, k.team, unit]
  { live := true, kernel := id, team := team, inTeam := j, unit := unit, stack := [⟨k.code, fullMask, 2 ^ 64⟩],
    v := (List.range 64).foldl (fun v l => v.fput l l 0) [],
    s := (ss.zipIdx).foldl (fun m (v, i) => m.fput i v 0) [] }

/-- Group j of a team placed in the lowest free slot of its unit. -/
def State.placeGroup (s : State) (id team cl j : Nat) : State :=
  let u := 4 * cl + j % 4
  match (List.range 32).find? fun i => !(s.group (32 * u + i)).live with
  | some i => s.setGroup (32 * u + i) (startGroup (s.kernel id) id team j u)
  | none => s

/-- The kernel's next team placed on a cluster. -/
def State.placeTeam (s : State) (id cl : Nat) : State :=
  let k := s.kernel id
  let t : Team := { live := true, cluster := cl, grans := (s.freeGrans cl).take k.granules }
  let s := ((s.setTeam (id * 2 ^ 40 + k.nextTeam) t).wakeDie (cl / 32)).ranOn (cl / 32) 0
  let s := if k.zero then
      { s with scratch := s.scratch.drop fun a => a / 2 ^ 20 == cl && t.grans.contains (a % 2 ^ 20 / 4096) }
    else s
  let s := (List.range k.team).foldl (fun s j => s.placeGroup id k.nextTeam cl j) s
  s.setKernel id { s.kernel id with nextTeam := k.nextTeam + 1, firstAt := some (k.firstAt.getD s.eng) }

/-- A kernel that is served before another of its partition (R139). -/
def Kernel.before (a b : Kernel) : Bool := decide (b.prio < a.prio) || (a.prio == b.prio && decide (a.seq < b.seq))

/-- A started kernel has teams pending. -/
def Kernel.pending (k : Kernel) : Bool := k.live && k.phase == .running && k.undispatched

/-- The next team of a kernel is dispatched when no kernel that is served before it has teams pending. -/
def State.dispatch (s : State) (id : Nat) : State :=
  let k := s.kernel id
  if !k.pending then s
  else if s.kernels.any fun (e : Nat × Kernel) => e.2.pending && e.2.part == k.part && e.2.before k then s
  else match s.pickCluster k with
    | some cl => s.placeTeam id cl
    | none => s

def effTeamDispatch (id dt : Nat) (s : State) : State := (s.elapse dt).dispatch id
def execTeamDispatch (id dt : Nat) (s : State) : Out := run (.teamDispatch id dt) s (effTeamDispatch id dt s)

/-- The start actions of R142; a die set with no working die is a part failure (R428). -/
def effKernelStart (id dt : Nat) (s : State) : State :=
  let s := s.elapse dt
  let k := s.kernel id
  if !k.live || k.phase != .queued || 32 ≤ s.runningIn k.part then s
  else
    let ds := s.dieSet k
    if ds = [] then s.interrupt k.ring k.pos
    else
      let s := s.setKernel id { k with phase := .running }
      (s.dropClean fun c => ds.contains (nearDie c)).dispatch id
def execKernelStart (id dt : Nat) (s : State) : Out := run (.kernelStart id dt) s (effKernelStart id dt s)

/-! ## End, fault, time limit (R143 to R146) -/

/-- Every group of the kernel has been dispatched and has ended. -/
def Kernel.allEnded (k : Kernel) : Bool := k.nextTeam * k.team == k.groups && k.ended == k.groups

/-- A stopped kernel has no instruction under way, and no fault on its way. -/
def State.stopped (s : State) (id : Nat) : Bool :=
  (s.kernel id).phase == .stopping && !(s.groups.any fun (e : Nat × Group) => e.2.live && e.2.kernel == id && e.2.busy)

/-- The kernel-end actions: near caches written back, then the final record, with VIS 0x3F. A write-back that is not performed ends a kernel that
would have ended with DONE (R251, R195). -/
def effKernelEnd (id dt : Nat) (s : State) : State :=
  let s := s.elapse dt
  let k := s.kernel id
  if !k.live || s.gfaults.any (fun x => x.kernel == id) || !(s.stopped id || (k.phase == .running && k.allEnded)) then s
  else
    let (bad, s) := s.flushNear (s.dieSet k)
    let s := s.killKernel id
    match k.fault with
    | none =>
      let (mine, others) := lostOf id bad
      let s := s.postLost k.part others
      match mine with
      | none => s.doneWith k.ring k.pos k.groups 0x3F
      | some (e, pa) =>
        s.failRec k.ring k.pos { status := lostStatus e, vis := 0x3F }
          { s.lostRec e pa with ring := some k.ring, pos := some k.pos, asid := k.asid }
    | some res =>
      let s := s.postLost k.part bad
      match k.frec with
      | none => s.finish k.ring k.pos { res with vis := 0x3F }
      | some x => s.failRec k.ring k.pos { res with vis := 0x3F } x
def execKernelEnd (id dt : Nat) (s : State) : Out := runR (.kernelEnd id dt) s (effKernelEnd id dt s)

/-- A group fault reaches the launch controller, the lowest unit first: the first stops the kernel, every one is recorded (R145, R146). -/
def effKernelFault (id dt : Nat) (s : State) : State :=
  let s := s.elapse dt
  let mine := s.gfaults.filter fun x => x.kernel == id
  match mine.foldl (fun (b : Option GFault) x => match b with
      | none => some x
      | some y => if x.unit < y.unit then some x else some y) none with
  | none => s
  | some x =>
    { s with gfaults := s.gfaults.erase x }.kernelFault id x.res x.frec
def execKernelFault (id dt : Nat) (s : State) : Out := run (.kernelFault id dt) s (effKernelFault id dt s)

def effKernelTimeLimit (id dt : Nat) (s : State) : State :=
  let s := s.elapse dt
  let k := s.kernel id
  match k.firstAt with
  | some t =>
    if k.live && k.phase == .running && k.timeLimit != 0 && !k.allEnded && decide (t + k.timeLimit * 1000 ≤ s.eng) then
      let s := s.stopGroups id
      s.setKernel id { s.kernel id with phase := .stopping, fault := some { status := stLATE } }
    else s
  | none => s
def execKernelTimeLimit (id dt : Nat) (s : State) : Out := run (.kernelTimeLimit id dt) s (effKernelTimeLimit id dt s)

end Sys2Proof.Machine
end

