-- ==== Sys2Proof/Machine/Power.lean ====
section
/-!
DEFINITION. Power (chapter 15): performance states and steps, estimates, budgets and caps of each window, regulator alerts, droop, idle dies,
NAP and coolant. Energies are in 64ths of 1 pJ over a window of 2 µs; 1 W is `wattE` of them.
-/

namespace Sys2Proof.Machine

open Sys2Proof

/-- The energy of 1 W over a window. -/
def wattE : Nat := 128000000

/-! ## PWR_LIMIT (R392, R393) -/

/-- The three class codes are 0, 1 and 2 in some order. -/
def trumpOk (t : Nat) : Bool :=
  let l := [t % 4, t / 4 % 4, t / 16 % 4]
  decide (t < 64) && l.contains 0 && l.contains 1 && l.contains 2

/-- The started limits in acceptance order. -/
def addLimit (l : List Limit) (x : Limit) : List Limit := l.takeWhile (fun y => decide (y.no < x.no)) ++ x :: l.dropWhile (fun y => decide (y.no < x.no))

/-- A PWR_LIMIT accepted before number `no` has not started: a later one takes effect no sooner. -/
def State.limitAhead (s : State) (no : Nat) : Bool :=
  s.openCmds.any fun (_, e) => e.op == 0x80 && decide (e.acceptNo < no) && (e.st == .accepted || e.phase == 9) && e.res.isNone

def effPwrLimit (r pos : Nat) (s : State) : State :=
  s.startCmd r pos 0x80 fun s e =>
    let m := e.body 8 2
    let d := e.body 10 2
    if m < 4000 || 16500 < m || d < 200 || 800 < d || !trumpOk (e.body 12 1) || !e.zero 13 51 then s.endWith r pos stPARAM
    else { s with power := { s.power with limits := addLimit s.power.limits ⟨r, pos, e.acceptNo, e.body 0 8, s.now, m, d, e.body 12 1⟩ } }
def execPwrLimit (r pos : Nat) (s : State) : Out := run (.pwrLimit r pos) s (effPwrLimit r pos s)

/-- The limits due at boundary b, in acceptance order. -/
def State.applyLimits (s : State) (b : Nat) : State :=
  let due := s.power.limits.takeWhile fun l => decide (l.effect ≤ b) && decide (l.startAt < b || l.startAt < l.effect) && !s.limitAhead l.no
  let s := { s with power := { s.power with limits := s.power.limits.drop due.length } }
  due.foldl (fun s l =>
    (((s.setF .PWR_CAP_MODULE_W 0 l.moduleW).setF .PWR_CAP_DIE_W 0 l.dieW).setF .PWR_CAP_TRUMP 0 l.trump).doneWith l.ring l.pos b) s

/-! ## Estimates (R389) -/

/-- The greatest v below 2^n with v^25 × 2^85 at most `x`, found bit by bit. -/
def root25 (x : Nat) : Nat → Nat → Nat
  | 0, v => v
  | n + 1, v =>
    let w := v + 2 ^ n
    root25 x n (if w ^ 25 * 2 ^ 85 ≤ x then w else v)

/-- Leakage LEAK85_W × 2^((T − 85) / 25) W over a window, rounded down. -/
def leakE (leak temp : Nat) : Nat := root25 ((leak * wattE) ^ 25 * 2 ^ temp) 48 0

/-- Static energy of a part. -/
def State.dieStatic (s : State) (n : Nat) : Nat := leakE (s.f .PWR_FUSE_LEAK85_W n) (s.f .PWR_TEMP_TEMP n)
def State.stackStatic (s : State) (k : Nat) : Nat :=
  wattE * (if s.fb .MEM_STATUS_SELF_REFRESH k then 7 else [12, 14, 18].getD (s.f .MEM_STATUS_RATE k) 18)
def State.hubStatic (s : State) (h : Nat) : Nat :=
  let down := ((List.range 4).filter fun q => s.f .TLS_PSTAT_STATE (4 * h + q) != 2).length + (if h < 2 && !s.fb .PCI_LINK_UP h then 1 else 0)
  wattE * (75 - 9 * down)

/-- What runs on a die now: bit 0 a resident group, bit 1 a tap pass, bit 2 a node core that is not halted. -/
def State.runsNow (s : State) (n : Nat) : Nat :=
  b2n (s.groups.any fun (e : Nat × Group) => e.2.live && unitOf e.1 / 128 == n) +
    2 * b2n ([2 * n, 2 * n + 1].any fun k => (s.tapE k).run.isSome) +
    4 * b2n ((List.range 16).any fun c => (s.core (16 * n + c)).running && !((s.dieOwner n).any fun p => bitOf s.power.napCores p))

/-- Energy of the cycles that Table 15-2 counts on a die in a window of at most 5,000 cycles: unit cycles with a resident group, tap-engine
cycles with a pass, node-core cycles. Their numbers are free values, for the model keeps no cycle count; each is 0 in a window in which nothing of
its kind ran. -/
def State.cycleEnergy (s : State) (n : Nat) : Nat × State :=
  let (a, s) := s.takeFree
  let (b, s) := s.takeFree
  let (c, s) := s.takeFree
  let on := fun (i v : Nat) => if bitOf (s.diePwr n).ran i || bitOf (s.runsNow n) i then v else 0
  (64 * (104 * on 0 (a % (128 * 5000 + 1)) + 16000 * on 1 (b % (2 * 5000 + 1)) + 1200 * on 2 (c % (16 * 5000 + 1))), s)

/-- The estimates of one window. -/
structure Estimate where
  /-- dynamic and static energy of each die, stack and hub, and of Corox -/
  dieD : List Nat
  dieS : List Nat
  stkD : List Nat
  stkS : List Nat
  hubD : List Nat
  hubS : List Nat
  crxD : Nat
  crxS : Nat

def sumN (l : List Nat) : Nat := l.foldl (· + ·) 0

/-- Dynamic energy of each present die: counted events and cycles. -/
def State.dieDyn (s : State) : Nat → List Nat × State
  | 0 => ([], s)
  | n + 1 =>
    let (l, s) := s.dieDyn n
    if s.diePresent n then
      let (c, s) := s.cycleEnergy n
      (l ++ [(s.diePwr n).energy + c], s)
    else (l ++ [0], s)

def State.estimate (s : State) : Estimate × State :=
  let (d, s) := s.dieDyn 16
  ({ dieD := d
     dieS := (List.range 16).map fun n => if s.diePresent n then s.dieStatic n else 0
     stkD := (List.range 32).map fun k => s.power.stackE.fget k 0
     stkS := (List.range 32).map fun k => if s.diePresent (k / 2) then s.stackStatic k else 0
     hubD := (List.range 4).map fun h => s.power.hubE.fget h 0
     hubS := (List.range 4).map fun h => if s.hubPresent h then s.hubStatic h else 0
     crxD := s.power.coroxE, crxS := 16 * wattE }, s)

def Estimate.die (e : Estimate) (n : Nat) : Nat := e.dieD.getD n 0 + e.dieS.getD n 0
def Estimate.stk (e : Estimate) (k : Nat) : Nat := e.stkD.getD k 0 + e.stkS.getD k 0
def Estimate.hub (e : Estimate) (h : Nat) : Nat := e.hubD.getD h 0 + e.hubS.getD h 0
def Estimate.links (e : Estimate) : Nat := sumN e.hubD + sumN e.hubS + e.crxD + e.crxS
def Estimate.all (e : Estimate) : Nat := sumN e.dieD + sumN e.dieS + sumN e.stkD + sumN e.stkS + e.links

/-! ## Budgets (R391, R397) -/

/-- Demand of a die and of a stack; absent and unassigned dies and their stacks have none. -/
def State.dieDemand (s : State) (e : Estimate) (n : Nat) : Nat :=
  if s.diePresent n && (s.dieOwner n).isSome then e.dieS.getD n 0 + e.dieD.getD n 0 * 64 / (64 - s.f .PWR_DIE_BUBBLE n) else 0
def State.stkDemand (s : State) (e : Estimate) (k : Nat) : Nat :=
  if s.diePresent (k / 2) && (s.dieOwner (k / 2)).isSome then e.stkS.getD k 0 + e.stkD.getD k 0 * 16 / max (s.f .PWR_STACK_SLOTS k) 1 else 0

/-- Floors of the classes links, memory, compute. -/
def classFloor (c : Nat) : Int := ([400, 500, 3000].getD c 0 * wattE : Nat)

/-- Budgets of the three classes, by class number. -/
def classBudgets (avail : Int) (order : List Nat) (demand : Nat → Int) : List Int :=
  let left := avail - classFloor 0 - classFloor 1 - classFloor 2
  let (_, bs) := (order.zipIdx).foldl (fun ((a, bs) : Int × List Int) (c, i) =>
    let extra := if i = 2 then a else min a (max 0 (demand c - classFloor c))
    (a - extra, bs.set c (classFloor c + extra))) (left, [0, 0, 0])
  bs

/-- The effective cap of a window, as energy (R397). -/
def State.effectiveCap (s : State) : Nat :=
  min (s.f .PWR_CAP_MODULE_W * wattE) (16500 * 500 * wattE - sumN s.power.history)

/-- A loop of R394 in 64ths: up by the excess, down by one. -/
def bubbleStep (cur p b : Nat) : Nat :=
  if b < p then min 60 (cur + divUp (64 * (p - b)) p)
  else if 100 * p < 97 * b then cur - 1
  else cur

/-- A stack's slot limit after a window (R395). -/
def slotStep (cur p b : Nat) : Nat :=
  if b < p then max 4 (cur - 1) else if 100 * p < 97 * b then min 16 (cur + 1) else cur

/-! ## Alerts (R399, R408) and forced dies (R387) -/

/-- Alert inputs 0 to 7 are ALERT_C, 8 is ALERT_M, 9 ALERT_H. -/
def alertDies (i : Nat) : List Nat := if i < 8 then [2 * i, 2 * i + 1] else []

/-- A cause of forcing of a die set or cleared: 0 alert, 1 thermal, 2 coolant. -/
def State.setCause (s : State) (n bit : Nat) (on : Bool) : State :=
  let c := s.f .PWR_DIE_CAUSE n
  let c := if on then setBit c bit else clrBit c bit
  (s.setF .PWR_DIE_CAUSE n c).setF .PWR_DIE_FORCED n (b2n (c != 0))

/-- The forced state of lost coolant ends 10 µs after COOL_OK has returned. -/
def State.coolSettle (s : State) : State :=
  match s.power.coolBackAt with
  | some t =>
    if s.fb .PWR_STATUS_COOL_OK && t + 10000 ≤ s.eng then
      let s := (List.range 16).foldl (fun s n => s.setCause n 2 false) s
      { s with power := { s.power with coolForced := false, coolBackAt := none } }
    else s
  | none => s

def effRegulatorAlertAssert (i dt : Nat) (s : State) : State :=
  let s := s.elapse dt
  let s := if i < 8 then s.setF .PWR_STATUS_ALERT_C 0 (setBit (s.f .PWR_STATUS_ALERT_C) i)
    else s.setF (if i = 8 then .PWR_STATUS_ALERT_M else .PWR_STATUS_ALERT_H) 0 1
  let s := { s with power := { s.power with alertOn := setBit s.power.alertOn i, alertAt := s.power.alertAt.fput i 0 0 } }
  (alertDies i).foldl (fun s n => (s.setCause n 0 true).setDiePwr n { (s.setCause n 0 true).diePwr n with alertWin := true }) s
def execRegulatorAlertAssert (i dt : Nat) (s : State) : Out := run (.regulatorAlertAssert i dt) s (effRegulatorAlertAssert i dt s)

/-- The input is low. -/
def State.alertLow (s : State) (i : Nat) : Bool :=
  if i < 8 then bitOf (s.f .PWR_STATUS_ALERT_C) i else s.fb (if i = 8 then .PWR_STATUS_ALERT_M else .PWR_STATUS_ALERT_H)

def effRegulatorAlertRelease (i : Nat) (s : State) : State :=
  if !s.alertLow i then s
  else
    let s := if i < 8 then s.setF .PWR_STATUS_ALERT_C 0 (clrBit (s.f .PWR_STATUS_ALERT_C) i)
      else s.setF (if i = 8 then .PWR_STATUS_ALERT_M else .PWR_STATUS_ALERT_H) 0 0
    { s with power := { s.power with alertAt := s.power.alertAt.fput i (s.eng + 1) 0 } }
def execRegulatorAlertRelease (i : Nat) (s : State) : Out := run (.regulatorAlertRelease i) s (effRegulatorAlertRelease i s)

def effAlertHoldExpiry (i dt : Nat) (s : State) : State :=
  let s := s.elapse dt
  let t := s.power.alertAt.fget i 0
  if bitOf s.power.alertOn i && !s.alertLow i && t != 0 && decide (t + 9999 ≤ s.eng) then
    let s := { s with power := { s.power with alertOn := clrBit s.power.alertOn i, alertAt := s.power.alertAt.fput i 0 0 } }
    (alertDies i).foldl (fun s n => s.setCause n 0 false) s
  else s
def execAlertHoldExpiry (i dt : Nat) (s : State) : Out := run (.alertHoldExpiry i dt) s (effAlertHoldExpiry i dt s)

/-- Slots of 16 that a stack's channels serve (R395): the least of its power slot limit, half of the slots under the traffic limit of Table 9-6,
and 4 under ALERT_M or lost coolant. -/
def State.slotLimit (s : State) (k : Nat) : Nat :=
  let n := if s.fb .MEM_STATUS_THROTTLED k then min 8 (s.f .PWR_STACK_SLOTS k) else s.f .PWR_STACK_SLOTS k
  if bitOf s.power.alertOn 8 || s.power.coolForced then min 4 n else n

/-- The 64ths of time that a hub withholds from open-share frames and copy transfers (R396, R399, R402). -/
def State.hubSpacing (s : State) (h : Nat) : Nat :=
  if bitOf s.power.alertOn 9 || bitOf s.power.hotHubs h then max 48 (s.power.spacing.fget h 0) else s.power.spacing.fget h 0

/-! ## The window boundary (R391 to R398) -/

/-- The intervals kept for the causes of markers. -/
def noteSeen (m : FMap (List (Nat × Nat))) (n lo hi : Nat) : FMap (List (Nat × Nat)) := m.fput n ((lo, hi) :: m.fget n []) []

def State.dieWindow (s : State) (e : Estimate) (compute : Int) (total b : Nat) (n : Nat) : State :=
  if !s.diePresent n then s
  else
    let p := e.die n
    let bud := min (s.f .PWR_CAP_DIE_W * wattE) (compute.toNat * s.dieDemand e n / max total 1)
    let s := (s.setF .PWR_DIE_EST_W n (p / wattE)).setF .PWR_DIE_BUBBLE n (bubbleStep (s.f .PWR_DIE_BUBBLE n) p bud)
    let d := s.diePwr n
    let forced := d.alertWin
    let s := s.setDiePwr n { d with energy := 0, ran := s.runsNow n, alertWin := (alertDies (n / 2)).contains n && bitOf s.power.alertOn (n / 2) }
    if forced then
      let s := s.incF .PWR_DIE_EVT_FORCED_WINDOWS n
      { s with power := { s.power with forcedSeen := noteSeen s.power.forcedSeen n (b - 2000) b } }
    else s

def State.stackWindow (s : State) (e : Estimate) (memory : Int) (total : Nat) (k : Nat) : State :=
  if !s.diePresent (k / 2) then s
  else
    let p := e.stk k
    let bud := memory.toNat * s.stkDemand e k / max total 1
    (s.setF .PWR_STACK_EST_DW k (p * 10 / wattE)).setF .PWR_STACK_SLOTS k (slotStep (s.f .PWR_STACK_SLOTS k) p bud)

/-- A cap is engaged on the die in the window that begins at b (R398). -/
def State.capWindow (s : State) (b n : Nat) : State :=
  if s.diePresent n && (s.f .PWR_DIE_BUBBLE n != 0 || decide (s.f .PWR_STACK_SLOTS (2 * n) < 16) || decide (s.f .PWR_STACK_SLOTS (2 * n + 1) < 16)) then
    let s := (s.incF .PWR_DIE_EVT_CAP_WINDOWS n).evDie n 0x12 0 1
    { s with power := { s.power with capSeen := noteSeen s.power.capSeen n b (b + 2000) } }
  else s

/-- One window boundary b. -/
def State.window (s : State) (b : Nat) : State :=
  let s := s.applyLimits b
  let (e, s) := s.estimate
  let total := e.all
  let avg := (total + sumN s.power.history) / 500 / wattE
  let s := { s with power := { s.power with history := (total :: s.power.history).take 499, nextWin := b + 2000 } }
  let cap := s.effectiveCap
  let guard := decide (cap < s.f .PWR_CAP_MODULE_W * wattE)
  let order := [bitsOf (s.f .PWR_CAP_TRUMP) 0 2, bitsOf (s.f .PWR_CAP_TRUMP) 2 2, bitsOf (s.f .PWR_CAP_TRUMP) 4 2]
  let dd := sumN ((List.range 16).map (s.dieDemand e))
  let dk := sumN ((List.range 32).map (s.stkDemand e))
  let bs := classBudgets cap order fun c => if c = 0 then (e.links : Int) else if c = 1 then (dk : Int) else (dd : Int)
  let w := fun (i : Int) => i.toNat / wattE
  let s := ((s.setF .PWR_MODULE_EST_W 0 (total / wattE)).setF .PWR_MODULE_AVG_W 0 avg).setF .PWR_MODULE_EFFECTIVE_W 0 (cap / wattE)
  let s := ((s.setF .PWR_CLASS_LINKS_W 0 (w (bs.getD 0 0))).setF .PWR_CLASS_MEMORY_W 0 (w (bs.getD 1 0))).setF .PWR_CLASS_COMPUTE_W 0 (w (bs.getD 2 0))
  let s := s.setF .PWR_STATUS_GUARD 0 (b2n guard)
  let s := if guard then s.incF .PWR_STATUS_GUARD_WINDOWS 0 else s
  let s := (List.range 16).foldl (fun s n => s.dieWindow e (bs.getD 2 0) dd b n) s
  let s := (List.range 32).foldl (fun s k => s.stackWindow e (bs.getD 1 0) dk k) s
  let s := (List.range 4).foldl (fun s h => if s.hubPresent h then
      { s.setF .PWR_HUB_EST_W h (e.hub h / wattE) with
        power := { s.power with spacing := s.power.spacing.fput h (bubbleStep (s.power.spacing.fget h 0) e.links (bs.getD 0 0).toNat) 0 } }
    else s) s
  let s := { s with power := { s.power with hubE := [], stackE := [], coroxE := 0 } }
  (List.range 16).foldl (fun s n => s.capWindow b n) s

def effPowerWindow (dt : Nat) (s : State) : State :=
  let s := (s.elapse dt).coolSettle
  if s.clockRuns && (decide (s.power.nextWin ≤ s.now) || decide (s.now + 2000 < s.power.nextWin)) then s.window (s.now / 2000 * 2000) else s
def execPowerWindow (dt : Nat) (s : State) : Out := run (.powerWindow dt) s (effPowerWindow dt s)

/-! ## Droop and steps (R386, R388, R400, R401) -/

/-- MHz of the unit domain in a state (Table 15-1). -/
def pstateMHz (st : Nat) : Nat := [2500, 2250, 2000, 1750, 1500, 1250, 1000, 625].getD st 625

def effDroopDetect (n : Nat) (s : State) : State :=
  let d := s.diePwr n
  if d.droop then s
  else
    let s := (s.incF .PWR_DIE_EVT_DROOPS n).setF .PWR_DIE_STRETCH n 1
    s.setDiePwr n { d with droop := true, stretchAt := if d.stretchAt != 0 then d.stretchAt else s.eng }
def execDroopDetect (n : Nat) (s : State) : Out := run (.droopDetect n) s (effDroopDetect n s)

def effDroopClear (n : Nat) (s : State) : State :=
  let d := s.diePwr n
  if d.droop then s.setDiePwr n { d with droop := false, holding := true, clearAt := s.eng } else s
def execDroopClear (n : Nat) (s : State) : Out := run (.droopClear n) s (effDroopClear n s)

/-- Stretching ends 20 ns after the clear; the cycles of doubled period are counted. -/
def effStretchEnd (n dt : Nat) (s : State) : State :=
  let s := s.elapse dt
  let d := s.diePwr n
  if s.fb .PWR_DIE_STRETCH n && !d.droop && decide (d.clearAt + 20 ≤ s.eng) then
    let c := (s.eng - d.stretchAt) * pstateMHz (s.f .PWR_DIE_PSTATE n) / 2000
    ((((s.setF .PWR_DIE_STRETCH n 0).incF .PWR_STRETCH_CYCLES n c).evDie n 0x02 0 c)).setDiePwr n { d with stretchAt := 0 }
  else s
def execStretchEnd (n dt : Nat) (s : State) : Out := run (.stretchEnd n dt) s (effStretchEnd n dt s)

/-- MHz of a die's stack and node domains (Table 15-1). -/
def DiePwr.nodeMHz (d : DiePwr) : Nat := if d.slow then 625 else 2500

/-- The stack and node domains reach PSTATE 7 with a forced die's unit domain, and leave it with its return (R384, R387, Table 15-4). -/
def State.setSlow (s : State) (n : Nat) : State :=
  s.setDiePwr n { s.diePwr n with slow := s.fb .PWR_DIE_FORCED n && s.f .PWR_DIE_PSTATE n == 7 }

/-- The state that the die moves to. -/
def State.pTarget (s : State) (n : Nat) : Nat := if s.fb .PWR_DIE_FORCED n then 7 else s.f .PWR_DIE_REQ n

/-- One state towards the target. -/
def toward (a b : Nat) : Nat := if a < b then a + 1 else if b < a then a - 1 else a

/-- A step begins; it ends 125 ns later. -/
def State.beginStep (s : State) (n : Nat) : State :=
  let s := s.setSlow n
  s.setDiePwr n { s.diePwr n with stepEnd := some (s.eng + 125, toward (s.f .PWR_DIE_PSTATE n) (s.pTarget n)), waiting := false }

/-- A droop, or the 2 µs after it, holds steps. -/
def State.stepHeld (s : State) (n : Nat) : Bool :=
  let d := s.diePwr n
  d.droop || (d.holding && decide (s.eng < d.clearAt + 2000))

def effPstateStep (n dt : Nat) (s : State) : State :=
  let s := (s.elapse dt).coolSettle
  let s := s.setReq n
  let d := s.diePwr n
  match d.stepEnd with
  | some (t, st) =>
    if t ≤ s.eng then
      let s := (s.setF .PWR_DIE_PSTATE n st).setDiePwr n { d with stepEnd := none }
      if st ≠ s.pTarget n then s.beginStep n else s.setSlow n
    else s
  | none =>
    let same := s.f .PWR_DIE_PSTATE n == s.pTarget n
    if same && (s.fb .PWR_DIE_FORCED n || !d.slow) then (s.setDiePwr n { d with waiting := false }).setSlow n
    else if !s.fb .PWR_DIE_FORCED n && s.stepHeld n then
      if d.waiting then s else (s.incF .PWR_DIE_EVT_HELD_STEPS n).setDiePwr n { d with waiting := true }
    else if same then (s.setDiePwr n { d with waiting := false }).setSlow n
    else s.beginStep n
def execPstateStep (n dt : Nat) (s : State) : Out := run (.pstateStep n dt) s (effPstateStep n dt s)

def effStepHoldExpiry (n dt : Nat) (s : State) : State :=
  let s := s.elapse dt
  let d := s.diePwr n
  if d.holding && !d.droop && decide (d.clearAt + 2000 ≤ s.eng) then
    let s := s.setDiePwr n { d with holding := false }
    if d.waiting && s.f .PWR_DIE_PSTATE n != s.pTarget n then s.beginStep n else (s.setDiePwr n { s.diePwr n with waiting := false }).setSlow n
  else s
def execStepHoldExpiry (n dt : Nat) (s : State) : Out := run (.stepHoldExpiry n dt) s (effStepHoldExpiry n dt s)

/-! ## Idle dies and NAP (R403, R404) -/

/-- The die has no resident group, no tap pass and no die copy command. -/
def State.dieQuiet (s : State) (n : Nat) : Bool :=
  !(s.groups.any fun (e : Nat × Group) => e.2.live && unitOf e.1 / 128 == n) &&
    ([2 * n, 2 * n + 1].all fun k => (s.tapE k).run.isNone && (s.tapE k).queue.isEmpty) &&
    ([32 + 2 * n, 33 + 2 * n].all fun e => (s.engine e).run.isNone && (s.engine e).queue.isEmpty)

def effDieIdleEntry (n : Nat) (s : State) : State :=
  if s.dieWorks n && s.dieQuiet n then s.setDiePwr n { s.diePwr n with idle := true } else s
def execDieIdleEntry (n : Nat) (s : State) : Out := run (.dieIdleEntry n) s (effDieIdleEntry n s)

/-- Caching agents of a partition: slices 0 to 3 and node-core L2s 4 to 19 of each die. -/
def State.partAgents (s : State) (p : Nat) : List Nat := (s.partDies p).flatMap fun n => (List.range 20).map fun a => 32 * n + a

/-- The ways of a slice's sets are invalid. -/
def State.clearWays (s : State) (sl : Nat) : State :=
  { s with caches := { s.caches with ways := s.caches.ways.drop fun k => decide (k < 64 * 8192) && k / 8192 == sl } }

/-- The translation caches of dies: clusters, dies, walkers and engines. -/
def State.dropTlb (s : State) (dies : List Nat) : State :=
  let on := fun c => decide (c < 528 || (632 ≤ c && c < 728)) && dies.contains
    (if c < 512 then c / 32 else if c < 528 then c - 512 else if c < 664 then (c - 632) / 2 else if c < 696 then (c - 664) / 2 else (c - 696) / 2)
  { s with xl := { s.xl with tlb := s.xl.tlb.drop on, walk := s.xl.walk.drop on } }

def effNapEntryDone (p dt : Nat) (s : State) : State :=
  let s := s.elapse dt
  if s.f .PWR_IDLE_STATE p ≠ 1 then s
  else
    let ds := s.partDies p
    let (bad, s) := s.flushNear ds
    let s := s.postLost p bad
    let s := s.giveUpAll (s.partAgents p).contains
    let s := (ds.flatMap fun n => (List.range 4).map fun i => 4 * n + i).foldl (fun s sl => s.clearWays sl) s
    let s := (s.dropTlb ds).dropClean fun c => ds.contains (nearDie c)
    let s := (s.partStacks p).foldl (fun s k => s.setF .MEM_STATUS_SELF_REFRESH k 1) s
    let s := { s with power := { s.power with napCores := setBit s.power.napCores p } }
    s.setF .PWR_IDLE_STATE p 2
def execNapEntryDone (p dt : Nat) (s : State) : Out := run (.napEntryDone p dt) s (effNapEntryDone p dt s)

/-- The partition is back in RUN: stacks that are not stopped leave self-refresh, node cores resume. -/
def State.leaveNap (s : State) (p : Nat) : State :=
  let s := (s.partStacks p).foldl (fun s k => if s.fb .MEM_STATUS_STOPPED k then s else s.setF .MEM_STATUS_SELF_REFRESH k 0) s
  let s := { s with power := { s.power with napCores := clrBit s.power.napCores p
                                            woken := s.power.woken.drop fun k => s.dieOwner (k / 2) == some p } }
  s.setF .PWR_IDLE_STATE p 0

def effNapExitDone (p dt : Nat) (s : State) : State :=
  let s := s.elapse dt
  if s.f .PWR_IDLE_STATE p = 3 then s.leaveNap p else s
def execNapExitDone (p dt : Nat) (s : State) : Out := run (.napExitDone p dt) s (effNapExitDone p dt s)

/-- A woken stack of a napping partition returns to self-refresh after 10 µs without access. -/
def effNapStackIdle (k dt : Nat) (s : State) : State :=
  let s := s.elapse dt
  let t := s.power.woken.fget k 0
  if s.napping k && t != 0 && decide (t + 9999 ≤ s.eng) then
    { s.setF .MEM_STATUS_SELF_REFRESH k 1 with power := { s.power with woken := s.power.woken.fput k 0 0 } }
  else s
def execNapStackIdle (k dt : Nat) (s : State) : Out := run (.napStackIdle k dt) s (effNapStackIdle k dt s)

/-- A write of PWR_IDLEp.LEVEL (R404). -/
def State.napWrite (s : State) (p level : Nat) : State :=
  if level = 1 then
    let quiet := (List.range 256).all fun r =>
      !(!s.ringModule r && s.ringPart r == p) || (!s.fb .RING_CTRL_ENABLE r && s.fb .RING_STATUS_DRAINED r)
    let free := !(s.tables.any fun (e : Nat × TTable) => e.2.live && e.1 / 2 ^ 32 == p) &&
      !((List.range 256).any fun ix => s.fb .TLS_RES_FLOW_VALID ix && s.f .TLS_RES_FLOW_PART ix == p)
    if !quiet || !free then s.setF .PWR_IDLE_CFG_ERR p 1
    else if s.f .PWR_IDLE_STATE p = 0 || s.f .PWR_IDLE_STATE p = 3 then
      { (s.setF .PWR_IDLE_LEVEL p 1).setF .PWR_IDLE_STATE p 1 with power := { s.power with napAt := s.power.napAt.fput p s.eng 0 } }
    else s.setF .PWR_IDLE_LEVEL p 1
  else
    let s := s.setF .PWR_IDLE_LEVEL p 0
    if s.f .PWR_IDLE_STATE p = 1 || s.f .PWR_IDLE_STATE p = 2 then s.setF .PWR_IDLE_STATE p 3 else s

/-! ## Coolant from READY on (R408) -/

/-- COOL_OK deasserts in READY: every die forced, stacks limited, COOL_LOST set. -/
def State.coolLost (s : State) : State :=
  let s := (s.setF .PWR_STATUS_COOL_OK 0 0).setF .PWR_STATUS_COOL_LOST 0 1
  let s := (List.range 16).foldl (fun s n => s.setCause n 2 true) s
  { s with power := { s.power with coolForced := true, coolLostAt := some s.eng, coolBackAt := none } }

/-- Every partition stopped, its stacks in self-refresh. -/
def effCoolStopTimeout (dt : Nat) (s : State) : State :=
  let s := s.elapse dt
  match s.power.coolLostAt with
  | some t =>
    if s.f .RST_STATUS_PHASE = 5 && !s.fb .PWR_STATUS_COOL_OK && !s.fb .PWR_STATUS_COOL_STOP && decide (t + 2000000000 ≤ s.eng) then
      let s := (List.range 32).foldl (fun s k => if (s.dieOwner (k / 2)).isSome then s.stopStack k else s) s
      s.setF .PWR_STATUS_COOL_STOP 0 1
    else s
  | none => s
def execCoolStopTimeout (dt : Nat) (s : State) : Out := run (.coolStopTimeout dt) s (effCoolStopTimeout dt s)

end Sys2Proof.Machine
end

