-- ==== Sys2Proof/Machine/HostLoss.lean ====
section
/-!
DEFINITION. The PCIe ports' events: link, configuration, completions of module reads, host loss (R109, R316, R317) and peer verification (R314).
-/

namespace Sys2Proof.Machine

open Sys2Proof

/-! ## Host loss -/

/-- A data mover has used port k, or is at a span that does: the first span of a command on an engine of the port's hub, the spans under way. -/
def Mover.uses (m : Mover) (k : Nat) : Bool :=
  m.used.contains k || (decide (m.engine < 16) && m.engine / 8 == k && m.off == 0) ||
    (m.srcAt.toList ++ m.dstAt.toList).any fun h => (h.loc.bind Loc.port?) == some k

/-- A command that has begun an access of host memory through port k: a data mover that uses the port, a held host address, or a flushing
read. -/
def State.usesPort (s : State) (k r : Nat) (e : Entry) : Bool :=
  e.flush.contains k || (s.movers.any fun m => m.ring == r && m.pos == e.pos && m.uses k) ||
    e.holds.any fun h => (h.loc.bind Loc.port?) == some k

/-- A command ends with HOST_LOST (R317): its work is dropped, its flushing reads on the port are forgotten, and a result of success not yet
mirrored is replaced. -/
def State.loseHost (s : State) (k detail r pos : Nat) : State :=
  match s.entry? r pos with
  | none => s
  | some e =>
    if e.st == .finished then s.modEntry r pos fun e => { e with flush := e.flush.filter (· != k) }
    else
      let ok := match e.res with
        | some x => x.status == stDONE || x.status == stREPLAYED
        | none => true
      let s := if e.res.isNone then s.dropWork r pos else s
      let s := s.modEntry r pos fun e =>
        { e with flush := e.flush.filter (· != k), fwd := [],
                 res := if ok then some { status := stHOSTLOST, detail := detail } else e.res,
                 stall := if ok then none else e.stall }
      if ok then s.incF .PCI_LOST_COMMANDS k else s

/-- The unfinished commands that use port k end with HOST_LOST. -/
def State.loseUsers (s : State) (k detail : Nat) : State :=
  (s.openCmds.filter fun (r, e) => (e.st == .running || e.st == .finished) && s.usesPort k r e).foldl
    (fun s (r, e) => s.loseHost k detail r e.pos) s

/-- The enabled rings behind port k stop (R109). -/
def State.stopRings (s : State) (k : Nat) : State :=
  (List.range 256).foldl (fun s r =>
    if s.fb .RING_CTRL_ENABLE r && s.f .RING_CTRL_LOC r == k + 1 then (s.setScan r .idle).setF .RING_STATUS_HOST_STOPPED r 1 else s) s

/-- Peer verifications in progress on port k fail. -/
def State.refusePeers (s : State) (k : Nat) : State :=
  (List.range 16).foldl (fun s i => if s.f .PCI_PEER_STATE (16 * k + i) = 1 then s.setF .PCI_PEER_STATE (16 * k + i) 3 else s) s

/-- A host-loss event that stops mastering on port k (events 1 to 4 of Table 12-5). -/
def State.hostLost (s : State) (k detail : Nat) : State :=
  let s := s.setPort k { s.port k with reads := [], queued := [], lastEvent := detail }
  let s := (s.setF .PCI_LINK_STOPPED k 1).stopRings k
  (s.refusePeers k).loseUsers k detail

/-- The function's configuration space is back at its reset values: decoding and mastering off, no addresses in the BARs, BAR2 of 64 GiB, D0. -/
def State.configReset (s : State) (k : Nat) : State :=
  (s.setF .PCI_LINK_BME k 0).setPort k { s.port k with memEn := false, bar0 := 0, bar2 := 0, bar2Log := 36, d3hot := false }

/-- The link's fields of PCI_LINK: up or not, its speed, width and FLIT mode. -/
def State.linkFields (s : State) (k : Nat) (up : Bool) (speed width : Nat) (flit : Bool) : State :=
  (((s.setF .PCI_LINK_UP k (b2n up)).setF .PCI_LINK_SPEED k speed).setF .PCI_LINK_WIDTH k width).setF .PCI_LINK_FLIT k (b2n flit)

def State.linkLoss (s : State) (k : Nat) : State := ((s.linkFields k false 0 0 false).configReset k).hostLost k 1

def effPcieLinkDown (k : Nat) (s : State) : State :=
  if s.fb .PCI_LINK_UP k then (s.linkLoss k).incF .PCI_EVENTS_LINK_DOWNS k else s
def execPcieLinkDown (k : Nat) (s : State) : Out := run (.pcieLinkDown k) s (effPcieLinkDown k s)

def effPcieHotReset (k : Nat) (s : State) : State :=
  if s.fb .PCI_LINK_UP k then ((s.configReset k).hostLost k 2).incF .PCI_EVENTS_HOT_RESETS k else s
def execPcieHotReset (k : Nat) (s : State) : Out := run (.pcieHotReset k) s (effPcieHotReset k s)

def effPcieFlr (k : Nat) (s : State) : State :=
  if s.fb .PCI_LINK_UP k then ((s.configReset k).hostLost k 3).incF .PCI_EVENTS_FLRS k else s
def execPcieFlr (k : Nat) (s : State) : Out := run (.pcieFlr k) s (effPcieFlr k s)

/-- Bus Master Enable, and with it Memory Space Enable, as the host sets it: mastering goes on. -/
def State.setBme (s : State) (k : Nat) : State := (s.setF .PCI_LINK_BME k 1).setF .PCI_LINK_STOPPED k 0

/-- Bus Master Enable cleared: host-loss event 4. -/
def State.clearBme (s : State) (k : Nat) : State := if s.fb .PCI_LINK_BME k then (s.setF .PCI_LINK_BME k 0).hostLost k 4 else s

def effBusMasterEnableCleared (k : Nat) (s : State) : State := s.clearBme k
def execBusMasterEnableCleared (k : Nat) (s : State) : Out := run (.busMasterEnableCleared k) s (effBusMasterEnableCleared k s)

/-- The host sets Bus Master Enable, and in the same write of the command register Memory Space Enable (DESIGN CHOICE,
notes/assumptions/58). -/
def effBusMasterEnableSet (k : Nat) (s : State) : State :=
  if s.fb .PCI_LINK_UP k then (s.setBme k).setPort k { s.port k with memEn := true } else s
def execBusMasterEnableSet (k : Nat) (s : State) : Out := run (.busMasterEnableSet k) s (effBusMasterEnableSet k s)

def effPcieRetrain (k : Nat) (s : State) : State :=
  if s.fb .PCI_LINK_UP k then s.incF .PCI_EVENTS_RETRAINS k else s
def execPcieRetrain (k : Nat) (s : State) : Out := run (.pcieRetrain k) s (effPcieRetrain k s)

/-- PERST# deasserts: after READY the port's function and link are reset, host-loss event 1 (R413). -/
def effPerstDeassert (k : Nat) (s : State) : State :=
  if s.f .RST_STATUS_PHASE = 5 then
    let s' := s.linkLoss k
    if s.fb .PCI_LINK_UP k then s'.incF .PCI_EVENTS_LINK_DOWNS k else s'
  else s
def execPerstDeassert (k : Nat) (s : State) : Out := run (.perstDeassert k) s (effPerstDeassert k s)

/-! ## Configuration space (R76, R311, Table 12-3) -/

/-- `v` in bits `lo` to `lo + n - 1` of a dword whose other bits are those of `x`. -/
def putBits (x lo n v : Nat) : Nat := x % 2 ^ lo + v % 2 ^ n * 2 ^ lo + x / 2 ^ (lo + n) * 2 ^ (lo + n)

/-- A dword of a function's type 0 header: what R76 and Table 12-3 fix of it (device ID, class code, header type, the two BARs, no expansion ROM,
no interrupt pin), and a free value elsewhere. The places of the fields are those of the PCI Express Base Specification
(notes/assumptions/58). -/
def State.pciHeader (s : State) (k free : Nat) : Nat → Nat
  | 0 => putBits free 16 16 0x1632
  | 1 => putBits (putBits free 0 2 (2 * b2n (s.port k).memEn)) 2 1 (s.f .PCI_LINK_BME k)
  | 2 => putBits free 8 24 0x120000
  | 3 => putBits free 16 8 0
  | 4 => (s.port k).bar0 % 2 ^ 32 + 4
  | 5 => (s.port k).bar0 / 2 ^ 32
  | 6 => (s.port k).bar2 % 2 ^ 32 + 12
  | 7 => (s.port k).bar2 / 2 ^ 32
  | 8 | 9 | 12 => 0
  | 15 => putBits free 8 8 0
  | _ => free

/-- The value of a register of configuration space. -/
def State.cfgValue (s : State) (k free : Nat) : CfgReg → Nat
  | .header n => s.pciHeader k free n
  | .serial high => if high then s.f .ID_SERIAL_SERIAL 0 / 2 ^ 32 else s.f .ID_SERIAL_SERIAL 0 % 2 ^ 32
  | .rebarSizes => putBits free 4 28 (2 ^ 28 - 2 ^ 10)
  | .rebarControl => putBits (putBits (putBits free 0 3 2) 5 3 1) 8 6 ((s.port k).bar2Log - 20)
  | .power => putBits free 0 2 (if (s.port k).d3hot then 3 else 0)
  | .other _ => free

/-- A BAR's address with its low or high dword replaced, a multiple of the BAR's size. -/
def barPut (old size v : Nat) (high : Bool) : Nat :=
  (if high then v * 2 ^ 32 + old % 2 ^ 32 else old / 2 ^ 32 * 2 ^ 32 + v) / size * size

/-- A configuration write; what the registers leave read-only, and the registers whose effect the spec does not name, keep their values. -/
def State.cfgWrite (s : State) (k v : Nat) : CfgReg → State
  | .header 1 =>
    let s := s.setPort k { s.port k with memEn := bitOf v 1 }
    if bitOf v 2 then s.setBme k else s.clearBme k
  | .header 4 => s.setPort k { s.port k with bar0 := barPut (s.port k).bar0 (2 ^ 28) v false }
  | .header 5 => s.setPort k { s.port k with bar0 := barPut (s.port k).bar0 (2 ^ 28) v true }
  | .header 6 => s.setPort k { s.port k with bar2 := barPut (s.port k).bar2 (2 ^ (s.port k).bar2Log) v false }
  | .header 7 => s.setPort k { s.port k with bar2 := barPut (s.port k).bar2 (2 ^ (s.port k).bar2Log) v true }
  | .rebarControl =>
    let n := bitsOf v 8 6 + 20
    if 30 ≤ n && n ≤ 47 then s.setPort k { s.port k with bar2Log := n, bar2 := (s.port k).bar2 / 2 ^ n * 2 ^ n } else s
  | .power =>
    if v % 4 = 3 && !(s.port k).d3hot then (s.setPort k { s.port k with d3hot := true }).hostLost k 4
    else if v % 4 = 0 then s.setPort k { s.port k with d3hot := false }
    else s
  | _ => s

/-- A configuration request: until READY it is answered with Request Retry Status (R413); afterwards a read answers the register's value, and a
write takes effect. -/
def effConfigRequest (c : CfgRead) (s : State) : State :=
  let k := c.port
  if s.f .RST_STATUS_PHASE ≠ 5 then s.setPort k { s.port k with retryStatus := (s.port k).retryStatus + 1 }
  else match c.write with
    | some v => s.cfgWrite k v c.reg
    | none =>
      let (free, s) := s.takeFree
      s.setPort k { s.port k with cfgReads := (c.reg, s.cfgValue k (free % 2 ^ 32) c.reg) :: (s.port k).cfgReads }
def execConfigRequest (c : CfgRead) (s : State) : Out := run (.configRequest c) s (effConfigRequest c s)

/-- A port completes training (R311, Table 12-3); at 64 GT/s it is in FLIT mode. -/
def effPcieLinkUp (k speed width : Nat) (flit : Bool) (s : State) : State :=
  if s.fb .PCI_LINK_UP k || !s.hubWorks k then s
  else s.linkFields k true speed width (flit || speed == 6)
def execPcieLinkUp (k speed width : Nat) (flit : Bool) (s : State) : Out :=
  runIf (okLink k speed width) s (effPcieLinkUp k speed width flit s)

/-! ## Completions of module reads -/

/-- A successful completion: bytes that the host holds are known to the module, and a flushing read ends. -/
def effPcieCompletion (k tag addr : Nat) (d : Bytes) (s : State) : State :=
  if !s.portOk k then s
  else
    let s := { s with hostMem := (List.range d.length).foldl (fun m i =>
      FMap.fput m (hostKey k ((addr + i) % 2 ^ 64)) (d.getD i 0) 0) s.hostMem }
    let x := (s.port k).reads.fget tag ⟨0, 0, false, 0, 0⟩
    if !x.flush then s
    else
      let s := s.setPort k { s.port k with reads := (s.port k).reads.fput tag ⟨0, 0, false, 0, 0⟩ ⟨0, 0, false, 0, 0⟩ }
      let s := s.pumpReads k 1
      (s.modEntry x.ring x.pos fun e => { e with flush := e.flush.erase k }).afterFlush x.ring x.pos
def execPcieCompletion (k tag addr : Nat) (d : Bytes) (s : State) : Out :=
  run (.pcieCompletion k tag addr d) s (effPcieCompletion k tag addr d s)

/-- A module read of a command, or of a ring's own structures when no command stands at the position, fails with events 5 to 8 of Table 12-5;
mastering goes on. -/
def State.readLost (s : State) (k r pos detail : Nat) : State :=
  match s.entry? r pos with
  | some e =>
    if (e.st == .running || e.st == .finished) && s.usesPort k r e then
      let s := s.setPort k { s.port k with
        reads := (s.port k).reads.filter fun (x : Nat × PRead) => !(x.2.ring == r && x.2.pos == pos)
        queued := (s.port k).queued.filter fun x => !(x.1 == r && x.2.1 == pos) }
      let s := s.pumpReads k 1024
      s.loseHost k detail r pos
    else s
  | none =>
    if s.f .RING_CTRL_LOC r == k + 1 && (s.ring r).scan != .idle then s.ringReadFail r (.host k) else s

/-- When a command's read on the port was sent. -/
def State.readSent (s : State) (k r pos : Nat) : Nat :=
  match ((s.port k).reads.find? fun (x : Nat × PRead) => x.2.ring == r && x.2.pos == pos), s.entry? r pos with
  | some x, _ => x.2.at_
  | none, some e => if e.op = 0x03 then e.pollAt else e.startAt
  | none, none => (s.ring r).lastRead

def effCompletionTimeout (k r pos dt : Nat) (s : State) : State :=
  let s := s.elapse dt
  if s.readSent k r pos + 50000000 ≤ s.eng then s.readLost k r pos 5 else s
def execCompletionTimeout (k r pos dt : Nat) (s : State) : Out := run (.completionTimeout k r pos dt) s (effCompletionTimeout k r pos dt s)

def effCompletionUr (k r pos : Nat) (s : State) : State := s.readLost k r pos 6
def execCompletionUr (k r pos : Nat) (s : State) : Out := run (.completionUr k r pos) s (effCompletionUr k r pos s)

def effCompletionCa (k r pos : Nat) (s : State) : State := s.readLost k r pos 7
def execCompletionCa (k r pos : Nat) (s : State) : Out := run (.completionCa k r pos) s (effCompletionCa k r pos s)

def effPoisonedCompletion (k r pos : Nat) (s : State) : State := s.readLost k r pos 8
def execPoisonedCompletion (k r pos : Nat) (s : State) : Out := run (.poisonedCompletion k r pos) s (effPoisonedCompletion k r pos s)

/-! ## Peers (R314) -/

/-- Bus address at which the identity registers of a peer are read: in its first hub block, or its second. -/
def State.peerBlock (s : State) (ix n : Nat) : Nat := s.f .PCI_PEER_BAR0_ADDR ix * 4096 + 0x1000000 + n * 0x100000

/-- The identity reads of a peer complete: ID_PART and ID_SERIAL of the first place, and of the second, which is read when the first ID_PART
is zero. A read that failed refuses the peer. -/
def effPeerVerifyDone (k i : Nat) (first second : PeerIdent) (s : State) : State :=
  let ix := 16 * k + i
  if s.f .PCI_PEER_STATE ix ≠ 1 then s
  else
    let again := !first.failed && first.part == 0
    let c := if again then second else first
    let s := if again then s.setPort k { s.port k with idReads := s.peerBlock ix 1 :: (s.port k).idReads } else s
    s.setF .PCI_PEER_STATE ix (if !c.failed && bitsOf c.part.toNat 16 16 == 9 && c.serial.toNat == s.f .PCI_PEER_SERIAL_SERIAL ix then 2 else 3)
def execPeerVerifyDone (k i : Nat) (first second : PeerIdent) (s : State) : Out :=
  run (.peerVerifyDone k i first second) s (effPeerVerifyDone k i first second s)

def effPeerVerifyTimeout (k i dt : Nat) (s : State) : State :=
  let s := s.elapse dt
  let ix := 16 * k + i
  if s.f .PCI_PEER_STATE ix = 1 && decide ((s.port k).verifyAt.fget i 0 + 10000000 ≤ s.eng) then s.setF .PCI_PEER_STATE ix 3 else s
def execPeerVerifyTimeout (k i dt : Nat) (s : State) : Out := run (.peerVerifyTimeout k i dt) s (effPeerVerifyTimeout k i dt s)

end Sys2Proof.Machine
end

