-- ==== Sys2Proof/Machine/Security.lean ====
section
/-!
DEFINITION. Critical commands on keys, attestation and boot release (chapter 17): the keeper's commits, KEY_INSTALL, KEY_RETIRE, ATTEST and its
signatures, BOOT_RELEASE, and the hold of node cores.
-/

namespace Sys2Proof.Machine

open Sys2Proof

/-! ## Keeper commits (R436, R437, R441) -/

/-- The keeper with a slot record replaced. -/
def Keeper.setSlot (k : Keeper) (i : Nat) (x : KeySlot) : Keeper := { k with slots := k.slots.set i x }

/-- The record a KEY_INSTALL asks for may still be committed (R443); else its DETAIL. -/
def Keeper.installOk (k : Keeper) (i : Nat) : Option Nat := if (k.slots.getD i {}).state = 1 then some 1 else none

/-- Installers: INSTALLED slots whose RIGHTS hold bit 2. -/
def Keeper.installers (k : Keeper) : List Nat :=
  (List.range 16).filter fun i => (k.slots.getD i {}).state == 1 && bitOf (k.slots.getD i {}).rights 2

/-- A slot may still be retired (R445); else the DETAIL. -/
def Keeper.retireOk (k : Keeper) (i : Nat) : Option Nat :=
  if (k.slots.getD i {}).state ≠ 1 then some 2
  else if k.installers = [i] then some 3
  else none

/-- One commit, an indivisible compare-and-write: whether it was performed, or the DETAIL that refuses it, and the keeper after it. Counters
and leaf indices never move backward. -/
def Keeper.commit (k : Keeper) (c : Commit) : Option Nat × Keeper :=
  let k1 := { k with commits := k.commits + 1 }
  match c with
  | .counter ring pos i v _ =>
    let x := k.slots.getD i {}
    if x.last < v || (x.last == v && x.lastRing == ring && x.lastPos == pos) then
      (none, k1.setSlot i { x with last := v, lastRing := ring, lastPos := pos })
    else (some 0, k)
  | .slot ring pos i y claim =>
    let x := k.slots.getD i {}
    let why := if y.state = 1 then k.installOk i else k.retireOk i
    match why with
    | some d => (some d, k)
    | none =>
      let z := if y.state = 1 then { x with state := 1, key := y.key, rights := y.rights, scope := y.scope, last := max y.last x.last }
        else { x with state := 2, key := [] }
      (none, { k1.setSlot i { z with byRing := ring, byPos := pos } with claims := if claim then k.claims + 1 else k.claims })
  | .leaf _ _ n => (none, { k1 with nextLeaf := max k.nextLeaf n, exhausted := k.exhausted || decide (2 ^ 40 ≤ n) })
  | .minimum _ _ p v => (none, { k1 with mins := k.mins.set p (max (k.mins.getD p 0) v) })

def State.askKeeper (s : State) (c : Commit) : State := { s with keeper := { s.keeper with queue := s.keeper.queue ++ [c] } }

/-- The keeper when the module stops: of each commit in flight, in order, a free value decides whether it was performed (R436). -/
def State.settleKeeper (s : State) : State :=
  let s := s.keeper.queue.foldl (fun s c =>
    let (b, s) := s.takeFree
    if bitOf b 0 then { s with keeper := (s.keeper.commit c).2 } else s) s
  { s with keeper := { s.keeper with queue := [], waiting := [], signing := none, reports := [] } }

/-! ## KEY_INSTALL and KEY_RETIRE (R442 to R446) -/

/-- The key of the packet, unwrapped with the key that authenticated it. -/
def Entry.newKey (e : Entry) : Bytes :=
  let k := sliceB e.pkt (64 + 16) 32
  if bitOf (e.body 4 1) 0 then
    xorBytes k (kmac256 e.key (leBytes 8 (e.hdr 32 8) ++ leBytes 1 (e.body 0 1)) 256 "LV9-1632 WRAP")
  else k

def effKeyInstall (r pos : Nat) (s : State) : State :=
  s.startCmd r pos 0x82 fun s e =>
    let i := e.body 0 1
    let x := s.keySlot i
    let rights := e.body 2 2
    let scope := e.body 1 1
    if 16 ≤ i || 18 ≤ scope || 512 ≤ rights || 2 ≤ e.body 4 1 || !e.zero 5 3 || !e.zero 48 16 then s.endWith r pos stPARAM
    else if e.retried && x.state == 1 && x.key == e.newKey && x.rights == rights && x.scope == scope then s.doneWith r pos
    else if x.state = 1 then s.endWith r pos stPARAM 1
    else if rights = 0 then s.endWith r pos stPARAM
    else s.askKeeper (.slot r pos i { state := 1, key := e.newKey, rights := rights, scope := scope, last := e.body 8 8 } (s.isClaim r e))
def execKeyInstall (r pos : Nat) (s : State) : Out := run (.keyInstall r pos) s (effKeyInstall r pos s)

def effKeyRetire (r pos : Nat) (s : State) : State :=
  s.startCmd r pos 0x83 fun s e =>
    let i := e.body 0 1
    let x := s.keySlot i
    if 16 ≤ i || !e.zero 1 63 then s.endWith r pos stPARAM
    else if e.retried && x.state == 2 && x.byRing == r && x.byPos == pos then s.doneWith r pos
    else match s.keeper.retireOk i with
      | some d => s.endWith r pos stPARAM d
      | none => s.askKeeper (.slot r pos i { state := 2 } false)
def execKeyRetire (r pos : Nat) (s : State) : Out := run (.keyRetire r pos) s (effKeyRetire r pos s)

/-! ## ATTEST (R447 to R449) -/

/-- The word whose field k of width w holds instance k of a register field. -/
def State.packed (s : State) (x : Fld) (n w : Nat) : Nat :=
  (List.range n).foldl (fun v k => v + s.f x k * 2 ^ (w * k)) 0

/-- The words of the report that are registers. -/
def State.wordPart (s : State) : Nat := s.f .ID_PART_CODE + s.fuse.modrev % 2 ^ 16 * 2 ^ 32
def State.wordPresent (s : State) : Nat :=
  s.f .ID_PRESENT_DIES + s.f .ID_PRESENT_HUBS * 2 ^ 16 + s.f .ID_PRESENT_GUESTS * 2 ^ 20
def State.wordFailed (s : State) : Nat := s.f .RST_FAILED_DIES + s.f .RST_FAILED_HUBS * 2 ^ 16 + s.f .RST_FAILED_STACKS * 2 ^ 32

/-- Bytes 0 to 1,503 of the attestation report (Table 17-3). -/
def State.reportText (s : State) (nonce : Bytes) (g : Sign) : Bytes :=
  let slot := fun (x : KeySlot) =>
    [BitVec.ofNat 8 x.state, 0] ++ leBytes 2 x.rights ++ leBytes 1 x.scope ++ zeroBytes 3 ++ leBytes 8 x.last
  let boot := fun p =>
    leBytes 1 (s.f .SEC_BOOT_STATE p) ++ zeroBytes 3 ++ leBytes 4 (s.f .SEC_BOOT_VERSION p) ++
      leBytes 32 (s.keeper.bootHash.fget p 0) ++ leBytes 4 (s.keeper.mins.getD p 0) ++ zeroBytes 4
  leBytes 4 1 ++ leBytes 4 11397 ++ leBytes 8 s.fuse.serial ++ leBytes 8 s.wordPart ++ leBytes 8 g.time ++ sliceB nonce 0 32 ++
    leBytes 8 (s.packed .ID_DIE_STEP_STEP 16 4) ++ leBytes 8 s.wordPresent ++ leBytes 8 s.wordFailed ++
    leBytes 8 (s.packed .ID_PART_MAP_PART 16 4) ++
    leBytes 8 (s.f .ID_PART_VALID_DIES + b2n s.claimed * 2 ^ 16 + b2n s.keeper.rootHash.isSome * 2 ^ 17 +
      min s.keeper.claims (2 ^ 32 - 1) * 2 ^ 32) ++
    sliceB (s.keeper.rootHash.getD []) 0 32 ++ (List.range 16).flatMap (fun i => slot (s.keySlot i)) ++
    (List.range 16).flatMap (fun n => leBytes 16 (if s.diePresent n then s.keeper.dieIds.fget n 0 else 0)) ++
    (List.range 16).flatMap boot ++ sliceB s.keeper.idpk 0 68 ++ zeroBytes 4 ++ leBytes 8 g.leaf ++ zeroBytes 8

/-- The report with the signature that the identity key makes with the leaf. -/
def State.report (s : State) (nonce : Bytes) (g : Sign) : Bytes :=
  let t := s.reportText nonce g
  t ++ (List.range 9893).map fun i => Config.identitySig g.leaf t i

/-- The next waiting ATTEST takes a leaf, when no signature is in progress: steps 1 and 2 of R448. -/
def State.nextSign (s : State) : Nat → State
  | 0 => s
  | n + 1 =>
    if s.keeper.signing.isSome then s
    else match s.keeper.waiting with
      | [] => s
      | (r, pos) :: t =>
        let s := { s with keeper := { s.keeper with waiting := t } }
        if !s.isActive r pos then s.nextSign n
        else if s.keeper.exhausted then (s.endWith r pos stUNSUPPORTED).nextSign n
        else
          let leaf := s.keeper.nextLeaf
          let s := { s with keeper := { s.keeper with signing := some { hub := s.ringHub r, ring := r, pos := pos, leaf := leaf, time := s.now } } }
          s.askKeeper (.leaf r pos (leaf + 1))

/-- The report of a signed ATTEST is written, from the byte on that it has reached, and ends the command. -/
def State.writeReport (s : State) (r pos : Nat) (b : Bytes) : State :=
  match s.entry? r pos with
  | none => s
  | some e =>
    if e.remoteOpen ≠ 0 then s.modEntry r pos fun e => { e with phase := 9 }
    else match s.writeSpans r pos (e.body 32 8) e.prog b with
      | (false, s) => if s.isActive r pos then s else s.dropReport r pos
      | (true, s) =>
        match s.entry? r pos with
        | none => s
        | some e => if !e.active || (e.phase = 4 && e.remoteOpen ≠ 0) then s else s.attestDone r pos e

/-- ATTEST (R449): it waits for a signature, or, signed, goes on writing its report. -/
def effAttest (r pos : Nat) (s : State) : State :=
  s.startCmd r pos 0x87 fun s e =>
    if e.body 32 8 % 64 ≠ 0 || !e.zero 44 20 then s.endWith r pos stPARAM
    else if e.body 40 4 < 11397 then s.endWith r pos stPARAM 4
    else match s.keeper.reports.find? fun x => x.1 == r && x.2.1 == pos with
      | some x => s.writeReport r pos x.2.2.2
      | none =>
        if s.keeper.exhausted then s.endWith r pos stUNSUPPORTED
        else
          let s := { s with keeper := { s.keeper with waiting := s.keeper.waiting ++ [(r, pos)] } }
          s.nextSign (s.keeper.waiting.length + 1)
def execAttest (r pos : Nat) (s : State) : Out := run (.attest r pos) s (effAttest r pos s)

/-- The signature of a hub is finished: the report is written and the next one begins. -/
def effSignatureDone (h dt : Nat) (s : State) : State :=
  let s := s.elapse dt
  match s.keeper.signing with
  | none => s
  | some g =>
    if g.hub ≠ h || !g.ready || !s.hubWorks h then s
    else
      let s := { s with keeper := { s.keeper with signing := none } }
      let s := match (s.entry? g.ring g.pos).filter Entry.active with
        | none => s
        | some e =>
          let b := s.report (sliceB e.pkt 64 32) g
          { s with keeper := { s.keeper with reports := s.keeper.reports ++ [(g.ring, g.pos, g.leaf, b)] } }.writeReport g.ring g.pos b
      s.nextSign (s.keeper.waiting.length + 1)
def execSignatureDone (h dt : Nat) (s : State) : Out := runIf (okHub h) s (effSignatureDone h dt s)

/-! ## Node cores held and started (R450 to R452) -/

/-- Every node core of p is held (R34, R419, R420): the boot image opens to writes, and a running BOOT_RELEASE of p ends with ABORTED. -/
def State.holdCores (s : State) (p : Nat) : State :=
  let mine := fun c => (s.partDies p).contains (c / 16)
  let s := { s with cores := s.cores.drop mine
                    keeper := { s.keeper with bootRange := s.keeper.bootRange.drop fun q => q == p
                                              bootHash := s.keeper.bootHash.drop fun q => q == p } }
  let s := (s.partDies p).foldl (fun s n => s.setF .RST_DIE_CORES_HELD n 1) s
  let s := (s.setF .SEC_BOOT_STATE p 0).setF .SEC_BOOT_VERSION p 0
  let busy := s.openCmds.filter fun (_, e) => e.op == 0x88 && e.active && e.body 0 1 % 16 == p
  busy.foldl (fun s (r, e) => (s.endWith r e.pos stABORTED).incF .RST_COUNTS_ABORTED 0) s

/-- Whether a physical range lies wholly in the stacks of p, outside cellar regions. -/
def State.rangeIn (s : State) (p a len : Nat) : Bool :=
  (List.range ((a + len - 1) / 2048 - a / 2048 + 1)).all fun i =>
    match s.decodePA (max a ((a / 2048 + i) * 2048)) with
    | none => false
    | some (k, off) => s.dieOwner (k / 2) == some p && !s.inCellar k off

/-- A BOOT_RELEASE fails: the image opens to writes again. -/
def State.bootFail (s : State) (r pos p st detail : Nat) (counted : Bool) : State :=
  let s := { s with keeper := { s.keeper with bootRange := s.keeper.bootRange.drop fun q => q == p
                                              bootHash := s.keeper.bootHash.drop fun q => q == p } }
  let s := (s.setF .SEC_BOOT_STATE p 0).endWith r pos st detail
  let s := if counted then s.incF .SEC_EVENTS_BOOT_FAILS 0 else s
  if st = stTAG then s.incF .SEC_EVENTS_TAG_FAILS 0 else if st = stCOUNTER then s.incF .SEC_EVENTS_COUNTER_FAILS 0 else s

/-- Step 6: the node cores of p's working dies start. -/
def State.startCores (s : State) (r pos p image entry version : Nat) : State :=
  let ds := (s.partDies p).filter s.dieWorks
  let s := ds.foldl (fun s n => (s.setF .RST_DIE_CORES_HELD n 0).ranOn n 2) s
  let s := (ds.flatMap fun n => (List.range 16).map fun c => 16 * n + c).foldl (fun s c =>
    s.setCore c { running := true, entry := image + entry, a0 := c, a1 := image }) s
  let s := (s.setF .SEC_BOOT_STATE p (if s.keeper.rootHash.isSome then 2 else 3)).setF .SEC_BOOT_VERSION p version
  s.doneWith r pos (16 * ds.length) 0 version

/-- Reads a physical range for a BOOT_RELEASE, or ends the command. -/
def State.bootRead (s : State) (r pos p a len : Nat) : Option Bytes × State :=
  match s.readPhys (some p) .bulk a len with
  | (.ok b, s) => (some b, s)
  | (.error (x, pa), s) =>
    let s := { s with keeper := { s.keeper with bootRange := s.keeper.bootRange.drop fun q => q == p } }
    (none, (s.setF .SEC_BOOT_STATE p 0).failAccess r pos (.mem x pa) 1 7 (s.hubAgent r))

/-- Steps 3 to 5 on the image read, then the start of the cores, or the commit of the new minimum first. -/
def State.bootJudge (s : State) (r pos p : Nat) (e : Entry) (img pk sig : Bytes) : State :=
  let version := fldB img 4 4
  let judged := s.keeper.rootHash.isSome
  let s := { s with keeper := { s.keeper with bootHash := s.keeper.bootHash.fput p (leNat (shake256 img 32)) 0 } }
  if judged && some (shake256 pk 32) != s.keeper.rootHash then s.bootFail r pos p stTAG 1 true
  else if !xmssVerify pk sig img then s.bootFail r pos p stTAG 2 true
  else if judged && !bitOf (fldB img 24 2) p then s.bootFail r pos p stTAG 3 true
  else if judged && decide (version < s.keeper.mins.getD p 0) then s.bootFail r pos p stCOUNTER 1 true
  else if judged && bitOf (e.body 1 1) 0 then
    s.askKeeper (.minimum r pos p version)
  else s.startCores r pos p (e.body 8 8) (fldB img 16 8) version

def effBootRelease (r pos : Nat) (s : State) : State :=
  s.startCmd r pos 0x88 fun s e =>
    let p := e.body 0 1
    let image := e.body 8 8
    let pubkey := e.body 16 8
    let sigA := e.body 24 8
    if 16 ≤ p || 2 ≤ e.body 1 1 || !e.zero 2 6 || !e.zero 32 32 then s.endWith r pos stPARAM
    else if !s.ringModule r && s.ringPart r ≠ p then s.endWith r pos stRIGHTS
    else
      let held := ((s.partDies p).filter s.dieWorks).all fun n => s.fb .RST_DIE_CORES_HELD n
      if !s.partValid p || !held || image % 4096 ≠ 0 || !s.rangeIn p image 64 then s.endWith r pos stPARAM
      else match s.bootRead r pos p image 64 with
        | (none, s) => s
        | (some h, s) =>
          let size := fldB h 8 8
          let entry := fldB h 16 8
          let good := fldB h 0 4 == 1 && decide (1 ≤ size) && decide (size ≤ 2 ^ 32) && entry % 4 == 0 && decide (entry < size + 64) &&
            (sliceB h 26 38).all (· == 0)
          if !good || !s.rangeIn p image (64 + size) || !s.rangeIn p pubkey 68 || !s.rangeIn p sigA 2820 then s.endWith r pos stPARAM
          else
            let s := { s with keeper := { s.keeper with bootRange := s.keeper.bootRange.fput p (image, image + 64 + size) (0, 0) } }
            let s := s.setF .SEC_BOOT_STATE p 1
            match s.bootRead r pos p image (64 + size) with
            | (none, s) => s
            | (some img, s) =>
              match s.bootRead r pos p pubkey 68 with
              | (none, s) => s
              | (some pk, s) =>
                match s.bootRead r pos p sigA 2820 with
                | (none, s) => s
                | (some sig, s) => s.bootJudge r pos p e img pk sig
def execBootRelease (r pos : Nat) (s : State) : Out := run (.bootRelease r pos) s (effBootRelease r pos s)

/-! ## KEEPER_COMMIT_DONE -/

/-- What waits on a commit goes on (R93, R440, R443, R445, R448, R451). -/
def State.afterCommit (s : State) (c : Commit) (why : Option Nat) : State :=
  match c with
  | .counter r pos _ _ _ =>
    match (s.ring r).fetched with
    | none => s
    | some pkt =>
      if !s.ringOn r || s.f .RING_ACCEPT_POS r ≠ pos then s.setRing r { s.ring r with fetched := none }
      else s.writeCommitted r pkt (if why.isSome then stCOUNTER else 0) (s.cmdKey { pos := pos, pkt := pkt })
  | .slot r pos _ _ _ =>
    if s.isActive r pos then
      match why with
      | none => s.doneWith r pos
      | some d => s.endWith r pos stPARAM d
    else s
  | .leaf r pos _ =>
    { s with keeper := { s.keeper with
        signing := s.keeper.signing.map fun g => if g.ring == r && g.pos == pos then { g with ready := true } else g } }
  | .minimum r pos p version =>
    match s.entry? r pos with
    | none => s
    | some e =>
      if !e.active || s.f .SEC_BOOT_STATE p ≠ 1 then s
      else match s.bootRead r pos p (e.body 8 8) 64 with
        | (none, s) => s
        | (some h, s) => s.startCores r pos p (e.body 8 8) (fldB h 16 8) version

def effKeeperCommitDone (dt : Nat) (s : State) : State :=
  let s := s.elapse dt
  match s.keeper.queue with
  | [] => s
  | c :: t =>
    let (why, k) := s.keeper.commit c
    ({ s with keeper := { k with queue := t } }).afterCommit c why
def execKeeperCommitDone (dt : Nat) (s : State) : Out := runIf true s (effKeeperCommitDone dt s)

end Sys2Proof.Machine
end

