-- ==== Sys2Proof/Machine/Failure.lean ====
section
/-!
DEFINITION. Failure of parts and what it interrupts (R425 to R431), tally takeover (R432 to R434), heartbeats (R425, R426), die temperatures
(R402), and dies without a route (R31).
-/

namespace Sys2Proof.Machine

open Sys2Proof

/-! ## Tally roles

Tally sets are numbered 0 to 15 for the partitions and 16 and 17 for the module rings of PCIe port 0 and 1. -/

def State.setActingHub (s : State) (t h : Nat) : State :=
  if t < 16 then s.setF .ID_PART_HUB_ACTING t h else { s with rst := { s.rst with modActing := s.rst.modActing.set (t - 16) h } }

def State.actingHub (s : State) (t : Nat) : Nat :=
  if t < 16 then s.f .ID_PART_HUB_ACTING t else s.rst.modActing.getD (t - 16) 0

def State.mirrorHub (s : State) (t : Nat) : Option Nat :=
  if t < 16 then (if s.fb .RST_PART_MIRRORED t then some (s.f .RST_PART_MIRROR t) else none) else s.rst.modMirror.getD (t - 16) none

def State.setMirrorHub (s : State) (t : Nat) (m : Option Nat) : State :=
  if t < 16 then
    match m with
    | some h => (s.setF .RST_PART_MIRRORED t 1).setF .RST_PART_MIRROR t h
    | none => (s.setF .RST_PART_MIRRORED t 0).setF .RST_PART_MIRROR t 0
  else { s with rst := { s.rst with modMirror := s.rst.modMirror.set (t - 16) m } }

/-- The set exists: a partition, or the module rings of a present PCIe hub. -/
def State.tallyLive (s : State) (t : Nat) : Bool := if t < 16 then s.partValid t else s.hubPresent (t - 16)

def State.setCopying (s : State) (t h : Nat) : State := { s with rst := { s.rst with copying := s.rst.copying.fput t h 99 } }

/-- The rings of a set. -/
def State.ringsOf (s : State) (t : Nat) : List Nat := (List.range 256).filter fun r => s.tallySet r == t

/-- The counts and TALLY_WAIT of R95 after the roles of a set have changed. -/
def State.roleSync (s old : State) (t : Nat) : State := (s.ringsOf t).foldl State.syncWait (s.tallySync old 0)

/-- Entries of a set that its acting hub holds. -/
def State.setHeld (s : State) (t : Nat) : Nat := (s.ringsOf t).foldl (fun n r => n + (s.ring r).held) 0

/-- An acting hub without a mirror copies its entries to the lowest-numbered other working hub, or to the one named (R434); acceptance on
the set's rings pauses. -/
def State.chooseMirror (s : State) (t : Nat) (pref : Option Nat) : State :=
  let a := s.actingHub t
  let s := (s.setMirrorHub t none).roleSync s t
  match pref.or ((List.range 4).find? fun h => h != a && s.hubWorks h) with
  | some h => (s.setCopying t h).setF .RST_HUB_STATE a 3
  | none =>
    -- no mirror is left: nothing waits for its acknowledgement (R426)
    ((s.ringsOf t).foldl (fun s r => s.setRing r { s.ring r with delivered := [] }) (s.setCopying t 99)).roleSync s t

/-- The acting hub h copies set t, and the new mirror has room for its entries (R95: acceptance stays paused until it has), or is gone. -/
def State.copyReady (s : State) (h t : Nat) : Bool :=
  let m := s.rst.copying.fget t 99
  s.actingHub t == h && decide (m < 4) && s.tallyLive t && (!s.hubWorks m || decide (s.tallyUsed m + s.setHeld t ≤ 65536))

/-- The copy of set t, when it is ready, ends: its hub is the mirror. -/
def State.endCopy (s : State) (h t : Nat) : State :=
  if s.copyReady h t then
    ((if s.hubWorks (s.rst.copying.fget t 99) then s.setMirrorHub t (some (s.rst.copying.fget t 99)) else s).setCopying t 99).roleSync s t
  else s

/-- The hub still has a set to copy. -/
def State.copyBusy (s : State) (h : Nat) : Bool :=
  (List.range 18).any fun t => s.actingHub t == h && s.tallyLive t && decide (s.rst.copying.fget t 99 < 4)

def effTallyCopyDone (h dt : Nat) (s : State) : State :=
  let s := s.elapse dt
  if !s.hubWorks h then s
  else
    let s := (List.range 18).foldl (fun s t => s.endCopy h t) s
    if s.copyBusy h then s else s.setF .RST_HUB_STATE h 2
def execTallyCopyDone (h dt : Nat) (s : State) : Out := runIf (okHub h) s (effTallyCopyDone h dt s)

/-- The entries of a set are lost (R434): its rings stop, their commands get no final record. -/
def State.loseTally (s : State) (t : Nat) : State :=
  let old := s
  let s := (s.ringsOf t).foldl (fun s r =>
    let s := (s.ring r).entries.foldl (fun s e => s.dropWork r e.pos) s
    (s.setRing r { s.ring r with entries := [], delivered := [], fetched := none, committed := none, scan := .idle }).syncRing r |>.syncWait r) s
  let s := match (List.range 4).find? s.hubWorks with
    | some h => s.setActingHub t h
    | none => s
  let s := (s.setMirrorHub t none).roleSync old t
  if t < 16 then (s.setCopying t 99).setF .RST_PART_STATE t 5 else s.setCopying t 98

/-- The flag of an ended command is written again (R94). -/
def State.rewriteFlag (s : State) (r : Nat) (e : Entry) : State := (s.writeFlag r e.pos e (e.res.getD {})).2

/-- What the new acting hub does for a ring (R432): entries not mirrored are forgotten; flags and records of FINISHED entries, and of DELIVERED
ones whose delivery was not mirrored, are written again, undelivered records in their order (R97); rings with SCAN 1 or 2 are read at once. -/
def State.takeRing (s : State) (r : Nat) : State :=
  let x := s.ring r
  let scan := s.ringOn r && (s.f .RING_CTRL_SCAN r == 1 || s.f .RING_CTRL_SCAN r == 2)
  let s := s.setRing r { x with entries := x.entries.filter (·.st != .written), delivered := [], fetched := none, committed := none
                                scan := if scan then .reading 0 else .idle }
  let s := x.delivered.foldl (fun s e => (s.rewriteFlag r e).writeRecord r e (e.res.getD {})) s
  let s := ((s.ring r).entries.filter (·.st == .finished)).foldl (fun s e => s.rewriteFlag r e) s
  ((s.deliverAll r (s.ring r).entries.length).syncRing r).syncWait r

/-- The other tally hub of a set becomes acting (R432), or the set's entries are lost. -/
def State.takeover (s : State) (t : Nat) : State :=
  match s.mirrorHub t with
  | some m =>
    if !s.hubWorks m then s.loseTally t
    else
      let s := ((s.setActingHub t m).setCopying t 99).incF .RST_COUNTS_TAKEOVERS 0
      ((s.ringsOf t).foldl (fun s r => s.takeRing r) s).chooseMirror t none
  | none => s.loseTally t

/-- The tally roles of a hub that has stopped go to others. -/
def State.leaveRoles (s : State) (h : Nat) : State :=
  (List.range 18).foldl (fun s t =>
    if !s.tallyLive t || s.rst.copying.fget t 99 == 98 then s
    else if s.actingHub t == h then s.takeover t
    else if s.mirrorHub t == some h || s.rst.copying.fget t 99 == h then s.chooseMirror t none
    else s) s

/-! ## Dies that fail (R425, R431, R285) -/

/-- A directory entry without the agents of dies that are gone: they are awaited no more, and a collection for a request of theirs, or a request
of theirs that waits for an eviction, has no requester left. -/
def Dir.without (d : Dir) (dies : List Nat) : Dir :=
  let on := fun a => dies.contains (reqNode a)
  let d := if d.owned && on d.owner then d.dropOwner else d
  let d := { d with sharers := d.sharers.filter fun a => !on a, dieMask := dies.foldl clrBit d.dieMask, wait := d.wait.filter fun a => !on a
                    txn := d.txn.map fun x =>
                      { x with kind := if x.kind = 0 && on x.req then 4 else x.kind
                               next := x.next.filter fun (y : Nat × Nat × Nat × Bool) => !on y.2.1 && !dies.contains (granDie y.1) } }
  if d.st == .s && d.sharers.isEmpty && d.dieMask == 0 then { d with st := .u, coarse := false } else d

/-- Copies of the agents of die n: (agent, granule, copy). -/
def State.copiesOf (s : State) (n : Nat) : List (Nat × Nat × Copy) :=
  (s.caches.copies.filter fun (e : Nat × Copy) => e.1 / 2 ^ 37 / 32 == n).map fun (e : Nat × Copy) => (e.1 / 2 ^ 37, e.1 % 2 ^ 37, e.2)

/-- What a die has already sent arrives (notes/assumptions/56). -/
def State.deliverFrom (s : State) (n : Nat) : State :=
  let mine := fun (x : Nat × CMsg) => x.2.chan.2.1 == n && x.2.chan.2.2 != n
  (s.caches.net.filter mine).foldl (fun s x => s.deliver x.2) (s.setNet (s.caches.net.filter fun x => !mine x))

/-- The requesters whose forwards are on their way to, or queued at, agents of die n. -/
def State.forwardedTo (s : State) (n : Nat) : List (Nat × Nat) :=
  ((s.caches.net.filterMap fun x => match x.2 with
    | .fwd _ o r g => if o / 32 == n then some (r, g) else none
    | _ => none) ++
  (s.copiesOf n).flatMap fun (_, g, c) => (c.queue.filter fun x => x.2 != 3).map fun x => (x.1, g)).filter fun x => reqNode x.1 != n

/-- FwdOwns for requesters on dies that are gone, on their way to or queued at owners elsewhere: (owner, granule). -/
def State.lostGrants (s : State) (dies : List Nat) : List (Nat × Nat) :=
  let fits := fun o r g k => (k == 1 || k == 4) && dies.contains (reqNode r) && !dies.contains (reqNode o) && !dies.contains (granDie g)
  (s.caches.net.filterMap fun x => match x.2 with
    | .fwd k o r g => if fits o r g k then some (o, g) else none
    | _ => none) ++
  s.caches.copies.filterMap fun (e : Nat × Copy) =>
    let o := e.1 / 2 ^ 37
    let g := e.1 % 2 ^ 37
    if e.2.queue.any fun x => fits o x.1 g x.2 then some (o, g) else none

/-- Owners that have not yet passed a granule on to a die that is gone stay its owners; nothing is forwarded to that die's agents any more. -/
def State.keepOwners (s : State) (dies : List Nat) : State :=
  let gone := fun r => dies.contains (reqNode r)
  let s := (s.lostGrants dies).foldl (fun s (o, g) =>
    s.setDir g { s.dirOf g with st := .e, owner := o, sharers := [], coarse := false, dieMask := 0 }) s
  { s with caches := { s.caches with
      net := s.caches.net.filter fun x => match x.2 with
        | .fwd _ _ r _ => !gone r
        | _ => true
      copies := s.caches.copies.map fun (e : Nat × Copy) => (e.1, { e.2 with queue := e.2.queue.filter fun x => x.2 == 3 || !gone x.1 }) } }

/-- Everything that caches, directories and messages hold of dies that are gone, and of requests for granules whose homes are on them. -/
def State.forgetDies (s : State) (dies : List Nat) : State :=
  let s := s.keepOwners dies
  let on := fun a => dies.contains (reqNode a)
  let slice := fun sl => decide (sl < 64) && dies.contains (sl / 4)
  let c := s.caches
  { s with caches := { c with
      net := c.net.filter fun x => !(dies.contains x.2.chan.2.1 || dies.contains x.2.chan.2.2)
      copies := (c.copies.map fun (e : Nat × Copy) =>
        if dies.contains (granDie (e.1 % 2 ^ 37)) then (e.1, ({} : Copy)) else e).filter fun (e : Nat × Copy) => e.2 != {} && !on (e.1 / 2 ^ 37)
      dir := (c.dir.map fun (e : Nat × Dir) => (e.1, e.2.without dies)).filter fun (e : Nat × Dir) => e.2 != {} && !dies.contains (granDie e.1)
      nc := c.nc.filter fun (e : Nat × NcReq) => !on (e.1 / 2 ^ 37) && !dies.contains (granDie (e.1 % 2 ^ 37))
      openW := c.openW.filter fun (e : Nat × Nat) => !on e.1
      dirWait := c.dirWait.filter fun x => !on x.2.1 && !dies.contains (granDie x.1)
      starve := (c.starve.map fun (e : Nat × List (Nat × Nat × Bool)) =>
        (e.1, e.2.filter fun x => !on x.2.1 && !dies.contains (granDie x.1))).filter fun (e : Nat × List (Nat × Nat × Bool)) => e.2 != []
      near := c.near.filter fun (e : Nat × NLine) => !dies.contains (nearDie (e.1 / 2 ^ 46))
      nearWays := c.nearWays.filter fun (e : Nat × List Nat) => !dies.contains (nearDie (e.1 / 512))
      nearPlru := c.nearPlru.filter fun (e : Nat × Nat) => !dies.contains (nearDie (e.1 / 512))
      ways := c.ways.filter fun (e : Nat × List Nat) => !slice (e.1 / 8192)
      fills := c.fills.filter fun x => !slice x.slice
      coreWays := c.coreWays.filter fun (e : Nat × List Nat) => !dies.contains (e.1 / 2048 % 256 / 16)
      corePlru := c.corePlru.filter fun (e : Nat × Nat) => !dies.contains (e.1 / 2048 % 256 / 16) } }

/-- Collections that wait for no one any more end. -/
def State.endIdle (s : State) : State :=
  (s.caches.dir.filter fun (e : Nat × Dir) => e.2.txn.isSome && e.2.wait.isEmpty).foldl
    (fun s (e : Nat × Dir) => match (s.dirOf e.1).txn with
      | some x => if (s.dirOf e.1).wait.isEmpty then s.endCollect e.1 x else s
      | none => s) s

/-- Homes remove the agents of a failed die, and report the granules lost with it (R285): one record for each home stack. A requester whose
forward was lost with the die is answered NAK, and asks its home again. -/
def State.loseCopies (s : State) (n p : Nat) : State :=
  let s := s.deliverFrom n
  let lost := ((s.copiesOf n).filter fun (_, _, c) => c.st == .m || c.st == .o).map fun (_, g, _) => g
  let asks := s.forwardedTo n
  let s := s.forgetDies [n]
  let s := (asks.foldl (fun s x => s.sendCoh (.nak (granDie x.2) x.1 x.2)) s).endIdle
  (List.range 32).foldl (fun s k =>
    let gs := lost.filter fun g => granStack g == k
    if gs = [] || k / 2 = n then s
    else
      let pas := gs.map fun g => s.paOf k (granOff g)
      s.postEvent p { addr := pas.foldl min (pas.headD 0), info := gs.length, time := s.now, cause := 0x12, agentKind := 9, agentIx := k, kind := 2 }) s

/-- Commands that run on a die: at its copy engines, kernels with the die in their die set, and, when it holds the launch controller, every
kernel and TAP of the partition; a DOMAIN_RESET of the partition in progress. -/
def State.dieUsers (s : State) (n p : Nat) : List (Nat × Nat) :=
  let lead := s.controllerDie p == some n
  let eng := [32 + 2 * n, 33 + 2 * n].flatMap fun e => (s.engine e).run.toList ++ (s.engine e).queue
  let ker := (s.kernels.filter fun (e : Nat × Kernel) => e.2.live && e.2.part == p && (lead || (s.dieSet e.2).contains n)).map
    fun (e : Nat × Kernel) => (e.2.ring, e.2.pos)
  let tap := (s.taps.filter fun t => lead && s.ringPart t.ring == p).map fun t => (t.ring, t.pos)
  let rs := (s.openCmds.filter fun (_, e) => e.op == 0x84 && e.active && e.body 0 2 == p * 256).map fun (r, e) => (r, e.pos)
  eng ++ ker ++ tap ++ rs

/-- Compute die n fails with a cause of Table 16-10. -/
def State.dieDown (s : State) (n cause : Nat) : State :=
  if !s.dieWorks n then s
  else
    let old := s
    let p := s.dieOwner n
    let users := match p with
      | some p => s.dieUsers n p
      | none => []
    let s := s.setF .RST_FAILED_DIES 0 (setBit (s.f .RST_FAILED_DIES) n)
    let s := (s.setF .RST_DIE_STATE n 3).setF .RST_DIE_FAIL_CAUSE n cause
    let s := (s.failStack (2 * n)).failStack (2 * n + 1)
    let s := users.foldl (fun s (r, pos) => s.interrupt r pos) s
    let s := match p with
      | some p =>
        let s := s.setF .RST_PART_FAILED_DIES p (setBit (s.f .RST_PART_FAILED_DIES p) n)
        let s := if s.f .RST_PART_STATE p = 1 then s.setF .RST_PART_STATE p 4 else s
        (s.loseCopies n p).finishModes p
      | none => s.forgetDies [n]
    let s := { (s.dropTlb [n]) with cores := s.cores.map fun (e : Nat × NodeCore) => if e.1 / 16 == n then (e.1, { e.2 with running := false }) else e }
    let s := (s.setEngine (32 + 2 * n) {}).setEngine (33 + 2 * n) {}
    s.rerouted old

/-- Working dies of the partitions that no route joins to their launch controller's die. -/
def State.stranded (s : State) : List Nat :=
  (List.range 16).flatMap fun p =>
    match s.controllerDie p with
    | none => []
    | some c => (s.partDies p).filter fun n => s.dieWorks n && n != c && (s.route p n c).isNone

/-- Dies of a partition that no route joins to its launch controller's die are failed (R31), and so on while their loss strands others, whose
traffic crossed them. -/
def State.settleStranded : Nat → State → State
  | 0, s => s
  | k + 1, s =>
    match s.stranded with
    | [] => s
    | l => (l.foldl (fun s n => s.dieDown n 3) s).settleStranded k

def State.settleReach (s : State) : State := s.settleStranded 16

def State.dieFailed (s : State) (n cause : Nat) : State := if s.dieWorks n then (s.dieDown n cause).settleReach else s

def effDieFail (n : Nat) (s : State) : State := s.dieFailed n 1
def execDieFail (n : Nat) (s : State) : Out := runIf (okDie n) s (effDieFail n s)

def effStackFail (k : Nat) (s : State) : State := if s.dieWorks (k / 2) then s.failStack k else s
def execStackFail (k : Nat) (s : State) : Out := runIf (okStack k) s (effStackFail k s)

def execCoroxModuleFail (e dt : Nat) (s : State) : Out := run (.coroxModuleFail e dt) s (effCoroxModuleFail e dt s).settleReach
def execCoroxWindowEnd (e dt : Nat) (s : State) : Out := run (.coroxWindowEnd e dt) s (effCoroxWindowEnd e dt s).settleReach

/-! ## Hubs that stop (R421, R425, R427) -/

/-- Opcodes whose executor is the acting tally hub and that do not continue on another (Table 16-7). -/
def hubExecuted (op : Nat) : Bool :=
  [0x02, 0x11, 0x18, 0x19, 0x1A, 0x1B, 0x20, 0x21, 0x22, 0x28, 0x29, 0x2A, 0x31].contains op || (decide (0x80 ≤ op) && decide (op ≤ 0x88))

/-- The commands at the copy engines of a hub end: with HOST_LOST where the hub is the one of a PCIe port (R429), else interrupted. -/
def State.stopEngines (s : State) (h : Nat) : State :=
  let es := (List.range 8).map fun i => 8 * h + i
  let l := es.flatMap fun e => (s.engine e).run.toList ++ (s.engine e).queue
  let s := l.foldl (fun s (r, pos) => if h < 2 then s.loseHost h 1 r pos else s.interrupt r pos) s
  es.foldl (fun s e => s.setEngine e {}) s

/-- The window requests of tables that a hub had sent are gone: the tables send them again from their next hub (R432). -/
def State.resendTables (s : State) (h : Nat) : State :=
  let ks := s.rreqs.filterMap fun (e : Nat × RReq) => match e.2.wait with
    | .table k _ _ => if e.2.hub == h then some k else none
    | _ => none
  { s with
    rreqs := s.rreqs.filter fun (e : Nat × RReq) => !(e.2.hub == h && e.2.wait matches .table _ _ _)
    tables := s.tables.map fun (e : Nat × TTable) => if ks.contains e.1 then (e.1, { e.2 with req := .none, reqs := 0 }) else e }

/-- What a hub alone holds is lost: packets in its Tilus ports, its translation caches, window requests that wait at it, its signature. -/
def State.emptyHub (s : State) (h : Nat) : State :=
  let tlb := fun c => c == 528 + h || c == 560 + h || (decide (600 ≤ c) && decide (c < 632) && (c - 600) / 8 == h) ||
    (decide (728 ≤ c) && (c - 728) / 8 == h)
  let ps := (List.range 4).map fun q => 4 * h + q
  let s := ps.foldl (fun s p =>
    let t := s.tls p
    let kept := t.replay.map fun (q, l) => (q, l.filter fun (x : TPacket) => x.src == s.node && decide (0x8000 ≤ x.tag))
    s.setTls p { t with queue := [], rx := [], replay := kept }) s
  let s := ps.foldl (fun s p => if [1, 2, 3].contains (s.f .TLS_PSTAT_STATE p) then s.portLost p else s) s
  let s := s.resendTables h
  let keys := (s.rreqs.filter fun (e : Nat × RReq) => e.2.hub == h).map fun (e : Nat × RReq) => e.1
  let s := keys.foldl (fun s k => s.loseReq k) s
  { s with
    xl := { s.xl with
      parked := s.xl.parked.filter fun (x : Nat × Nat × TPacket) => x.2.1 != h
      tlb := s.xl.tlb.drop tlb, walk := s.xl.walk.drop tlb, acks := s.xl.acks.filter fun a => !tlb a.2.2
      svc := s.xl.svc.map fun (e : Nat × Svc) => (e.1, { e.2 with open_ := e.2.open_.map fun (t : Nat × SvcReq) =>
        (t.1, { t.2 with pkts := t.2.pkts.filter fun (x : Nat × TPacket) => x.1 != h }) }) }
    keeper := { s.keeper with signing := match s.keeper.signing with
      | some g => if g.hub = h then none else some g
      | none => none } }

/-- A hub stops: its links go down, the work it executes ends or is executed again, its tally roles pass on. `st` is its new state. -/
def State.hubDown (s : State) (h st : Nat) : State :=
  let cmds := (s.openCmds.filter fun (r, e) => e.st == .running && e.res.isNone && s.ringHub r == h && hubExecuted e.op).map fun (r, e) => (r, e.pos)
  let old := s
  let s := s.setF .RST_HUB_STATE h st
  let s := if h < 2 then s.linkLoss h else s
  let s := s.stopEngines h
  let s := cmds.foldl (fun s (r, pos) => s.interrupt r pos) s
  let s := if 2 ≤ h then s.guestDown (h - 2) else s
  let s := (s.emptyHub h).leaveRoles h
  let s := s.nextSign (s.keeper.waiting.length + 1)
  (s.rerouted old).settleReach

/-- A hub is failed (R425); `st` is FAILED, or FENCED when it treats itself as failed (R426). -/
def State.hubFailed (s : State) (h st : Nat) : State :=
  if !s.hubWorks h then s else (s.setF .RST_FAILED_HUBS 0 (setBit (s.f .RST_FAILED_HUBS) h)).hubDown h st

def effHubFail (h : Nat) (s : State) : State := s.hubFailed h 4
def execHubFail (h : Nat) (s : State) : Out := runIf (okHub h) s (effHubFail h s)

/-! ## Heartbeats (R425, R426) -/

/-- Hub a hears hub b: by the ring, or through the dies (R426): over a working link of each hub to a die that belongs to a partition and has
not failed (an unassigned die forwards nothing, R22), and the Corox modules between such dies. -/
def State.hubHears (s : State) (a b : Nat) : Bool :=
  let ok := fun n => (s.dieOwner n).isSome && s.dieWorks n
  let at_ := fun h => (List.range 16).filter fun n => ok n && (s.hubLinks n).any (·.2 == h)
  (s.ringHops b a).isSome ||
    (at_ b).any fun x => (at_ a).any fun y => x == y || (s.shortest ok x y).isSome

/-- Each working hub and die sends its heartbeats; those that reach a hub are heard. -/
def effHeartbeatSend (dt : Nat) (s : State) : State :=
  let s := s.elapse dt
  if s.f .RST_STATUS_PHASE ≠ 5 || s.eng < s.rst.beatAt + 1000 then s
  else
    let hubs := (List.range 4).filter fun b => s.hubWorks b && (List.range 4).any fun a => a != b && s.hubWorks a && s.hubHears a b
    let dies := (List.range 16).filter fun n => s.dieWorks n &&
      (if s.hubWorks (homeHub n) then s.reaches n (homeHub n) else (List.range 4).any fun h => s.reaches n h)
    let heard := (hubs ++ dies.map (4 + ·)).foldl (fun m k => m.fput k s.eng 0) s.rst.heard
    { s with rst := { s.rst with heard := heard, beatAt := s.eng } }
def execHeartbeatSend (dt : Nat) (s : State) : Out := run (.heartbeatSend dt) s (effHeartbeatSend dt s)

/-- No heartbeat from the device for 10 µs. A hub that hears no more than half of the present dies that have not failed treats itself as
failed; another one is failed when a hub that does hear more than half does not hear it. -/
def effHeartbeatTimeout (d : TapDev) (dt : Nat) (s : State) : State :=
  let s := s.elapse dt
  let silent := fun k => decide (s.rst.heard.fget k 0 + 10000 ≤ s.eng)
  if s.f .RST_STATUS_PHASE ≠ 5 then s
  else match d with
    | .die n => if s.dieWorks n && silent (4 + n) then s.dieFailed n 3 else s
    | .hub h =>
      if !s.hubWorks h || !silent h then s
      else
        let dies := (List.range 16).filter s.dieWorks
        let hears := fun a => decide (dies.length < 2 * (dies.filter fun n => s.reaches n a).length)
        if !hears h then s.hubFailed h 5
        else if (List.range 4).any fun a => a != h && s.hubWorks a && hears a then s.hubFailed h 4
        else s
def execHeartbeatTimeout (d : TapDev) (dt : Nat) (s : State) : Out := runIf d.ok s (effHeartbeatTimeout d dt s)

/-! ## Temperatures of dies and hubs (R402) -/

def effDieTempSample (d : TapDev) (temp dt : Nat) (s : State) : State :=
  let s := s.elapse dt
  match d with
  | .die n =>
    let s := (s.setF .PWR_TEMP_TEMP n temp).setF .PWR_TEMP_PEAK n (max (s.f .PWR_TEMP_PEAK n) temp)
    let hot := decide (110 ≤ temp) || ((s.diePwr n).hot && decide (100 ≤ temp))
    let s := (s.setDiePwr n { s.diePwr n with hot := hot }).setCause n 1 hot
    if 125 ≤ temp then s.dieFailed n 2 else s
  | .hub h =>
    let s := (s.setF .PWR_HUB_TEMP h temp).setF .PWR_HUB_PEAK h (max (s.f .PWR_HUB_PEAK h) temp)
    let hot := decide (110 ≤ temp) || (bitOf s.power.hotHubs h && decide (100 ≤ temp))
    let s := { s with power := { s.power with hotHubs := if hot then setBit s.power.hotHubs h else clrBit s.power.hotHubs h } }
    if 125 ≤ temp then s.hubFailed h 4 else s
def execDieTempSample (d : TapDev) (temp dt : Nat) (s : State) : Out := run (.dieTempSample d temp dt) s (effDieTempSample d temp dt s)

end Sys2Proof.Machine
end

