-- ==== Sys2Proof/Machine/Reset.lean ====
section
/-!
DEFINITION. Start-up and module reset (R410 to R414, R471, R472, R475), training (R255, R346), PARTITION_SET (R32 to R34), DOMAIN_RESET
(R416 to R421) and the return of a hub (R91, R421, R434).
-/

namespace Sys2Proof.Machine

open Sys2Proof

/-- Instances `lo` to `lo + n - 1` of some fields back at their reset values. -/
def State.clearFields (s : State) (xs : List Fld) (lo n : Nat) : State :=
  { s with regs := s.regs.filter fun (e : Nat × Nat) => !(xs.any fun x => decide (x.key lo ≤ e.1) && decide (e.1 < x.key lo + n)) }

/-! ## Module reset (R414) -/

def State.setPhase (s : State) (p : Nat) : State :=
  { s.setF .RST_STATUS_PHASE 0 p with rst := { s.rst with phaseAt := s.eng } }

/-- Fields that show what is outside the module: input levels and sensor readings, which a reset does not change; and what RST_STATUS
keeps until the next phase AUX (R435). -/
def State.keptFields (s : State) : List (Fld × Nat × Nat) :=
  [(Fld.PWR_STATUS_COOL_OK, 0, s.f .PWR_STATUS_COOL_OK), (.PWR_STATUS_ALERT_C, 0, s.f .PWR_STATUS_ALERT_C),
   (.PWR_STATUS_ALERT_M, 0, s.f .PWR_STATUS_ALERT_M), (.PWR_STATUS_ALERT_H, 0, s.f .PWR_STATUS_ALERT_H),
   (.RST_STATUS_HALT, 0, s.f .RST_STATUS_HALT), (.RST_STATUS_START_MS, 0, s.f .RST_STATUS_START_MS)] ++
  ((List.range 16).flatMap fun n => [(Fld.PWR_TEMP_TEMP, n, s.f .PWR_TEMP_TEMP n), (.PWR_TEMP_PEAK, n, s.f .PWR_TEMP_TEMP n)]) ++
  ((List.range 4).flatMap fun h => [(Fld.PWR_HUB_TEMP, h, s.f .PWR_HUB_TEMP h), (.PWR_HUB_PEAK, h, s.f .PWR_HUB_TEMP h)]) ++
  ((List.range 32).flatMap fun k =>
    [(Fld.MEM_THERM_TEMP, k, s.f .MEM_THERM_TEMP k), (.MEM_THERM_PEAK, k, s.f .MEM_THERM_TEMP k),
     (.MEM_THERM_HOT_DIE, k, s.f .MEM_THERM_HOT_DIE k)])

/-- What no reset of the module changes: the keeper's contents with the commits in flight settled (R437), the fuses, the stack cells (cleared
in phase CLEAR), the host's memory, the model's own clock and count of free values. -/
def State.bare (s : State) : State :=
  let s := s.settleKeeper
  { pending := s.pending, fuse := s.fuse, mem := s.mem, hostMem := s.hostMem, ecc := s.ecc, free := s.free
    keeper := { s.keeper with queue := [], waiting := [], signing := none, reports := [], bootRange := [], bootHash := [] }
    time := { engine := s.eng } }

/-- A module reset with its cause (R414): the module restarts at COOL, or waits in AUX while the rails are not good. Alerts whose inputs are
low act at once on the restarted dies. -/
def State.restart (s : State) (cause : Nat) : State :=
  let t := s.bare
  let t := { t with
    mgmt := s.mgmt
    rst := { railsGood := s.rst.railsGood, refclk := s.rst.refclk, refclkLost := s.rst.refclkLost, osc := s.rst.osc, vaux := s.rst.vaux
             coolAt := s.rst.coolAt }
    power := { alertOn := s.power.alertOn, alertAt := s.power.alertAt } }
  let t := s.keptFields.foldl (fun t (x, ix, v) => t.setF x ix v) t
  let t := (List.range 8).foldl (fun t i => if bitOf s.power.alertOn i then (alertDies i).foldl (fun t n =>
    (t.setCause n 0 true).setDiePwr n { t.diePwr n with alertWin := true }) t else t) t
  (t.setF .RST_STATUS_CAUSE 0 cause).setPhase (if s.rst.railsGood then 1 else 0)

/-- Power-on of the auxiliary domain, or its loss (R410, R471): phase AUX, CAUSE 0, and the auxiliary domain at its reset values. -/
def State.auxReset (s : State) (vaux : Bool) : State :=
  let t := s.bare
  { t with rst := { vaux := vaux, phaseAt := t.eng } }

def effAuxiliaryPowerApplied (s : State) : State := s.auxReset true
def execAuxiliaryPowerApplied (s : State) : Out := runIf true s (effAuxiliaryPowerApplied s)

def effVauxLoss (s : State) : State := s.auxReset false
def execVauxLoss (s : State) : Out := runIf true s (effVauxLoss s)

/-- MRESET_N has been low for `dt`. -/
def effMresetNAssert (dt : Nat) (s : State) : State :=
  let s := s.elapse dt
  if s.rst.vaux && decide (1000 ≤ dt) then s.restart 1 else s
def execMresetNAssert (dt : Nat) (s : State) : Out := run (.mresetNAssert dt) s (effMresetNAssert dt s)

/-- The I3C request (R477). -/
def effModuleReset (s : State) : State := if s.rst.vaux then s.restart 2 else s
def execModuleReset (s : State) : Out := runIf true s (effModuleReset s)

/-! ## Rails and clock (R470, R472, R474, R475) -/

def effPowerGood (dt : Nat) (s : State) : State :=
  let s := s.elapse dt
  if s.f .RST_STATUS_PHASE = 0 && s.rst.vaux && s.rst.refclk then { s with rst := { s.rst with railsGood := true } }.setPhase 1 else s
def execPowerGood (dt : Nat) (s : State) : Out := run (.powerGood dt) s (effPowerGood dt s)

/-- A core rail (0 to 15) or another main rail has been out of tolerance for `dt`. A die that fails before training is absent after it. -/
def effRailFault (rail dt : Nat) (s : State) : State :=
  let s := s.elapse dt
  let ph := s.f .RST_STATUS_PHASE
  if dt ≤ 10000 || ph = 0 || 5 < ph then s
  else if rail < 16 then
    if 4 ≤ ph then s.dieFailed rail 1
    else ((s.setF .RST_FAILED_DIES 0 (setBit (s.f .RST_FAILED_DIES) rail)).setF .RST_DIE_STATE rail 3).setF .RST_DIE_FAIL_CAUSE rail 1
  else
    let t := { s with rst := { s.rst with railsGood := false } }.restart 0
    (t.setF .RST_STATUS_HALT 0 0).setF .RST_STATUS_START_MS 0 0
def execRailFault (rail dt : Nat) (s : State) : Out := run (.railFault rail dt) s (effRailFault rail dt s)

/-- REFCLK has been absent for `dt`: after AUX the clocks run from an oscillator whose error, within 100 ppm, is free. -/
def effRefclkLoss (dt : Nat) (s : State) : State :=
  let s := s.elapse dt
  if dt < 1000 || !s.rst.refclk then s
  else if s.f .RST_STATUS_PHASE = 0 then { s with rst := { s.rst with refclk := false } }
  else
    let (v, s) := s.takeFree
    { s with rst := { s.rst with refclk := false, refclkLost := true, osc := ((v % 200001 : Nat) : Int) - 100000 } }
def execRefclkLoss (dt : Nat) (s : State) : Out := run (.refclkLoss dt) s (effRefclkLoss dt s)

def effRefclkReturn (dt : Nat) (s : State) : State :=
  let s := s.elapse dt
  { s with rst := { s.rst with refclk := true, osc := 0 } }
def execRefclkReturn (dt : Nat) (s : State) : Out := run (.refclkReturn dt) s (effRefclkReturn dt s)

/-! ## COOL_OK (R408, R411) -/

def effCoolOkDeassert (s : State) : State :=
  if !s.fb .PWR_STATUS_COOL_OK then s
  else
    let ph := s.f .RST_STATUS_PHASE
    let s := { s with rst := { s.rst with coolAt := none } }
    if ph = 5 then s.coolLost
    else
      let s := s.setF .PWR_STATUS_COOL_OK 0 0
      if 1 ≤ ph && ph ≤ 4 then s.restart (s.f .RST_STATUS_CAUSE) else s
def execCoolOkDeassert (s : State) : Out := run .coolOkDeassert s (effCoolOkDeassert s)

def effCoolOkAssert (s : State) : State :=
  if s.fb .PWR_STATUS_COOL_OK then s
  else
    let s := { s.setF .PWR_STATUS_COOL_OK 0 1 with rst := { s.rst with coolAt := some s.eng } }
    if s.power.coolForced then { s with power := { s.power with coolBackAt := some s.eng } } else s
def execCoolOkAssert (s : State) : Out := run .coolOkAssert s (effCoolOkAssert s)

/-! ## Start-up (R410 to R412) -/

/-- COOL_OK has been asserted for 100 ms: hubs test themselves, time starts FREE at 0 (R42). -/
def effCoolQualified (dt : Nat) (s : State) : State :=
  let s := s.elapse dt
  let long := match s.rst.coolAt with
    | some t => decide (t + 100000000 ≤ s.eng)
    | none => false
  if s.f .RST_STATUS_PHASE = 1 && s.fb .PWR_STATUS_COOL_OK && long then
    let s := { s with time := { engine := s.eng }, rst := { s.rst with qualAt := s.eng } }
    ((List.range 4).foldl (fun s h => s.setF .RST_HUB_STATE h 1) s).setPhase 2
  else s
def execCoolQualified (dt : Nat) (s : State) : Out := run (.coolQualified dt) s (effCoolQualified dt s)

/-- The module enters HALTED with a cause of R412. -/
def State.halt (s : State) (cause : Nat) : State := (s.setF .RST_STATUS_HALT 0 cause).setPhase 6

/-- The hubs' tests and the keeper's checks have ended. -/
def effHubTestDone (hubsPass : Nat) (keeperOk : Bool) (dt : Nat) (s : State) : State :=
  let s := s.elapse dt
  if s.f .RST_STATUS_PHASE ≠ 2 then s
  else
    let s := s.setF .ID_PRESENT_HUBS 0 hubsPass
    let s := (List.range 4).foldl (fun s h =>
      let here := bitOf hubsPass h
      (s.setF .RST_HUB_STATE h (if here then 2 else 0)).setF .ID_HUB_STEP_STEP h (if here then s.fuse.hubStep.getD h 0 else 0)) s
    let s := { s with keeper := { s.keeper with ok := keeperOk } }
    if popCount hubsPass 4 < 2 then s.halt 1
    else if !bitOf hubsPass 0 && !bitOf hubsPass 1 then s.halt 2
    else if !keeperOk then s.halt 4
    else s.setPhase 3
def execHubTestDone (hubsPass : Nat) (keeperOk : Bool) (dt : Nat) (s : State) : Out :=
  run (.hubTestDone hubsPass keeperOk dt) s (effHubTestDone hubsPass keeperOk dt s)

/-- A channel's lanes trained (R255): a spare that fails can replace no lane, failing data lanes take the working spares in order, two more are
carried by the code, a third has the channel retired. `bad` lists the failing lanes. -/
def State.trainChannel (s : State) (k c : Nat) (bad : List Nat) : State :=
  let s := ((List.range 4).filter fun i => bad.contains (288 + i)).foldl (fun s i => s.loseSpare k c i) s
  ((List.range 288).filter bad.contains).foldl (fun s l =>
    match s.freeSpare k c with
    | some i => s.replaceLane k c l i
    | none =>
      let x := s.stack k
      (s.setStack k { x with badLanes := x.badLanes.fput c (x.badLanes.fget c [] ++ [l]) [] }).carryLane k c l) s

/-- The temperature that training reads of a stack: a free one, below the 115 °C at which a stack stops. -/
def State.firstTemp (s : State) (k : Nat) : State :=
  let (v, s) := s.takeFree
  s.stackTemp k (v % 115) (v / 115 % 16)

/-- The lanes of one number, from a list of (number, lane). -/
def lanesOf (l : List (Nat × Nat)) (i : Nat) : List Nat := (l.filter fun (x : Nat × Nat) => x.1 == i).map fun (x : Nat × Nat) => x.2

/-- One receive direction trained (R346): failing data lanes take the working spares, the rest are FAILED. -/
def State.trainEnd (s : State) (e : Nat) (bad : List Nat) : State :=
  let spares := (List.range 4).filter fun i => !bad.contains (64 + i)
  let lanes := (List.range 64).filter bad.contains
  let s := (lanes.zip spares).foldl (fun s (l, i) =>
    let s := (s.setF .CRX_LANE_SPARED (crxLane e l) 1).setF .CRX_LANE_SPARE (crxLane e l) i
    (s.setF .CRX_LANE_SPARE_IN_USE (crxLane e (64 + i)) 1).incF .CRX_STATUS_SPARES_RX e) s
  let dead := lanes.drop spares.length ++ ((List.range 4).filter fun i => bad.contains (64 + i)).map (64 + ·)
  dead.foldl (fun s l => s.setF .CRX_LANE_FAILED (crxLane e l) 1) s

/-- A Corox module after training: UP, DISABLED when a direction has no width, UNCONNECTED without a partner; a guest site's module goes on
training while a guest is present. -/
def State.trainModule (s : State) (e : Nat) : State :=
  match endGuest e with
  | some k =>
    if s.endPartWorks e && bitOf (s.f .ID_PRESENT_GUESTS) k then
      ((s.setF .CRX_GSTAT_STATE k 1).setModule e 1).setGuest k { lastTry := s.eng }
    else s
  | none =>
    match crxPeer e with
    | none => s
    | some y =>
      if !s.endPartWorks e || !s.endPartWorks y || y < e then s
      else
        let s := s.setModule e (if s.rxWidth e = 0 || s.rxWidth y = 0 then 4 else 2)
        ((((s.setCrxE e { lastFlit := s.eng }).setCrxE y { lastFlit := s.eng }).measureCrx e).measureCrx y).settleCrx e

/-- The counts and features of the present dies and hubs (R39). -/
def State.setCaps (s : State) : State :=
  let dies := (List.range 16).filter s.diePresent
  let hubs := (List.range 4).filter s.hubPresent
  let n := dies.length
  let s := dies.foldl (fun s d =>
    (s.setF .ID_DIE_STEP_STEP d (s.fuse.dieStep.getD d 0)).setF .ID_DIE_FEAT_FEAT d (s.fuse.dieFeat.getD d 0)) s
  let s := s.setF .ID_FEAT_FEAT 0 (dies.foldl (fun a d => a &&& s.f .ID_DIE_FEAT_FEAT d) 7)
  let s := (s.setF .ID_CAP_UNIT_UNITS 0 (128 * n)).setF .ID_CAP_MEM_STACKS 0 (2 * n)
  let s := (s.setF .ID_CAP_MEM_TAPS 0 (2 * n)).setF .ID_CAP_PORT_CORES 0 (16 * n)
  (s.setF .ID_CAP_PORT_TILUS 0 (4 * hubs.length)).setF .ID_CAP_PORT_PCIE 0 (hubs.filter (· < 2)).length

/-- Training has ended: `diesPass` the dies whose self-test and stacks passed, `guests` the guest sites that hold a guest die, and the lanes
that failed, of memory channels and of Corox ends. -/
def effTrainDone (diesPass guests : Nat) (memLanes crxLanes : List (Nat × Nat)) (dt : Nat) (s : State) : State :=
  let s := s.elapse dt
  if s.f .RST_STATUS_PHASE ≠ 3 then s
  else
    let dies := (List.range 16).filter fun n => bitOf diesPass n && !bitOf (s.f .RST_FAILED_DIES) n
    let s := s.setF .ID_PRESENT_DIES 0 (maskOf dies)
    let s := s.setF .ID_PRESENT_GUESTS 0 (maskOf ((List.range 2).filter fun k => bitOf guests k && s.hubPresent (2 + k)))
    let s := s.setCaps
    if dies = [] then s.halt 3
    else
      let s := dies.foldl (fun s n =>
        ((s.setF .RST_DIE_STATE n 1).setF .MEM_STATUS_TRAINED (2 * n) 1).setF .MEM_STATUS_TRAINED (2 * n + 1) 1) s
      let chans := (List.range 1024).filter fun c => dies.contains (c / 64) && memLanes.any fun (x : Nat × Nat) => x.1 == c
      let s := chans.foldl (fun s c => s.trainChannel (c / 32) (c % 32) (lanesOf memLanes c)) s
      let s := dies.foldl (fun s n => (s.firstTemp (2 * n)).firstTemp (2 * n + 1)) s
      let ends := (List.range 176).filter fun e => crxLanes.any fun (x : Nat × Nat) => x.1 == e
      let s := ends.foldl (fun s e => s.trainEnd e (lanesOf crxLanes e)) s
      let s := (List.range 176).foldl (fun s e => s.trainModule e) s
      s.setPhase 4
def execTrainDone (diesPass guests : Nat) (memLanes crxLanes : List (Nat × Nat)) (dt : Nat) (s : State) : Out :=
  run (.trainDone diesPass guests memLanes crxLanes dt) s (effTrainDone diesPass guests memLanes crxLanes dt s)

/-- The mirror of the module rings of port k (R91). -/
def State.moduleMirror (s : State) (k : Nat) : Option Nat :=
  if s.hubWorks (1 - k) then some (1 - k) else (List.range 4).find? fun h => h != k && s.hubWorks h

/-- A partition's hubs: primary, secondary, the primary acting and the secondary its mirror. -/
def State.setHubs (s : State) (p a b : Nat) : State :=
  let s := ((s.setF .ID_PART_HUB_PRIMARY p a).setF .ID_PART_HUB_SECONDARY p b).setF .ID_PART_HUB_ACTING p a
  ((s.setF .ID_PART_HUB_VALID p 1).setMirrorHub p (some b)).setCopying p 99

/-- Exactly the dies `ds` belong to partition p. -/
def State.setMap (s : State) (p : Nat) (ds : List Nat) : State :=
  let gone := (s.partDies p).filter fun n => !ds.contains n
  let s := gone.foldl (fun s n => s.setF .ID_PART_MAP_PART n 0) s
  let s := ds.foldl (fun s n => s.setF .ID_PART_MAP_PART n p) s
  s.setF .ID_PART_VALID_DIES 0 (maskOf ((List.range 16).filter fun n =>
    ds.contains n || (bitOf (s.f .ID_PART_VALID_DIES) n && !gone.contains n)))

/-- Clearing has ended: partition 0 is formed of present dies and hubs (R24), one that failed while it was cleared among them, which leaves the
partition DEGRADED (R431) and its tally roles to others (R432); a die of it without a route is failed (R31), channels retired at training are
reported (R259), every node core is held. -/
def effClearDone (dt : Nat) (s : State) : State :=
  let s := s.elapse dt
  if s.f .RST_STATUS_PHASE ≠ 4 then s
  else
    let dies := (List.range 16).filter s.diePresent
    let s := (List.range 32).foldl (fun s k => s.wipeStack k) s
    let set := largestSet dies
    let hubs := (List.range 4).filter s.hubPresent
    let a := hubs.headD 0
    let b := (hubs.drop 1).headD 1
    let lost := set.filter fun n => !s.dieWorks n
    let s := (((s.setMap 0 set).setHubs 0 a b).setF .RST_PART_STATE 0 (if lost = [] then 1 else 4)).setF .RST_PART_FAILED_DIES 0 (maskOf lost)
    let s := (List.range 2).foldl (fun s k => s.setMirrorHub (16 + k) (s.moduleMirror k)) s
    let s := (hubs.filter fun h => !s.hubWorks h).foldl (fun s h => s.leaveRoles h) s
    let s := (dies.filter s.dieWorks).foldl (fun s n => (s.setF .RST_DIE_STATE n (b2n (set.contains n) * 2)).setF .RST_DIE_CORES_HELD n 1) s
    let s := s.updateRoutes
    let heard := (List.range 20).foldl (fun m k => FMap.fput m k s.eng 0) []
    let s := { s with rst := { s.rst with heard := heard, beatAt := s.eng } }
    ((s.setF .RST_STATUS_START_MS 0 (min ((s.eng - s.rst.qualAt) / 1000000) 65535)).setPhase 5).settleReach.settleRetire
def execClearDone (dt : Nat) (s : State) : Out := run (.clearDone dt) s (effClearDone dt s)

/-! ## Clearing (R34, Table 16-4) -/

/-- Dirty data of the dies' near caches, slices and node-core caches written back, in partition p. -/
def State.writeBackDies (s : State) (p : Nat) (dies : List Nat) : State :=
  let (bad, s) := s.flushNear dies
  let s := s.postLost p bad
  s.giveUpAll fun a => dies.contains (a / 32)

/-- Every cache level of dies is invalid: near caches, slices, node-core caches, and the directory entries that name their agents. -/
def State.invalidateDies (s : State) (dies : List Nat) : State :=
  let s := (s.quiesce 4096).forgetDies dies
  { s.endIdle with cores := s.cores.filter fun (e : Nat × NodeCore) => !dies.contains (e.1 / 16) }

/-- What a clearing or reset of dies drops beside caches and stacks: register files, scratch, tap-engine state, translation caches and open
service requests. -/
def State.dropDieState (s : State) (dies : List Nat) : State :=
  let s := s.dropTlb dies
  let s := dies.foldl (fun s n => (s.setSvc n {}).setF .XL_SVC_STATUS_OPEN n 0) s
  { s with
    groups := s.groups.filter fun (e : Nat × Group) => !dies.contains (unitOf e.1 / 128)
    teams := s.teams.filter fun (e : Nat × Team) => !(e.2.live && dies.contains (e.2.cluster / 32))
    scratch := s.scratch.filter fun (e : Nat × Byte) => !dies.contains (e.1 / 2 ^ 20 / 32)
    tapEng := s.tapEng.filter fun (e : Nat × TapEng) => !dies.contains (e.1 / 2) }

/-- A stack's contents zero (R34), what was lost with them forgotten. -/
def State.clearStack (s : State) (k : Nat) : State :=
  let s := s.wipeStack k
  (s.setF .MEM_STATUS_CONTENTS_LOST k 0).setStack k { s.stack k with lost := false }

/-- The CLR_ registers of a die and its cellars at their reset values (R215). -/
def State.resetCellars (s : State) (n : Nat) : State :=
  let s := s.resetRegs [.CLR_CTRL, .CLR_BASE, .CLR_COUNT, .CLR_STATUS, .CLR_USE, .CLR_EVENTS, .CLR_FIRST] [2 * n, 2 * n + 1]
  (s.setCel (2 * n) {}).setCel (2 * n + 1) {}

/-- Dies cleared (R34): stacks zero, every cache level invalid, translations dropped, TAP_ and CLR_ registers at reset. -/
def State.clearDies (s : State) (dies : List Nat) : State :=
  let s := (s.invalidateDies dies).dropDieState dies
  dies.foldl (fun s n =>
    let s := ((s.clearStack (2 * n)).clearStack (2 * n + 1)).resetCellars n
    s.resetRegs [.TAP_CTRL, .TAP_STATUS, .TAP_PASSES, .TAP_BYTES, .TAP_EVENTS] [2 * n, 2 * n + 1]) s

/-- A die's own registers at reset (R22, R464): its counters, translation service, epochs and memory controls. -/
def State.resetDieRegs (s : State) (n : Nat) : State :=
  let s := s.clearFields [.CTR_USEL_SEL, .CTR_USEL_ENABLE, .CTR_USEL_WRAPPED, .CTR_USEL_CFG_ERR] (4 * n) 4
  let s := s.clearFields [.CTR_SEL_SEL, .CTR_SEL_ENABLE, .CTR_SEL_WRAPPED, .CTR_SEL_CFG_ERR, .CTR_VAL_VALUE] (16 * n) 16
  let s := s.clearFields [.CTR_UVAL_VALUE] (512 * n) 512
  let s := (s.clearFields [.TIME_EPOCH_EPOCH, .TIME_EPOCH_MODE] (128 * n) 128).setReq n
  let s := s.resetRegs [.CTR_STATUS, .XL_SVC_BASE, .XL_SVC_CTRL, .XL_SVC_PROD, .XL_SVC_CONS, .XL_SVC_STATUS, .XL_TC_STATS] [n]
  s.resetRegs [.MEM_CTRL, .MEM_LANESEL] [2 * n, 2 * n + 1]

/-- Every unit of the dies reads epoch 0 and MODE 0 (R70). -/
def State.clearEpochs (s : State) (dies : List Nat) : State :=
  dies.foldl (fun s n => (s.clearFields [.TIME_EPOCH_EPOCH, .TIME_EPOCH_MODE] (128 * n) 128).setReq n) s

/-- The windows of a partition cleared (R303). -/
def State.clearWindows (s : State) (p : Nat) : State :=
  { s with xl := { s.xl with imports := s.xl.imports.drop fun k => k / 256 == p, exports := s.xl.exports.drop fun k => k / 256 == p } }

/-- A retrain window runs on a stack of the dies (R258). -/
def State.windowOn (s : State) (dies : List Nat) : Bool :=
  dies.any fun n => s.fb .MEM_STATUS_WINDOW (2 * n) || s.fb .MEM_STATUS_WINDOW (2 * n + 1)

/-! ## PARTITION_SET (R32 to R34) -/

/-- A running command whose row is taken again. -/
def Entry.waitsOn (e : Entry) : Bool := e.st == .running && e.phase == 9

/-- The conditions of R33 under which the command ends with PARAM. -/
def State.partSetBad (s : State) (p a b : Nat) (dies : List Nat) : Bool :=
  (dies.any fun n => !s.dieWorks n || ((s.dieOwner n).any (· != p))) ||
    (dies != [] && (!connectedSet dies || a == b || !s.hubWorks a || !s.hubWorks b)) ||
    s.partRingOn p || s.partBusy p

/-- The state that a partition formed from `dies` is in: STOPPED lasts until a DOMAIN_RESET (R422), a failed stack leaves it DEGRADED (R431). -/
def State.formedState (s : State) (p : Nat) (dies : List Nat) : Nat :=
  let ks := dies.flatMap fun n => [2 * n, 2 * n + 1]
  if dies = [] then 0
  else if s.f .RST_PART_STATE p = 3 || ks.any fun k => s.fb .MEM_STATUS_STOPPED k then 3
  else if ks.any fun k => (s.stack k).failed then 4
  else 1

/-- The actions of R34. -/
def State.setPartition (s : State) (p a b : Nat) (dies : List Nat) (keep : Bool) : State :=
  -- requests that guests sent under the map as it was are performed first (R356)
  let s := (s.serveGuest 0 true).serveGuest 1 true
  let was := s
  let old := s.partDies p
  let leave := old.filter fun n => !dies.contains n
  let stay := old.filter dies.contains
  let s := s.killTables p
  let s := if s.f .PWR_IDLE_STATE p = 0 then s else (s.leaveNap p).setF .PWR_IDLE_LEVEL p 0
  let s := if keep then s.writeBackDies p old else s
  let s := s.clearDies leave
  let s := leave.foldl (fun s n => s.resetDieRegs n) s
  let s := leave.foldl (fun s n => (s.setF .RST_DIE_STATE n (if s.dieWorks n then 0 else 3)).setF .RST_DIE_CORES_HELD n 1) s
  let s := if keep then s else s.clearDies stay
  let st := s.formedState p dies
  let s := (s.setMap p dies).setF .RST_PART_STATE p st
  let s := s.setF .RST_PART_FAILED_DIES p ((dies.filter fun n => !s.dieWorks n).foldl (fun m n => m + 2 ^ n) 0)
  let s := dies.foldl (fun s n => s.setF .RST_DIE_STATE n (if s.dieWorks n then 2 else 3)) s
  let s := if dies = [] then (s.resetReg .ID_PART_HUB p).setMirrorHub p none else s.setHubs p a b
  let s := ((s.setMode p {}).clearEpochs dies).rerouted was
  let s := if keep then s else s.resetReg .MEM_PMAP p
  let s := if dies = [] || !keep then s.clearWindows p else s
  let s := if dies = [] || !keep || leave != [] then s.clearRulesOf p else s
  let s := if dies = [] then
      let mine := (List.range 32).filter fun u => s.fb .CHK_BIND_BOUND u && !s.fb .CHK_BIND_MODULE u && s.f .CHK_BIND_PART u == p
      mine.foldl (fun s u => s.unbind u) (s.releasePart p)
    else s
  (s.holdCores p).settleReach

/-- The work of a PARTITION_SET whose checks have passed: the row's first take leaves it running (R34 lets it take 50 ms, and a part failure may
fall between), a later take does the work once the running windows have ended (R258, R348). -/
def State.partSetWork (s : State) (r pos : Nat) (e : Entry) : State :=
  let dies := bitList (e.body 0 2) 16
  let p := e.body 2 1
  let hubs := e.body 3 1
  if dies != [] && (!s.hubWorks (hubs % 4) || !s.hubWorks (hubs / 4 % 4)) then s.endWith r pos stPARAM
  else if (List.range 176).any (fun x => s.f .CRX_STATUS_STATE x == 3) || s.windowOn (s.partDies p ++ dies) then s
  else (s.setPartition p (hubs % 4) (hubs / 4 % 4) dies (bitOf (e.body 4 1) 0)).doneWith r pos

def effPartitionSet (r pos : Nat) (s : State) : State :=
  match (s.entry? r pos).filter fun e => e.op == 0x81 && e.waitsOn && s.canStart r e with
  | some e => s.partSetWork r pos e
  | none =>
    s.startCmd r pos 0x81 fun s e =>
      let dies := bitList (e.body 0 2) 16
      let p := e.body 2 1
      let hubs := e.body 3 1
      if 16 ≤ p || 16 ≤ hubs || 2 ≤ e.body 4 1 || !e.zero 5 59 || (dies = [] && hubs ≠ 0) then s.endWith r pos stPARAM
      else if s.partSetBad p (hubs % 4) (hubs / 4 % 4) dies then s.endWith r pos stPARAM
      else s.modEntry r pos fun e => { e with phase := 9 }
def execPartitionSet (r pos : Nat) (s : State) : Out := runR (.partitionSet r pos) s (effPartitionSet r pos s)

/-! ## DOMAIN_RESET (R416 to R421) -/

/-- A stopped stack of the partition reads 100 °C or above: the partition cannot restart (R254, R417). -/
def State.hotStack (s : State) (p : Nat) : Bool :=
  (s.partStacks p).any fun k => s.fb .MEM_STATUS_STOPPED k && decide (100 ≤ s.f .MEM_THERM_TEMP k)

/-- The checks of R417: status and DETAIL of the first that fails. -/
def State.resetCheck (s : State) (r : Nat) (e : Entry) : Option (Nat × Nat) :=
  let kind := e.body 0 1
  let t := e.body 1 1
  let flags := e.body 2 1
  let keep := bitOf flags 0
  let m := s.ringModule r
  let dies := s.partDies t
  let ks := s.partStacks t
  if 3 ≤ kind || (if kind = 2 then decide (4 ≤ t) else decide (16 ≤ t)) || 2 ≤ flags || (kind ≠ 0 && keep) || !e.zero 3 61 then some (stPARAM, 0)
  else if !m && (kind = 2 || t ≠ s.ringPart r) then some (stRIGHTS, 0)
  else if (if kind = 2 then !s.hubPresent t || bitOf (s.f .RST_FAILED_HUBS) t else !s.partValid t) then some (stPARAM, 1)
  else if kind = 2 && (s.ringHub r == t || s.ringMirror r == some t || s.ringPort r == t) then some (stPARAM, 2)
  else if kind = 0 && !keep && !m && s.f .RING_CTRL_LOC r = 0 then some (stPARAM, 2)
  else if kind = 0 && s.hotStack t then some (stPARAM, 3)
  else if kind = 0 && !s.fb .PWR_STATUS_COOL_OK then some (stPARAM, 4)
  else if kind = 0 && (dies.any (fun n => !s.dieWorks n) || ks.any fun k => (s.stack k).failed) then some (stPARAM, 5)
  else none

/-- Steps 1 to 4 of R419: acceptance stops, the partition's work ends with ABORTED, its tables and reservations end, its cores are held. -/
def State.partResetStart (s : State) (p r pos : Nat) : State :=
  let s := s.setF .RST_PART_STATE p 2
  let s := (s.ringsOf p).foldl (fun s q =>
    s.setRing q { s.ring q with scan := .idle, fetched := none, committed := none, entries := (s.ring q).entries.filter (·.st != .written) }) s
  (((s.endPartWork p stABORTED (some (r, pos))).killTables p).releasePart p).holdCores p

/-- Steps 5 to 8 of R419 (Table 16-4). -/
def State.partResetEnd (s : State) (p r pos : Nat) (keep : Bool) : State :=
  let dies := s.partDies p
  let ks := s.partStacks p
  let s := if keep then s.writeBackDies p dies else s
  let s := (s.invalidateDies dies).dropDieState dies
  let s := ks.foldl (fun s k => if !keep || s.fb .MEM_STATUS_CONTENTS_LOST k then s.clearStack k else s) s
  let s := if keep then s else
    (s.ringsOf p).foldl (fun s q => if s.f .RING_CTRL_LOC q = 0 then s.setF .RING_CTRL_ENABLE q 0 else s) (dies.foldl (fun s n => s.resetCellars n) s)
  let s := ks.foldl (fun s k => (s.setF .MEM_STATUS_STOPPED k 0).setF .MEM_STATUS_SELF_REFRESH k 0) s
  let s := (s.setMode p {}).clearEpochs dies
  let s := if s.f .PWR_IDLE_STATE p = 0 then s else (s.leaveNap p).setF .PWR_IDLE_LEVEL p 0
  let s := (s.setF .RST_PART_STATE p 1).incF .RST_PART_RESETS p
  let s := if (List.range 16).any fun q => s.f .RST_PART_STATE q == 3 then s else s.setF .PWR_STATUS_COOL_STOP 0 0
  s.doneWith r pos 0 0x3F

/-- The registers of hub h at their reset values, its reservations and bindings ended (R421). -/
def State.resetHub (s : State) (h : Nat) : State :=
  let four := (List.range 4).map fun q => 4 * h + q
  let failed := four.filter fun p => s.f .TLS_PSTAT_STATE p == 5
  let s := (List.range 64).foldl (fun s i => if s.resValid (4 * h + i / 16) (i % 16) then s.release (4 * h + i / 16) (i % 16) else s) s
  let s := four.foldl (fun s p => s.setTls p {}) s
  let s := s.resetRegs [.TIME_PORT, .TIME_ASYM, .TLS_PCTRL, .TLS_PSTAT, .TLS_PERR, .TLS_PFRAME, .TLS_PRESV] four
  -- a FAILED port stays failed until a module reset (R380, R425)
  let s := failed.foldl (fun s p => s.setF .TLS_PSTAT_STATE p 5) s
  let units := (List.range 8).map fun u => 8 * h + u
  let s := (units.foldl (fun s u => s.unbind u) s).resetRegs [.PCI_CPY, .CHK_MSGS, .CHK_SEQ, .CHK_LAST, .CHK_CRC] units
  let ends := (List.range 8).map fun m => hubEnd h m
  let s := ends.foldl (fun s e => s.settleCrx e) (s.resetRegs [.CRX_CTRL, .CRX_ERR, .CRX_LANESEL] ends)
  let s := s.resetRegs [.RING_HUB, .PWR_HUB] [h]
  let s := s.clearFields [.CTR_SEL_SEL, .CTR_SEL_ENABLE, .CTR_SEL_WRAPPED, .CTR_SEL_CFG_ERR, .CTR_VAL_VALUE] (256 + 16 * h) 16
  let s := s.resetReg .CTR_STATUS (16 + h)
  if h < 2 then
    let s := s.resetRegs [.PCI_LINK, .PCI_HOST, .PCI_APER, .PCI_EVENTS, .PCI_INBOUND, .PCI_LOST] [h]
    let s := s.resetRegs [.PCI_PEER, .PCI_PEER_BAR0, .PCI_PEER_SERIAL, .PCI_PEER_WIN] ((List.range 16).map fun i => 16 * h + i)
    s.setPort h { memEn := false, lastEvent := 1 }
  else
    let k := h - 2
    let s := (List.range 16).foldl (fun s i => s.clearRule k i) s
    s.resetRegs [.CRX_GID_LO, .CRX_GID_HI, .CRX_GDENY, .CRX_GLAST] [k]

def effDomainReset (r pos : Nat) (s : State) : State :=
  match s.entry? r pos with
  | none => s
  | some e =>
    -- it starts as soon as it is accepted (R418)
    if e.op ≠ 0x84 || !s.hubWorks (s.ringHub r) || e.res.isSome || e.stall.isSome || !(e.st == .accepted || e.waitsOn) then s
    else if e.waitsOn && e.body 0 1 = 0 then
      -- the rest of a partition reset, once the running windows have ended (R258)
      if s.windowOn (s.partDies (e.body 1 1)) then s
      else if s.hotStack (e.body 1 1) then s.endWith r pos stPARAM 3
      else s.partResetEnd (e.body 1 1) r pos (bitOf (e.body 2 1) 0)
    else
      let s := s.markRunning r pos
      match s.headCheck r e with
      | some st => s.endWith r pos st
      | none => s.withFlag r pos e fun s e =>
        match s.resetCheck r e with
        | some (st, d) => s.endWith r pos st d
        | none =>
          let t := e.body 1 1
          match e.body 0 1 with
          | 0 => (s.partResetStart t r pos).modEntry r pos fun e => { e with phase := 9 }
          | 1 =>
            -- dirty L2 data goes back to the stacks once no window runs (R258)
            if s.windowOn (s.partDies t) then s.modEntry r pos fun e => { e with phase := 9 } else
            let l2 := (s.partDies t).flatMap fun n => (List.range 16).map fun c => 32 * n + 4 + c
            ((s.giveUpAll l2.contains).holdCores t).doneWith r pos
          | _ =>
            -- a hub already in reset finishes that reset first
            if s.rst.hubReset.any (fun (x : Nat × (Nat × Nat)) => x.1 == t) then s.modEntry r pos fun e => { e with phase := 9 }
            else
              let s := (s.hubDown t 0).resetHub t
              { s with rst := { s.rst with hubReset := s.rst.hubReset ++ [(t, (r, pos))] } }
def execDomainReset (r pos : Nat) (s : State) : Out := runR (.domainReset r pos) s (effDomainReset r pos s)

/-! ## The return of a hub (R91, R421, R434) -/

/-- Whether the hub that returned becomes the mirror of a tally set. -/
def State.takesMirror (s : State) (h t : Nat) : Bool :=
  let named := if t < 16 then s.f .ID_PART_HUB_PRIMARY t == h || s.f .ID_PART_HUB_SECONDARY t == h else decide (h < 2)
  let other := match s.mirrorHub t with
    | some m => if t < 16 then m == s.f .ID_PART_HUB_PRIMARY t || m == s.f .ID_PART_HUB_SECONDARY t else decide (m < 2)
    | none => false
  s.tallyLive t && s.rst.copying.fget t 99 != 98 && s.actingHub t != h && (if named then !other else (s.mirrorHub t).isNone)

def effHubResetDone (h : Nat) (pass : Bool) (dt : Nat) (s : State) : State :=
  let s := s.elapse dt
  match s.rst.hubReset.find? fun (x : Nat × (Nat × Nat)) => x.1 == h with
  | none => s
  | some (_, (r, pos)) =>
    let s := { s with rst := { s.rst with hubReset := s.rst.hubReset.filter fun (x : Nat × (Nat × Nat)) => x.1 != h } }
    if pass then
      let was := s
      let s := (s.setF .RST_HUB_STATE h 2).setF .RST_FAILED_HUBS 0 (clrBit (s.f .RST_FAILED_HUBS) h)
      let s := { s with rst := { s.rst with heard := s.rst.heard.fput h s.eng 0 } }
      let s := (List.range 18).foldl (fun s t =>
        if s.takesMirror h t then (s.setCopying t h).setF .RST_HUB_STATE (s.actingHub t) 3 else s) s
      let s := if 2 ≤ h then s.trainModule (hubEnd h 7) else s
      (s.rerouted was).doneWith r pos
    else
      let s := (s.setF .RST_HUB_STATE h 4).setF .RST_FAILED_HUBS 0 (setBit (s.f .RST_FAILED_HUBS) h)
      (s.incF .RST_COUNTS_PART_FAILED 0).endWith r pos stPARTFAILED
def execHubResetDone (h : Nat) (pass : Bool) (dt : Nat) (s : State) : Out := runIf (okHub h) s (effHubResetDone h pass dt s)

end Sys2Proof.Machine
end

