-- ==== Sys2Proof/Machine/Counters.lean ====
section
/-!
DEFINITION. Event counters (chapter 18): selection words, COUNTER_SET and COUNTER_SNAP with their actions and latches, and wraps. What the
module counts by itself is added where the events happen (`State.evDie` and its like).
-/

namespace Sys2Proof.Machine

open Sys2Proof

/-! ## Selection words (R457, Table 18-1) -/

/-- A source: which levels may count it (bit 0 units, 1 dies, 2 hubs), how many values its QUAL has on a die and on a hub (0: none defined),
and whether it has a partition. -/
structure CtrSource where
  levels : Nat
  quals : Nat
  hubQuals : Nat
  part : Bool

def ctrSource (code : Nat) : Option CtrSource :=
  match code with
  | 0x00 => some ⟨7, 0, 0, false⟩
  | 0x01 => some ⟨7, 0, 0, false⟩
  | 0x02 => some ⟨2, 0, 0, false⟩
  | 0x03 => some ⟨3, 0, 0, false⟩
  | 0x04 => some ⟨1, 0, 0, false⟩
  | 0x05 => some ⟨3, 12, 0, false⟩
  | 0x06 => some ⟨3, 8, 0, false⟩
  | 0x07 => some ⟨3, 0, 0, false⟩
  | 0x08 => some ⟨3, 0, 0, false⟩
  | 0x09 => some ⟨2, 0, 0, false⟩
  | 0x0A => some ⟨2, 0, 0, false⟩
  | 0x0B => some ⟨2, 2, 0, false⟩
  | 0x0C => some ⟨2, 2, 0, false⟩
  | 0x0D => some ⟨2, 0, 0, false⟩
  | 0x0E => some ⟨2, 0, 0, false⟩
  | 0x0F => some ⟨2, 2, 0, false⟩
  | 0x10 => some ⟨2, 2, 0, false⟩
  | 0x11 => some ⟨2, 0, 0, false⟩
  | 0x12 => some ⟨2, 0, 0, false⟩
  | 0x13 => some ⟨6, 9, 8, false⟩
  | 0x14 => some ⟨6, 9, 8, false⟩
  | 0x20 => some ⟨4, 0, 4, false⟩
  | 0x21 => some ⟨4, 0, 4, false⟩
  | 0x22 => some ⟨4, 0, 0, false⟩
  | 0x23 => some ⟨6, 2, 8, false⟩
  | 0x24 => some ⟨4, 0, 0, true⟩
  | 0x25 => some ⟨4, 0, 0, true⟩
  | 0x26 => some ⟨4, 0, 0, true⟩
  | 0x27 => some ⟨4, 0, 0, true⟩
  | 0x28 => some ⟨4, 0, 0, true⟩
  | 0x29 => some ⟨4, 0, 8, false⟩
  | _ => none

/-- A selection word is valid at a level: 0 unit, 1 die, 2 hub. A source without qualifiers takes QUAL 0 and 15. -/
def selOk (w level : Nat) : Bool :=
  match ctrSource (w % 256) with
  | none => false
  | some c =>
    let q := bitsOf w 8 4
    bitOf c.levels level && (q == 15 || decide (q < max 1 (if level = 2 then c.hubQuals else c.quals))) && (!bitOf w 16 || c.part) &&
      decide (w < 2 ^ 17)

/-- Sources that advance with every cycle: the model takes their gains from COUNTER_WRAP. -/
def selTimed (w : Nat) : Bool := w % 256 == 1 || w % 256 == 3 || w % 256 == 4

/-! ## COUNTERS and their checks (R459) -/

def ctrBit (m i : Nat) : Bool := bitOf m i

/-- Bits of COUNTERS: unit counters 0 to 3, die counters 4 to 19, hub counters 20 to 35. -/
def unitBits (m : Nat) : List Nat := bitList (m % 16) 4
def dieBits (m : Nat) : List Nat := bitList (m / 16 % 65536) 16
def hubBits (m : Nat) : List Nat := bitList (m / 2 ^ 20 % 65536) 16

/-- Dies that a command names; a DIE_MASK of 0 means every die of the partition, or every present die. -/
def State.ctrDies (s : State) (r mask : Nat) : List Nat :=
  if mask ≠ 0 then bitList mask 16
  else if s.ringModule r then (List.range 16).filter s.diePresent
  else s.partDies (s.ringPart r)

/-- Checks 3 and 4 of R459. -/
def State.ctrNames (s : State) (r : Nat) (e : Entry) : Option Nat :=
  let dies := bitList (e.body 16 2) 16
  let hubs := bitList (e.body 18 1) 4
  if hubs != [] && !s.ringModule r then some stRIGHTS
  else if dies.any (fun n => !s.diePresent n || (!s.ringModule r && s.dieOwner n != some (s.ringPart r))) then some stPARAM
  else if hubs.any (fun h => !s.hubPresent h) then some stPARAM
  else none

/-- The schedule of a command that acts at a deal. -/
def State.ctrSched (s : State) (r : Nat) (e : Entry) : Sched := s.sched (schedKey (s.ringSet r) (e.body 21 1))

/-- The selection word for bit i of COUNTERS. -/
def ctrSel (e : Entry) (i : Nat) : Nat := e.body (64 + 4 * i) 4

/-- Every selection word named is valid at its level. -/
def ctrSelsOk (e : Entry) : Bool :=
  (bitList (e.body 8 8) 36).all fun i => selOk (ctrSel e i) (if i < 4 then 0 else if i < 20 then 1 else 2)

/-- COUNTER_SET (R457 to R459). A reserved SOURCE code of Table 18-1 makes a selection word of a named counter invalid at step 5 and is not judged at
step 1 as R9's reserved encoding: DESIGN CHOICE, notes/assumptions/64. -/
def effCounterSet (r pos : Nat) (s : State) : State :=
  s.startCmd r pos 0x29 fun s e =>
    let act := e.body 19 1
    let program := bitOf act 0
    let m := e.body 8 8
    if 2 ^ 36 ≤ m || 16 ≤ e.body 18 1 || 16 ≤ act || (bitOf act 2 && bitOf act 3) || 2 ≤ e.body 20 1 || 16 ≤ e.body 21 1 || !e.zero 22 42 ||
        (program && (!e.zero 208 48 || (List.range 36).any fun i => decide (2 ^ 17 ≤ ctrSel e i))) then s.endWith r pos stPARAM
    else if m = 0 then s.doneWith r pos
    else match s.ctrNames r e with
      | some st => s.endWith r pos st
      | none =>
        if (program && !ctrSelsOk e) || (e.body 20 1 = 1 && !(s.ctrSched r e).defined) then s.endWith r pos stPARAM
        else { s with ctrOps := s.ctrOps ++ [{ ring := r, pos := pos, dies := maskOf (s.ctrDies r (e.body 16 2)) }] }
def execCounterSet (r pos : Nat) (s : State) : Out := run (.counterSet r pos) s (effCounterSet r pos s)

/-- Entries of a snapshot, and its length RL (R462). -/
def snapEntries (m dies hubs : Nat) : Nat :=
  popCount dies 16 * (128 * (unitBits m).length + (dieBits m).length) + popCount hubs 4 * (hubBits m).length
def snapLen (m dies hubs : Nat) : Nat := 64 * divUp (64 + 8 * snapEntries m dies hubs) 64

/-- DEST translated span by span with write right, and held (R89, R300). -/
def State.snapHold (s : State) (r pos : Nat) : List (Nat × Nat × Nat) → List Held → Option (List Held) × State
  | [], acc => (some acc, s)
  | (_, a, _) :: t, acc =>
    match s.cmdXlate (s.cmdCache r) r a 2 with
    | (.ok l, s) => s.snapHold r pos t (acc ++ [s.holdOf r a l])
    | (x, s) => (none, s.failXlate r pos x a 2 7 (s.hubAgent r))

def effCounterSnap (r pos : Nat) (s : State) : State :=
  s.startCmd r pos 0x2A fun s e =>
    let m := e.body 8 8
    let n := e.body 36 4
    let dest := e.body 24 8
    if 2 ^ 36 ≤ m || 16 ≤ e.body 18 1 || 2 ≤ e.body 19 1 || 2 ≤ e.body 20 1 || 16 ≤ e.body 21 1 || !e.zero 22 2 || !e.zero 40 24 ||
        n = 0 || 65536 < n || (e.body 20 1 = 0 && n ≠ 1) || dest % 64 ≠ 0 then s.endWith r pos stPARAM
    else if s.ctrOps.any (fun o => o.ring == r && o.pos == pos) then s
    else if m = 0 then s.doneWith r pos
    else match s.ctrNames r e with
      | some st => s.endWith r pos st
      | none =>
        let dies := maskOf (s.ctrDies r (e.body 16 2))
        let len := n * snapLen m dies (e.body 18 1)
        if e.body 20 1 = 1 && !(s.ctrSched r e).defined then s.endWith r pos stPARAM
        else if e.body 32 4 < len then s.endWith r pos stPARAM
        else match s.snapHold r pos (spans dest len) [] with
          | (none, s) => s
          | (some hs, s) =>
            let s := s.modEntry r pos fun e => { e with holds := hs }
            { s with ctrOps := s.ctrOps ++ [{ ring := r, pos := pos, dies := dies }] }
def execCounterSnap (r pos : Nat) (s : State) : Out := run (.counterSnap r pos) s (effCounterSnap r pos s)

/-! ## Action times (R460, R463) -/

/-- The System Time at which a waiting command acts next; `none` when its schedule is no longer defined. -/
def State.ctrTime (s : State) (o : CtrOp) (e : Entry) : Option Nat :=
  if e.body 20 1 = 0 then some (e.body 0 8)
  else
    let c := s.ctrSched o.ring e
    if c.defined then some (c.boundary (e.body 0 8 + o.done)) else none

/-- Another command waiting must act before (o, t): an earlier instant, or the same instant and latches first, then acceptance order. -/
def State.ctrBlocked (s : State) (o : CtrOp) (t : Nat) (isSnap : Bool) : Bool :=
  let no := fun (x : CtrOp) => ((s.entry? x.ring x.pos).map (·.acceptNo)).getD 0
  s.ctrOps.any fun x =>
    !(x.ring == o.ring && x.pos == o.pos) && s.isActive x.ring x.pos &&
      (match s.entry? x.ring x.pos with
       | none => false
       | some e =>
         match s.ctrTime x e with
         | none => false
         | some u =>
           let snap := e.op == 0x2A
           decide (u < t) || (u == t && (if snap = isSnap then decide (no x < no o) else snap)))

def State.setCtr (s : State) (r pos : Nat) (o : CtrOp) : State :=
  { s with ctrOps := s.ctrOps.map fun x => if x.ring == r && x.pos == pos then o else x }

def State.dropCtr (s : State) (r pos : Nat) : State := { s with ctrOps := s.ctrOps.filter fun o => !(o.ring == r && o.pos == pos) }

/-- Runs `act` on a command whose action time has come; a command whose schedule is gone ends with PARAM. -/
def State.ctrWhen (s : State) (r pos op : Nat) (act : State → CtrOp → Entry → State) : State :=
  match s.ctrOps.find? (fun o => o.ring == r && o.pos == pos), s.entry? r pos with
  | some o, some e =>
    if e.op ≠ op || !e.active || !s.hubWorks (s.ringHub r) || e.phase = 4 then s
    else match s.ctrTime o e with
      | none => (s.dropCtr r pos).endWith r pos stPARAM
      | some t => if t ≤ s.now && s.inOrder t && !s.ctrBlocked o t (op == 0x2A) then act s o e else s
  | _, _ => s

/-! ## COUNTER_SET's action (R461) -/

/-- PROGRAM, START and STOP on one selection register. -/
def State.ctrSelect (s : State) (sel en wr : Fld) (ix act word : Nat) : State :=
  let s := if bitOf act 0 then (s.setF sel ix word).setF wr ix 0 else s
  if bitOf act 2 then s.setF en ix 1 else if bitOf act 3 then s.setF en ix 0 else s

/-- The four unit values of counter k on the units of die n. -/
def State.zeroUnits (s : State) (n k : Nat) : State :=
  let lo := Fld.CTR_UVAL_VALUE.key (512 * n)
  { s with regs := s.regs.filter fun (e : Nat × Nat) => !(decide (lo ≤ e.1) && decide (e.1 < lo + 512) && (e.1 - lo) % 4 == k) }

def State.ctrSetDie (s : State) (e : Entry) (n : Nat) : State :=
  let act := e.body 19 1
  let m := e.body 8 8
  let s := (unitBits m).foldl (fun s k =>
    let s := s.ctrSelect .CTR_USEL_SEL .CTR_USEL_ENABLE .CTR_USEL_WRAPPED (4 * n + k) act (ctrSel e k)
    if bitOf act 1 then s.zeroUnits n k else s) s
  let s := (dieBits m).foldl (fun s c =>
    let s := s.ctrSelect .CTR_SEL_SEL .CTR_SEL_ENABLE .CTR_SEL_WRAPPED (16 * n + c) act (ctrSel e (4 + c))
    if bitOf act 1 then s.setF .CTR_VAL_VALUE (16 * n + c) 0 else s) s
  s.incF .CTR_STATUS_SETS n

def State.ctrSetHub (s : State) (e : Entry) (h : Nat) : State :=
  let act := e.body 19 1
  let s := (hubBits (e.body 8 8)).foldl (fun s c =>
    let ix := 256 + 16 * h + c
    let s := s.ctrSelect .CTR_SEL_SEL .CTR_SEL_ENABLE .CTR_SEL_WRAPPED ix act (ctrSel e (20 + c))
    if bitOf act 1 then s.setF .CTR_VAL_VALUE ix 0 else s) s
  s.incF .CTR_STATUS_SETS (16 + h)

def effCounterAction (r pos dt : Nat) (s : State) : State :=
  (s.elapse dt).ctrWhen r pos 0x29 fun s o e =>
    let s := ((bitList o.dies 16).filter s.dieWorks).foldl (fun s n => s.ctrSetDie e n) s
    let s := ((bitList (e.body 18 1) 4).filter s.hubWorks).foldl (fun s h => s.ctrSetHub e h) s
    (s.dropCtr r pos).doneWith r pos s.now
def execCounterAction (r pos dt : Nat) (s : State) : Out := runIf (okPos r pos) s (effCounterAction r pos dt s)

/-! ## COUNTER_SNAP's latch (R462) -/

/-- The values latched of a die and of a hub, in order; all ones when it has failed. -/
def State.latchDie (s : State) (m n : Nat) : List Nat :=
  let ones := 2 ^ 64 - 1
  let w := s.dieWorks n
  ((List.range 128).flatMap fun v => (unitBits m).map fun k => if w then s.f .CTR_UVAL_VALUE ((128 * n + v) * 4 + k) else ones) ++
    (dieBits m).map fun c => if w then s.f .CTR_VAL_VALUE (16 * n + c) else ones
def State.latchHub (s : State) (m h : Nat) : List Nat :=
  (hubBits m).map fun c => if s.hubWorks h then s.f .CTR_VAL_VALUE (256 + 16 * h + c) else 2 ^ 64 - 1

/-- A snapshot: the header of Table 18-4 and its entries. -/
def State.snapBytes (s : State) (m dies hubs i : Nat) : Bytes :=
  let ds := bitList dies 16
  let hs := bitList hubs 4
  let head := leBytes 8 s.now ++ leBytes 8 i ++ leBytes 8 m ++ leBytes 2 dies ++ leBytes 1 hubs ++
    leBytes 1 (maskOf (hs.filter fun h => !s.hubWorks h)) ++ leBytes 2 (maskOf (ds.filter fun n => !s.dieWorks n)) ++ zeroBytes 26 ++
    leBytes 4 0 ++ leBytes 4 (i + 1)
  let vals := ds.flatMap (s.latchDie m) ++ hs.flatMap (s.latchHub m)
  head ++ vals.flatMap (leBytes 8)

/-- CLEAR: the counters latched are zero. -/
def State.snapClear (s : State) (m dies hubs : Nat) : State :=
  let s := (bitList dies 16).foldl (fun s n =>
    let s := (unitBits m).foldl (fun s k => s.zeroUnits n k) s
    (dieBits m).foldl (fun s c => s.setF .CTR_VAL_VALUE (16 * n + c) 0) s) s
  (bitList hubs 4).foldl (fun s h => (hubBits m).foldl (fun s c => s.setF .CTR_VAL_VALUE (256 + 16 * h + c) 0) s) s

/-- Every counter named copied at one instant, and with CLEAR zeroed at it (R462): the snapshot's bytes. -/
def State.latch (s : State) (e : Entry) (dies i : Nat) : Bytes × State :=
  let m := e.body 8 8
  let hubs := e.body 18 1
  let b := s.snapBytes m dies hubs i
  let s := if bitOf (e.body 19 1) 0 then s.snapClear m dies hubs else s
  let s := (bitList dies 16).foldl (fun s n => s.incF .CTR_STATUS_SNAPS n) s
  (b, (bitList hubs 4).foldl (fun s h => s.incF .CTR_STATUS_SNAPS (16 + h)) s)

/-- Writes bytes of the snapshot area through the held translations: done, waiting on a service reply, or ended. -/
inductive SnapOut where
  | done | wait | ended
deriving DecidableEq, Repr

def State.snapPart (s : State) (r pos va : Nat) (data : Bytes) : SnapOut × State :=
  (spans va data.length).foldl (fun ((out, s) : SnapOut × State) (o, a, n) =>
    if out != .done then (out, s)
    else match ((s.entry? r pos).map (·.holds)).getD [] |>.find? fun h => h.va / 65536 == a / 65536 with
      | none => (.ended, s)
      | some h =>
        match s.useHeld (s.cmdCache r) h 2 with
        | (.wait k tag, s) => (.wait, s.cmdWait r pos k tag a 2)
        | (.ok l, s) =>
          let l := l.add (a - h.va)
          match l with
          | .remote .. => (.done, s.sendWrites (s.ringHub r) l false (sliceB data o n) (.cmd r pos) a)
          | _ =>
            match s.writeLoc l .narrow (sliceB data o n) with
            | (none, s) => (.done, s.noteWritten r pos (l.add (n - 1)))
            | (some x, s) => (.ended, s.failAccess r pos x 2 7 (s.hubAgent r))
        | (x, s) => (.ended, s.failXlate r pos x a 2 7 (s.hubAgent r))) (.done, s)

/-- Writes a snapshot: bytes 0 to 55 and the entries before the completion word at 56 (R462). -/
def State.snapWrite (s : State) (r pos va : Nat) (data : Bytes) : SnapOut × State :=
  [(0, data.take 56), (64, data.drop 64), (56, sliceB data 56 8)].foldl (fun ((out, s) : SnapOut × State) (o, d) =>
    if out != .done then (out, s) else s.snapPart r pos (va + o) d) (.done, s)

/-- The snapshot that a COUNTER_SNAP takes next: of deals that a step forward skipped only the last acts (R51), or the last that REPEAT names. -/
def State.snapNext (s : State) (o : CtrOp) (e : Entry) : Nat :=
  let c := s.ctrSched o.ring e
  let skipped := fun (u : Nat) => decide (s.time.skipFrom < u) && decide (u ≤ s.time.skipTo)
  if e.body 20 1 = 0 || o.latched.isSome || !skipped (c.boundary (e.body 0 8 + o.done)) then o.done
  else
    match c.current s.time.skipTo with
    | some k => max o.done (min (k - e.body 0 8) (e.body 36 4 - 1))
    | none => o.done

def effCounterLatch (r pos dt : Nat) (s : State) : State :=
  (s.elapse dt).ctrWhen r pos 0x2A fun s o e =>
    let o := { o with done := s.snapNext o e }
    let m := e.body 8 8
    let hubs := e.body 18 1
    let rl := snapLen m o.dies hubs
    let (b, s) := match o.latched with
      | some b => (b, s)
      | none => s.latch e o.dies o.done
    match s.snapWrite r pos (e.body 24 8 + o.done * rl) b with
    | (.wait, s) => s.setCtr r pos { o with latched := some b }
    | (.ended, s) => s.dropCtr r pos
    | (.done, s) =>
      let s := s.modEntry r pos fun e => { e with phase := 0 }
      if o.done + 1 < e.body 36 4 then s.setCtr r pos { o with done := o.done + 1, latched := none }
      else
        let total := e.body 36 4 * rl
        let s := s.dropCtr r pos
        match s.entry? r pos with
        | none => s
        | some e =>
          if e.remoteOpen ≠ 0 then s.modEntry r pos fun e => { e with phase := 4, prog := total }
          else s.endFlushed r pos e total
def execCounterLatch (r pos dt : Nat) (s : State) : Out := runIf (okPos r pos) s (effCounterLatch r pos dt s).settleRetire

/-! ## COUNTER_WRAP (R456) -/

/-- A counter's source gives `add` events at once: the count wraps, or a source that advances with every cycle moves on. Counters 0 to 319
are CTR_VAL, those from 320 CTR_UVAL. -/
def effCounterWrap (c add : Nat) (s : State) : State :=
  let go := fun (s : State) (valF selF enF wrF : Fld) (v i : Nat) =>
    if s.fb enF i && s.f selF i % 256 != 0 && (selTimed (s.f selF i) || decide (2 ^ 64 ≤ s.f valF v + add)) then s.addCtr valF wrF v i add
    else s
  if c < 320 then go s .CTR_VAL_VALUE .CTR_SEL_SEL .CTR_SEL_ENABLE .CTR_SEL_WRAPPED c c
  else go s .CTR_UVAL_VALUE .CTR_USEL_SEL .CTR_USEL_ENABLE .CTR_USEL_WRAPPED (c - 320) (4 * ((c - 320) / 512) + (c - 320) % 4)
def execCounterWrap (c add : Nat) (s : State) : Out := runIf (decide (c < 8512)) s (effCounterWrap c add s)

end Sys2Proof.Machine
end

