-- ==== Sys2Proof/Machine/Registers.lean ====
section
/-!
DEFINITION. Control space (R5 to R9, R27, R309, R310): where a register lies, what a read returns, and what a write does, with the rows that
are writes of one register.
-/

namespace Sys2Proof.Machine

open Sys2Proof

/-! ## Where an offset lies (R309, R310) -/

/-- A register found at an offset: its block (0 to 15 dies, 16 to 19 hubs), and its instance in the register store. -/
structure At where
  reg : Reg
  ix : Nat
  block : Nat
deriving DecidableEq, Repr

/-- The instance (i, j) of a place that an offset within a block names. -/
def Place.hit (p : Place) (hub : Bool) (o : Nat) : Option (Nat × Nat) :=
  if (p.blk == .hub) != hub || o < p.base then none
  else
    let d := o - p.base
    let i := d / p.s1
    let j := d % p.s1 / p.s2
    if i < p.n1 && j < p.n2 && d % p.s1 % p.s2 == 0 then some (i, j) else none

/-- The store instance of (i, j) in a block; `none` in a block that does not hold the register. -/
def Place.inst (p : Place) (block i j : Nat) : Option Nat :=
  let n := p.n1 * p.n2
  let k := i * p.n2 + j
  let h := block - 16
  match p.scope with
  | .modl => some (p.ixBase + k)
  | .die => some (p.ixBase + block * n + k)
  | .hub => some (p.ixBase + h * n + k)
  | .pcie => if h < 2 then some (p.ixBase + h * n + k) else none
  | .guest => if 2 ≤ h then some (p.ixBase + (h - 2) * n + k) else none

/-- The first place that holds an offset of a block. -/
def findPlace (block o : Nat) : List Place → Option At
  | [] => none
  | p :: t =>
    match p.hit (decide (16 ≤ block)) o with
    | some (i, j) => (p.inst block i j).map fun ix => ⟨p.reg, ix, block⟩
    | none => findPlace block o t

/-- The block of a control-space offset. -/
def blockOf (off : Nat) : Nat := off / 2 ^ 20

/-- The block exists and its die or hub is present (R310). -/
def State.blockHere (s : State) (b : Nat) : Bool := if b < 16 then s.diePresent b else decide (b < 20) && s.hubPresent (b - 16)

/-- The register at an offset. -/
def regAt (off : Nat) : Option At := if off % 8 = 0 then findPlace (blockOf off) (off % 2 ^ 20) places else none

/-! ## Reads -/

/-- The word that a register's fields spell; write-only fields read zero. -/
def State.fieldsWord (s : State) (g : Reg) (ix : Nat) : Nat :=
  g.flds.foldl (fun a x =>
    if x.info.acc == .wo then a
    else (List.range x.info.reps).foldl (fun a r => a + s.f x (ix * x.info.reps + r) * 2 ^ (x.info.lo + r * x.info.stride)) a) 0

/-- A lane's status, for the lane that a selector names. -/
def State.laneWord (s : State) (g : Reg) (lane ix n : Nat) : Nat := if lane < n then s.fieldsWord g (ix * n + lane) else 0

/-- The keeper's registers (Table 17-8). -/
def State.secWord (s : State) (g : Reg) (i : Nat) : Nat :=
  let k := s.keeper
  let sl := k.slots.getD i {}
  match g with
  | .SEC_STATUS =>
    b2n s.claimed + b2n k.rootHash.isSome * 2 + b2n k.ok * 4 + min 100 (k.commits * 100 / 10 ^ 10) * 2 ^ 8 + min k.claims (2 ^ 32 - 1) * 2 ^ 32
  | .SEC_XMSS_IDX => k.nextLeaf % 2 ^ 40 + b2n k.exhausted * 2 ^ 40
  | .SEC_IDPK => fldB k.idpk (8 * i) 8
  | .SEC_ROOT => fldB (k.rootHash.getD []) (8 * i) 8
  | .SEC_SLOT => sl.state + sl.rights * 2 ^ 8 + sl.scope * 2 ^ 24
  | .SEC_SLOT_CTR => sl.last
  | _ => k.mins.getD i 0

/-- The 64-bit value of a register. -/
def State.regWord (s : State) (x : At) : Nat :=
  let h := x.block - 16
  let w := s.fieldsWord x.reg x.ix
  match x.reg with
  | .ID_SERIAL => s.fuse.serial
  | .ID_PART => w + s.fuse.modrev % 2 ^ 16 * 2 ^ 32
  | .TIME_NOW => s.now
  | .TIME_STATUS => setBits w 3 1 (b2n (s.timeHub == some h))
  | .RING_HUB => setBits w 0 17 (s.tallyUsed h)
  | .RST_HUB =>
    let acting := (List.range 16).filter fun p => s.partValid p && s.actingHub p == h
    let mods := (List.range 2).any fun k => s.tallyLive (16 + k) && s.actingHub (16 + k) == h
    let mirror := (List.range 16).filter fun p => s.partValid p && s.mirrorHub p == some h
    w + maskOf acting * 2 ^ 16 + b2n mods * 2 ^ 32 + maskOf mirror * 2 ^ 48
  | .MEM_LANE => s.laneWord .MEM_LANE (s.f .MEM_LANESEL_LANE x.ix) (32 * x.ix + s.f .MEM_LANESEL_CHANNEL x.ix) 292
  | .CRX_LANE => s.laneWord .CRX_LANE (s.f .CRX_LANESEL_LANE x.ix) x.ix 68
  | .PCI_CPY =>
    let e := s.engine x.ix
    setBits (setBits w 0 1 (b2n e.run.isSome)) 1 7 (min e.queue.length 127)
  | .TAP_STATUS => b2n (s.tapE x.ix).run.isSome + min (s.tapE x.ix).queue.length 127 * 2 ^ 8
  | .SEC_STATUS | .SEC_XMSS_IDX | .SEC_IDPK | .SEC_ROOT | .SEC_SLOT | .SEC_SLOT_CTR | .SEC_BOOTMIN => s.secWord x.reg x.ix
  | _ => w

/-- The 64-bit word at an aligned offset of a block: a register, or an entry of the distance table (R35). -/
def State.blockWord (s : State) (off : Nat) : Nat :=
  let o := off % 2 ^ 20
  if !s.blockHere (blockOf off) then 0
  else if 0x800 ≤ o && o < 0x1000 then s.distDies ((o - 0x800) / 8 / 16) ((o - 0x800) / 8 % 16)
  else if 0x1000 ≤ o && o < 0x1200 then s.distHub ((o - 0x1000) / 8 / 4) ((o - 0x1000) / 8 % 4)
  else match regAt off with
    | some x => s.regWord x
    | none => 0

/-- What a node core of partition p may read of a register in a hub block (R27). -/
def State.coreSees (s : State) (p : Nat) (x : At) : Bool :=
  let ring := fun r => !s.ringModule r && s.ringPart r == p
  match x.reg with
  | .RING_CTRL | .RING_BASE | .RING_PROD | .RING_CONS | .RING_CPL | .RING_STATUS | .RING_ACCEPT | .RING_DONE => ring x.ix
  | .MEM_PMAP | .XL_AST | .PWR_IDLE | .RST_PART | .SEC_BOOT | .SEC_BOOTMIN => x.ix == p
  | .XL_FQ_BASE | .XL_FQ_CTRL | .XL_FQ_WORDS | .XL_FQ_STATUS => x.ix == p
  | .TLS_RES | .TLS_RES_FLOW => !s.fb .TLS_RES_FLOW_VALID x.ix || s.f .TLS_RES_FLOW_PART x.ix == p
  | .CHK_BIND | .CHK_MSGS | .CHK_SEQ | .CHK_LAST | .CHK_CRC | .CHK_CTRL =>
    !s.fb .CHK_BIND_BOUND x.ix || (!s.fb .CHK_BIND_MODULE x.ix && s.f .CHK_BIND_PART x.ix == p)
  | _ => true

/-- What a requester may read at an offset. -/
def State.mayRead (s : State) (who : Who) (off : Nat) : Bool :=
  match who with
  | .host => true
  | .core p =>
    let b := blockOf off
    if off % 2 ^ 20 < 0x2000 then true
    else if b < 16 then s.dieOwner b == some p
    else match regAt off with
      | some x => s.coreSees p x
      | none => true

/-- A read of control space (R5): aligned 4 or 8 bytes in phase READY, zero otherwise. -/
def State.readCtl (s : State) (who : Who) (off size : Nat) : Nat :=
  let o := off / 8 * 8
  if s.f .RST_STATUS_PHASE ≠ 5 || !s.mayRead who o then 0
  else if size = 8 && off % 8 = 0 then s.blockWord o
  else if size = 4 && off % 4 = 0 then bitsOf (s.blockWord o) (8 * (off % 8)) 32
  else 0

/-! ## Fields of a write (R6, R8) -/

/-- A value that the field's map calls reserved, or that is outside the range its map gives (R8; WAIT_US, LIMIT_US and REMOTE_US above
1,000,000 are DESIGN CHOICE, notes/assumptions/60). -/
def reservedCode (x : Fld) (v : Nat) : Bool :=
  match x with
  | .RING_CTRL_LOC | .RING_CTRL_SCAN | .XL_FQ_CTRL_LOC => v == 3
  | .RING_CTRL_SLOTS_LOG2 => v != 0 && (decide (v < 4) || decide (20 < v))
  | .MEM_CTRL_LANE_LIMIT | .CRX_CTRL_LANE_LIMIT | .MEM_CTRL_SCRUB_HOURS | .TLS_CTRL_HOPS => v == 0
  | .MEM_LANESEL_LANE => decide (292 ≤ v)
  | .CRX_LANESEL_LANE => decide (68 ≤ v)
  | .XL_AST_LOG2 => decide (16 < v)
  | .XL_FQ_CTRL_SIZE_LOG2 | .XL_SVC_CTRL_SIZE_LOG2 => decide (v < 6) || decide (16 < v)
  | .XL_FQ_CTRL_WAIT_US => v != 0 && (decide (v < 100) || decide (1000000 < v))
  | .XL_SVC_CTRL_LIMIT_US | .TLS_CTRL_REMOTE_US => v != 0 && (decide (v < 10) || decide (1000000 < v))
  | .TLS_NODE_NODE => decide (131071 < v)
  | _ => false

/-- A 64-bit write value with the bits that the access carries. -/
structure Wr where
  val : Nat
  mask : Nat

/-- Value and carried bits of place `r` of a field. -/
def Wr.fld (w : Wr) (x : Fld) (r : Nat := 0) : Nat := bitsOf w.val (x.info.lo + r * x.info.stride) x.info.width
def Wr.bits (w : Wr) (x : Fld) (r : Nat := 0) : Nat := bitsOf w.mask (x.info.lo + r * x.info.stride) x.info.width

/-- The write sets a one-bit field. -/
def Wr.sets (w : Wr) (x : Fld) : Bool := w.bits x == 1 && w.fld x == 1

/-- What an RW field holds after the write, were nothing else to stop it. -/
def State.newF (s : State) (w : Wr) (x : Fld) (ix : Nat) (r : Nat := 0) : Nat :=
  let old := s.f x (ix * x.info.reps + r)
  let v := andNot old (w.bits x r) + (w.fld x r &&& w.bits x r)
  if reservedCode x v then old else v

/-- An RW or W1C field written. -/
def State.putF (s : State) (w : Wr) (ix : Nat) (x : Fld) : State :=
  match x.info.acc with
  | .rw => (List.range x.info.reps).foldl (fun s r => s.setF x (ix * x.info.reps + r) (s.newF w x ix r)) s
  | .w1c => s.setF x ix (andNot (s.f x ix) (w.fld x &&& w.bits x))
  | _ => s

def State.putFs (s : State) (w : Wr) (ix : Nat) (xs : List Fld) : State := xs.foldl (fun s x => s.putF w ix x) s

/-- The write changes one of the fields. -/
def State.changes (s : State) (w : Wr) (ix : Nat) (xs : List Fld) : Bool := xs.any fun x => s.newF w x ix != s.f x ix

/-- Fields that take writes only while they are open: written, or left with an error flag set when the write would change them. -/
def State.putLocked (s : State) (w : Wr) (ix : Nat) (isOpen : Bool) (err : Fld) (xs : List Fld) : State :=
  if isOpen then s.putFs w ix xs else if s.changes w ix xs then s.setF err ix 1 else s

/-- A register that takes writes only while it is open: written, or left with an error flag set by any write (R83, R217). -/
def State.putWhole (s : State) (w : Wr) (ix : Nat) (isOpen : Bool) (err x : Fld) : State :=
  if isOpen then s.putF w ix x else s.setF err ix 1

/-- A physical range lies wholly in the stacks of partition p. -/
def State.liesIn (s : State) (p a len : Nat) : Bool :=
  (List.range ((a + len - 1) / 2048 - a / 2048 + 1)).all fun i => s.paPart (max a ((a / 2048 + i) * 2048)) == some p

/-! ## Rings (R82, R83, R109, R484) -/

/-- The conditions of R82. -/
def State.ringMayEnable (s : State) (r : Nat) : Bool :=
  let n := s.f .RING_CTRL_SLOTS_LOG2 r
  let loc := s.f .RING_CTRL_LOC r
  let p := s.ringPart r
  decide (4 ≤ n) && decide (n ≤ 20) && s.fb .RING_STATUS_DRAINED r && (s.ringModule r || s.partValid p) &&
    (if loc = 0 then
      !s.ringModule r && s.liesIn p (s.ringBase r) (64 * 2 ^ n) && s.liesIn p (s.ringProd r) 8 && s.liesIn p (s.ringCons r) 8 &&
        s.liesIn p (s.ringCpl r) (32 * 2 ^ n)
     else s.hubWorks (loc - 1))

def State.ringStart (s : State) (r : Nat) : State :=
  if !s.ringMayEnable r then s.setF .RING_STATUS_CFG_ERR r 1
  else
    let c := s.sched (schedKey (s.ringSet r) (s.f .RING_CTRL_SCHEDULE r))
    let loc := s.f .RING_CTRL_LOC r
    let s := (s.setF .RING_CTRL_ENABLE r 1).setF .RING_DONE_POS r (s.f .RING_ACCEPT_POS r)
    let s := s.setF .RING_STATUS_HOST_STOPPED r (b2n (loc != 0 && s.fb .PCI_LINK_STOPPED (loc - 1)))
    ((s.setRing r { nextDeal := c.firstAt s.now, delivered := (s.ring r).delivered }).syncWait r).writeCons r

/-- Scanning of a ring begins or begins anew: only boundaries from now on act (R84). -/
def State.renewScan (s : State) (r : Nat) : State :=
  s.setRing r { s.ring r with nextDeal := (s.sched (schedKey (s.ringSet r) (s.f .RING_CTRL_SCHEDULE r))).firstAt s.now }

/-- RESUME and DISCARD of a stopped ring. -/
def State.ringOut (s : State) (r : Nat) (resume discard : Bool) : State :=
  if resume && discard then s.setF .RING_STATUS_CFG_ERR r 1
  else if !s.fb .RING_STATUS_HOST_STOPPED r || !(resume || discard) then s
  else if resume then
    if s.fb .PCI_LINK_STOPPED (s.ringPort r) then s.setF .RING_STATUS_CFG_ERR r 1
    else
      let s := ((s.setF .RING_STATUS_HOST_STOPPED r 0).setRing r { s.ring r with dropping := false }).renewScan r
      (s.deliverAll r (s.ring r).entries.length).writeCons r
  else
    let s := s.setRing r { s.ring r with dropping := true }
    s.deliverAll r (s.ring r).entries.length

/-- The ring's registers may be configured (R83). -/
def State.ringOpen (s : State) (r : Nat) : Bool := !s.fb .RING_CTRL_ENABLE r && s.fb .RING_STATUS_DRAINED r

/-- A write of RING_CTRLr; only the host changes MODULE and PART. -/
def State.ringCtrl (s : State) (who : Who) (w : Wr) (r : Nat) : State :=
  let was := s.fb .RING_CTRL_ENABLE r
  let mine := [Fld.RING_CTRL_LOC, .RING_CTRL_SLOTS_LOG2, .RING_CTRL_ASID] ++ (if who == .host then [.RING_CTRL_MODULE, .RING_CTRL_PART] else [])
  let sched := (s.f .RING_CTRL_SCAN r, s.f .RING_CTRL_SCHEDULE r)
  let s := s.putLocked w r (s.ringOpen r) .RING_STATUS_CFG_ERR mine
  let s := s.putFs w r [.RING_CTRL_SCAN, .RING_CTRL_SCHEDULE, .RING_CTRL_GAP]
  let s := if (s.f .RING_CTRL_SCAN r, s.f .RING_CTRL_SCHEDULE r) == sched then s else s.renewScan r
  let on := s.newF w .RING_CTRL_ENABLE r == 1
  let s := if on && !was then s.ringStart r
    else if !on && was then ((s.setF .RING_CTRL_ENABLE r 0).setRing r { s.ring r with scan := .idle, fetched := none, committed := none }).syncWait r
    else s
  s.ringOut r (w.sets .RING_CTRL_RESUME) (w.sets .RING_CTRL_DISCARD)

/-! ## Memory stacks and maps (R241, R257, R261) -/

/-- A write of MEM_PMAPp: taken under the conditions of R241, or refused (R261). A write of the upper half reaches no field. -/
def State.pmapWrite (s : State) (w : Wr) (p : Nat) : State :=
  let fs := [Fld.MEM_PMAP_DI_GIB, .MEM_PMAP_MI_GIB]
  let s := s.putF w p .MEM_PMAP_CFG_ERR
  if w.mask % 2 ^ 32 = 0 then s
  else
    let di := s.newF w .MEM_PMAP_DI_GIB p
    let mi := s.newF w .MEM_PMAP_MI_GIB p
    let np := (128 - di - mi) * GiB
    let below := (s.partStacks p).all fun k => !s.fb .CLR_CTRL_ENABLE k || decide ((s.cel k).base + (s.cel k).casks * 65536 ≤ np)
    if 128 < di || 128 < mi || 128 < di + mi || s.partRingOn p || s.partBusy p || !below then s.setF .MEM_PMAP_CFG_ERR p 1
    else ((s.serveGuest 0 true).serveGuest 1 true).putFs w p fs

def State.memCtrl (s : State) (w : Wr) (k : Nat) : State :=
  let sched := s.f .MEM_CTRL_SCHEDULE k
  let s := s.putFs w k [.MEM_CTRL_WIN_SCHED, .MEM_CTRL_SCHEDULE, .MEM_CTRL_LANE_LIMIT, .MEM_CTRL_SCRUB_EN, .MEM_CTRL_SCRUB_HOURS]
  let s := if s.f .MEM_CTRL_SCHEDULE k = sched then s else
    s.setStack k { s.stack k with
      nextDeal := (s.sched (schedKey ((s.dieOwner (k / 2)).getD 0) (s.f .MEM_CTRL_SCHEDULE k))).after s.now }
  let s := if w.sets .MEM_CTRL_PEAK_CLR then s.setF .MEM_THERM_PEAK k (s.f .MEM_THERM_TEMP k) else s
  if w.sets .MEM_CTRL_RETRAIN then s.pendWindow k else s

/-! ## Fault and service queues (R308) -/

def State.fqCtrl (s : State) (w : Wr) (q : Nat) : State :=
  let was := s.fb .XL_FQ_CTRL_ENABLE q
  let s := s.putLocked w q (!was) .XL_FQ_STATUS_CFG_ERR [.XL_FQ_CTRL_LOC, .XL_FQ_CTRL_SIZE_LOG2]
  let s := s.putF w q .XL_FQ_CTRL_WAIT_US
  let on := s.newF w .XL_FQ_CTRL_ENABLE q == 1
  if on == was then s
  else if !on then s.setF .XL_FQ_CTRL_ENABLE q 0
  else
    let n := s.f .XL_FQ_CTRL_SIZE_LOG2 q
    let good := decide (6 ≤ n) && decide (n ≤ 16) &&
      (if s.f .XL_FQ_CTRL_LOC q = 0 then
        decide (q < 16) && s.liesIn q (s.f .XL_FQ_BASE_ADDR q * 64) (64 * 2 ^ n) && s.liesIn q (s.f .XL_FQ_WORDS_ADDR q * 16) 16
       else true)
    s.setF (if good then .XL_FQ_CTRL_ENABLE else .XL_FQ_STATUS_CFG_ERR) q 1

def State.svcCtrl (s : State) (w : Wr) (n : Nat) : State :=
  let was := s.fb .XL_SVC_CTRL_ENABLE n
  let s := s.putLocked w n (!was) .XL_SVC_STATUS_CFG_ERR [.XL_SVC_CTRL_SIZE_LOG2]
  let s := s.putF w n .XL_SVC_CTRL_LIMIT_US
  let on := s.newF w .XL_SVC_CTRL_ENABLE n == 1
  if on == was then s
  else if !on then s.setF .XL_SVC_CTRL_ENABLE n 0
  else
    let z := s.f .XL_SVC_CTRL_SIZE_LOG2 n
    let good := decide (6 ≤ z) && decide (z ≤ 16) && (match s.dieOwner n with
      | some p => s.liesIn p (s.f .XL_SVC_BASE_ADDR n * 64) (32 * 2 ^ z)
      | none => false)
    s.setF (if good then .XL_SVC_CTRL_ENABLE else .XL_SVC_STATUS_CFG_ERR) n 1

/-- The low half of XL_SVC_REPLY is written: a reply. -/
def State.svcReply (s : State) (w : Wr) (n : Nat) : State :=
  if w.bits .XL_SVC_REPLY_TAG = 0 then s
  else if w.sets .XL_SVC_REPLY_ACTION then s.svcFault n (w.fld .XL_SVC_REPLY_TAG)
  else s.svcRetry n (w.fld .XL_SVC_REPLY_TAG)

/-! ## Peers, Corox, Tilus, cellar (R217, R314, R347, R370, R383) -/

def State.peerCtrl (s : State) (w : Wr) (ix : Nat) : State :=
  let k := ix / 16
  let was := s.fb .PCI_PEER_ENABLE ix
  let s := if was then s else s.putFs w ix [.PCI_PEER_RID, .PCI_PEER_READ, .PCI_PEER_WRITE]
  let on := s.newF w .PCI_PEER_ENABLE ix == 1
  if on == was then s
  else if !on then (s.setF .PCI_PEER_ENABLE ix 0).setF .PCI_PEER_STATE ix 0
  else
    let s := s.setF .PCI_PEER_ENABLE ix 1
    if !s.portOk k then s.setF .PCI_PEER_STATE ix 3
    else
      (s.setF .PCI_PEER_STATE ix 1).setPort k
        { s.port k with verifyAt := (s.port k).verifyAt.fput (ix % 16) s.eng 0, idReads := s.peerBlock ix 0 :: (s.port k).idReads }

def State.crxCtrl (s : State) (who : Who) (w : Wr) (e : Nat) : State :=
  let sched := s.f .CRX_CTRL_SCHEDULE e
  let s := s.putFs w e ([Fld.CRX_CTRL_WIN_SCHED, .CRX_CTRL_SCHEDULE, .CRX_CTRL_LANE_LIMIT] ++ (if who == .host then [.CRX_CTRL_DISABLE] else []))
  let s := if s.f .CRX_CTRL_SCHEDULE e = sched then s else
    s.setCrxE e { s.crxE e with nextDeal := (s.sched (schedKey 16 (s.f .CRX_CTRL_SCHEDULE e))).after s.now }
  let s := if w.sets .CRX_CTRL_RETRAIN && s.crxWindowed e then s.setCrxE e { s.crxE e with retrain := true } else s
  s.settleCrx e

def State.nodeWrite (s : State) (w : Wr) : State :=
  if (List.range 16).any fun p => s.fb .TLS_PCTRL_ENABLE p then s.setF .TLS_STATUS_CFG_ERR 0 1
  else s.putFs w 0 [.TLS_NODE_NODE, .TLS_NODE_VALID]

def State.tlsPort (s : State) (w : Wr) (p : Nat) : State :=
  let was := s.fb .TLS_PCTRL_ENABLE p
  let on := s.newF w .TLS_PCTRL_ENABLE p == 1
  let failed := s.f .TLS_PSTAT_STATE p == 5
  if on == was then s
  else if !on then
    let s := s.setF .TLS_PCTRL_ENABLE p 0
    if failed then s else s.portDown p 0
  else if !s.fb .TLS_NODE_VALID then s
  else
    let s := (s.setF .TLS_PCTRL_ENABLE p 1).setTls p { s.tls p with lastTry := 0 }
    if failed then s else s.setF .TLS_PSTAT_STATE p 1

def State.clrCtrl (s : State) (w : Wr) (k : Nat) : State :=
  let on := s.newF w .CLR_CTRL_ENABLE k == 1
  if on == s.fb .CLR_CTRL_ENABLE k then s else if on then s.clrEnable k else s.clrDisable k

def State.timeCtrl (s : State) (w : Wr) : State :=
  let was := s.fb .TIME_CTRL_ROLE
  let s := s.putFs w 0 [.TIME_CTRL_ROLE, .TIME_CTRL_BEACON_EN, .TIME_CTRL_SLEW_ONLY]
  if s.fb .TIME_CTRL_ROLE == was then s else if was then s.leaveDealer else s.becomeDealer

/-! ## Counters (R457, R465) -/

/-- A write of a selection register: an invalid selection word changes neither it nor ENABLE. -/
def State.ctrSelWrite (s : State) (w : Wr) (ix level : Nat) (sel en wr err : Fld) : State :=
  let s := s.putFs w ix [wr, err]
  if w.bits sel ≠ 0 && !selOk (s.newF w sel ix) level then s.setF err ix 1 else s.putFs w ix [sel, en]

/-! ## A write of one register -/

/-- A requester may write the register (R27). -/
def State.mayWrite (s : State) (who : Who) (x : At) : Bool :=
  match who with
  | .host => true
  | .core p =>
    if x.block < 16 then s.dieOwner x.block == some p
    else match x.reg with
      | .RING_CTRL | .RING_BASE | .RING_PROD | .RING_CONS | .RING_CPL | .RING_STATUS | .RING_ACCEPT => !s.ringModule x.ix && s.ringPart x.ix == p
      | _ => false

/-- A write of one register by a requester that may write it. -/
def State.regWrite (s : State) (who : Who) (w : Wr) (x : At) : State :=
  let i := x.ix
  let ringErr := Fld.RING_STATUS_CFG_ERR
  match x.reg with
  | .TIME_CTRL => s.timeCtrl w
  | .TIME_DEALER_SET =>
    let v := (andNot (s.f .TIME_DEALER_SET_TIME) w.mask + (w.val &&& w.mask)) % 2 ^ 64
    (s.setF .TIME_DEALER_SET_TIME 0 v).dealerSet v
  | .RING_CTRL => s.ringCtrl who w i
  | .RING_BASE => s.putWhole w i (s.ringOpen i) ringErr .RING_BASE_ADDR
  | .RING_PROD => s.putWhole w i (s.ringOpen i) ringErr .RING_PROD_ADDR
  | .RING_CONS => s.putWhole w i (s.ringOpen i) ringErr .RING_CONS_ADDR
  | .RING_CPL => s.putWhole w i (s.ringOpen i) ringErr .RING_CPL_ADDR
  | .RING_ACCEPT => s.putWhole w i (s.ringOpen i) ringErr .RING_ACCEPT_POS
  | .CLR_CTRL => s.clrCtrl w i
  | .CLR_BASE => s.putWhole w i (!s.fb .CLR_CTRL_ENABLE i && !s.fb .CLR_STATUS_READY i) .CLR_STATUS_CFG_ERR .CLR_BASE_ADDR
  | .CLR_COUNT => s.putWhole w i (!s.fb .CLR_CTRL_ENABLE i && !s.fb .CLR_STATUS_READY i) .CLR_STATUS_CFG_ERR .CLR_COUNT_CASKS
  | .MEM_CTRL => s.memCtrl w i
  | .MEM_PMAP => s.pmapWrite w i
  | .XL_FQ_CTRL => s.fqCtrl w i
  | .XL_FQ_BASE => s.putWhole w i (!s.fb .XL_FQ_CTRL_ENABLE i) .XL_FQ_STATUS_CFG_ERR .XL_FQ_BASE_ADDR
  | .XL_FQ_WORDS => s.putWhole w i (!s.fb .XL_FQ_CTRL_ENABLE i) .XL_FQ_STATUS_CFG_ERR .XL_FQ_WORDS_ADDR
  | .XL_SVC_CTRL => s.svcCtrl w i
  | .XL_SVC_BASE => s.putWhole w i (!s.fb .XL_SVC_CTRL_ENABLE i) .XL_SVC_STATUS_CFG_ERR .XL_SVC_BASE_ADDR
  | .XL_SVC_CONS => if w.bits .XL_SVC_CONS_CONS = 0 then s else s.svcCons i (w.fld .XL_SVC_CONS_CONS)
  | .XL_SVC_REPLY => s.svcReply w i
  | .PCI_PEER => s.peerCtrl w i
  | .PCI_PEER_BAR0 => if s.fb .PCI_PEER_ENABLE i then s else s.putF w i .PCI_PEER_BAR0_ADDR
  | .PCI_PEER_SERIAL => if s.fb .PCI_PEER_ENABLE i then s else s.putF w i .PCI_PEER_SERIAL_SERIAL
  | .PCI_PEER_WIN => if s.fb .PCI_PEER_ENABLE i then s else s.putFs w i [.PCI_PEER_WIN_BASE_GIB, .PCI_PEER_WIN_SIZE_GIB]
  | .CHK_CTRL => if w.sets .CHK_CTRL_CLEAR then s.resetRegs [.CHK_MSGS, .CHK_SEQ] [i] else s
  | .CRX_CTRL => s.crxCtrl who w i
  | .TLS_NODE => s.nodeWrite w
  | .TLS_PCTRL => s.tlsPort w i
  | .PWR_IDLE =>
    let s := s.putF w i .PWR_IDLE_CFG_ERR
    if w.bits .PWR_IDLE_LEVEL = 0 then s else s.napWrite i (w.fld .PWR_IDLE_LEVEL)
  | .CTR_USEL => s.ctrSelWrite w i 0 .CTR_USEL_SEL .CTR_USEL_ENABLE .CTR_USEL_WRAPPED .CTR_USEL_CFG_ERR
  | .CTR_SEL => s.ctrSelWrite w i (if i < 256 then 1 else 2) .CTR_SEL_SEL .CTR_SEL_ENABLE .CTR_SEL_WRAPPED .CTR_SEL_CFG_ERR
  | g => s.putFs w i g.flds

/-- A write of control space (R5): aligned 4 or 8 bytes, to a register of a present die or hub, in phase READY. -/
def State.writeCtl (s : State) (who : Who) (off size val : Nat) : State :=
  let o := off / 8 * 8
  let sh := 8 * (off % 8)
  if s.f .RST_STATUS_PHASE ≠ 5 || !s.blockHere (blockOf off) || !((size == 8 && off % 8 == 0) || (size == 4 && off % 4 == 0)) then s
  else match regAt o with
    | none => s
    | some x =>
      if s.mayWrite who x then s.regWrite who ⟨val % 2 ^ (8 * size) * 2 ^ sh, (2 ^ (8 * size) - 1) * 2 ^ sh⟩ x else s

/-! ## Rows that write one register -/

def effRegisterWrite (who : Who) (off size : Nat) (val : Word) (s : State) : State := s.writeCtl who off size val.toNat
def execRegisterWrite (who : Who) (off size : Nat) (val : Word) (s : State) : Out :=
  run (.registerWrite who off size val) s (effRegisterWrite who off size val s)

/-- The 64-bit write of a register that reads the same through every hub block, through the block of the lowest-numbered hub present. -/
def State.writeHubReg (s : State) (who : Who) (o : Nat) (val : Word) : State :=
  s.writeCtl who (0x1000000 + ((List.range 4).find? s.hubPresent).getD 0 * 0x100000 + o) 8 val.toNat

/-- The 64-bit write of a register in the block of hub h, or of die n. -/
def State.writeHubAt (s : State) (who : Who) (h o : Nat) (val : Word) : State := s.writeCtl who (0x1000000 + h * 0x100000 + o) 8 val.toNat
def State.writeDieAt (s : State) (who : Who) (n o : Nat) (val : Word) : State := s.writeCtl who (n * 0x100000 + o) 8 val.toNat

/-- RING_CTRLr. -/
def State.writeRing (s : State) (who : Who) (r : Nat) (val : Word) : State := s.writeHubReg who (0x4000 + 64 * r) val
/-- A register of stack k at `o` with step `d` for its local stack. -/
def State.writeStack (s : State) (who : Who) (k o d : Nat) (val : Word) : State := s.writeDieAt who (k / 2) (o + d * (k % 2)) val
/-- CRX_CTRL of an end. -/
def State.writeCrx (s : State) (who : Who) (e : Nat) (val : Word) : State :=
  if e < 144 then s.writeDieAt who (e / 9) (0xC000 + 0x40 * (e % 9)) val else s.writeHubAt who ((e - 144) / 8) (0xC000 + 0x40 * (e % 8)) val

def execRingEnable (who : Who) (r : Nat) (v : Word) (s : State) : Out := run (.ringEnable who r v) s (s.writeRing who r v)
def execRingDisable (who : Who) (r : Nat) (v : Word) (s : State) : Out := run (.ringDisable who r v) s (s.writeRing who r v)
def execRingResume (who : Who) (r : Nat) (v : Word) (s : State) : Out := run (.ringResume who r v) s (s.writeRing who r v)
def execRingDiscard (who : Who) (r : Nat) (v : Word) (s : State) : Out := run (.ringDiscard who r v) s (s.writeRing who r v)
def execDealerRoleSet (who : Who) (v : Word) (s : State) : Out := run (.dealerRoleSet who v) s (s.writeHubReg who 0x2010 v)
def execDealerRoleClear (who : Who) (v : Word) (s : State) : Out := run (.dealerRoleClear who v) s (s.writeHubReg who 0x2010 v)
def execTimeDealerSet (who : Who) (v : Word) (s : State) : Out := run (.timeDealerSet who v) s (s.writeHubReg who 0x2018 v)
def execClrEnable (who : Who) (k : Nat) (v : Word) (s : State) : Out := run (.clrEnable who k v) s (s.writeStack who k 0x6000 0x40 v)
def execClrDisable (who : Who) (k : Nat) (v : Word) (s : State) : Out := run (.clrDisable who k v) s (s.writeStack who k 0x6000 0x40 v)
def execMemPmapWrite (who : Who) (p : Nat) (v : Word) (s : State) : Out := run (.memPmapWrite who p v) s (s.writeHubReg who (0x8000 + 8 * p) v)
def execMemRetrain (who : Who) (k : Nat) (v : Word) (s : State) : Out := run (.memRetrain who k v) s (s.writeStack who k 0x8000 0x400 v)
def execMemPeakClr (who : Who) (k : Nat) (v : Word) (s : State) : Out := run (.memPeakClr who k v) s (s.writeStack who k 0x8000 0x400 v)
def execFaultQueueEnable (who : Who) (q : Nat) (v : Word) (s : State) : Out :=
  run (.faultQueueEnable who q v) s (s.writeHubReg who (0x9088 + 0x20 * q) v)
def execSvcQueueEnable (who : Who) (n : Nat) (v : Word) (s : State) : Out := run (.svcQueueEnable who n v) s (s.writeDieAt who n 0x9008 v)
def execSvcReplyRetry (who : Who) (n : Nat) (v : Word) (s : State) : Out := run (.svcReplyRetry who n v) s (s.writeDieAt who n 0x9020 v)
def execSvcReplyFault (who : Who) (n : Nat) (v : Word) (s : State) : Out := run (.svcReplyFault who n v) s (s.writeDieAt who n 0x9020 v)
def execSvcConsWrite (who : Who) (n : Nat) (v : Word) (s : State) : Out := run (.svcConsWrite who n v) s (s.writeDieAt who n 0x9018 v)
def execPeerEnable (who : Who) (k i : Nat) (v : Word) (s : State) : Out :=
  run (.peerEnable who k i v) s (s.writeHubAt who k (0xA100 + 0x20 * i) v)
def execPeerDisable (who : Who) (k i : Nat) (v : Word) (s : State) : Out :=
  run (.peerDisable who k i v) s (s.writeHubAt who k (0xA100 + 0x20 * i) v)
def execChkClear (who : Who) (h u : Nat) (v : Word) (s : State) : Out := run (.chkClear who h u v) s (s.writeHubAt who h (0xB028 + 0x40 * u) v)
def execCoroxRetrain (who : Who) (e : Nat) (v : Word) (s : State) : Out := run (.coroxRetrain who e v) s (s.writeCrx who e v)
def execCoroxDisableSet (who : Who) (e : Nat) (v : Word) (s : State) : Out := run (.coroxDisableSet who e v) s (s.writeCrx who e v)
def execCoroxDisableClear (who : Who) (e : Nat) (v : Word) (s : State) : Out := run (.coroxDisableClear who e v) s (s.writeCrx who e v)
def execTlsNodeWrite (who : Who) (v : Word) (s : State) : Out := run (.tlsNodeWrite who v) s (s.writeHubReg who 0xD000 v)
def execTilusPortEnable (who : Who) (p : Nat) (v : Word) (s : State) : Out :=
  run (.tilusPortEnable who p v) s (s.writeHubAt who (p / 4) (0xD100 + 0x40 * (p % 4)) v)
def execTilusPortDisable (who : Who) (p : Nat) (v : Word) (s : State) : Out :=
  runIf (who.ok && decide (p < 16)) s (s.writeHubAt who (p / 4) (0xD100 + 0x40 * (p % 4)) v)
def execNapEnter (who : Who) (p : Nat) (v : Word) (s : State) : Out := run (.napEnter who p v) s (s.writeHubReg who (0xE040 + 8 * p) v)
def execNapExit (who : Who) (p : Nat) (v : Word) (s : State) : Out := run (.napExit who p v) s (s.writeHubReg who (0xE040 + 8 * p) v)

end Sys2Proof.Machine
end

