-- ==== Sys2Proof/Machine/Host.lean ====
section
/-!
DEFINITION. Requests that come in through PCIe (R312, R313, R315), and the accesses of node cores to the physical space (R21, R25, R27, R43,
R195, R250, R262, R265, R427).
-/

namespace Sys2Proof.Machine

open Sys2Proof

/-! ## Inbound requests -/

/-- The module answers an inbound read: port, completion status (0 successful, 1 Unsupported Request, 2 Completer Abort), data. -/
def State.answerIn (s : State) (k status : Nat) (b : Bytes) : State := { s with out := { s.out with inbound := (k, status, b) :: s.out.inbound } }

/-- The VERIFIED peer entry of a requester. -/
def State.peerOf (s : State) (k rid : Nat) : Option Nat :=
  (List.range 16).find? fun i => s.f .PCI_PEER_STATE (16 * k + i) == 2 && s.f .PCI_PEER_RID (16 * k + i) == rid

/-- The requester is the host. -/
def State.isHost (s : State) (k rid : Nat) : Bool :=
  let m := s.f .PCI_HOST_RID_MASK k
  rid &&& m == s.f .PCI_HOST_RID k &&& m

/-- A requester may make a request of `len` bytes (R313). -/
def State.inboundOk (s : State) (k rid bar off len : Nat) (write : Bool) : Bool :=
  match s.peerOf k rid with
  | some i =>
    let ix := 16 * k + i
    let lo := s.f .PCI_PEER_WIN_BASE_GIB ix * GiB
    bar == 2 && s.fb (if write then .PCI_PEER_WRITE else .PCI_PEER_READ) ix &&
      decide (lo ≤ off) && decide (off + len ≤ lo + s.f .PCI_PEER_WIN_SIZE_GIB ix * GiB)
  | none => s.isHost k rid

/-- Why an inbound request to memory is not performed (Table 12-4). -/
inductive InErr where
  | hole | closed | uncorr
deriving DecidableEq, Repr

/-- Physical address of a BAR2 offset (R312). -/
def State.aperture (s : State) (k off : Nat) : Nat := s.f .PCI_APER_BASE k * GiB + off

/-- The stack of a physical address cannot be reached from a port: a hole, a failed or stopped stack, a partition resetting or STOPPED. -/
def State.inHole (s : State) (pa : Nat) : Bool :=
  decide (controlBase ≤ pa) ||
    match s.locate none pa with
    | .error _ => true
    | .ok (k, _) =>
      match s.dieOwner (k / 2) with
      | some p => s.f .RST_PART_STATE p == 2 || s.f .RST_PART_STATE p == 3
      | none => true

/-- A piece of a write covers part of a codeword that is uncorrectable now (R251). -/
def State.partLost (s : State) (a n : Nat) : Bool :=
  match s.decodePA a with
  | some (k, off) => n != 64 && (s.ownerOf (granKey k off)).isNone && s.isUncorr (granKey k off)
  | none => false

/-- A write meets a region that is closed to it (R195, R451). -/
def State.inClosed (s : State) (a : Nat) : Bool :=
  match s.decodePA a with
  | some (k, off) => s.inCellar k off || s.inBootImage a
  | none => false

/-- Uncorrectable data met by an inbound request: counted, with a fault record in queue 16. -/
def State.inLost (s : State) (k pa access : Nat) : State :=
  (s.incF .PCI_INBOUND_UNCORRECTABLE k).postEvent 16
    { addr := pa, time := s.now, cause := 0x10, agentKind := 7, agentIx := k, kind := 2, access := access }

/-- A read of memory through BAR2. -/
def State.inboundMemRead (s : State) (k pa len : Nat) : State :=
  if (pieces pa len).any fun (x : Nat × Nat × Nat) => s.inHole x.2.1 then (s.incF .PCI_INBOUND_HOLES k).answerIn k 2 []
  else match s.readPhys none .bulk pa len with
    | (.ok b, s) => s.answerIn k 0 b
    | (.error (.uncorr, a), s) => (s.inLost k a 1).answerIn k 2 []
    | (.error _, s) => (s.incF .PCI_INBOUND_HOLES k).answerIn k 2 []

/-- A posted write of memory through BAR2: performed whole or dropped. -/
def State.inboundMemWrite (s : State) (k pa : Nat) (d : Bytes) : State :=
  let ps := pieces pa d.length
  if ps.any fun (x : Nat × Nat × Nat) => s.inHole x.2.1 then s.incF .PCI_INBOUND_HOLES k
  else if ps.any fun (x : Nat × Nat × Nat) => s.inClosed x.2.1 then s.incF .PCI_INBOUND_CELLAR k
  else match ps.find? fun (x : Nat × Nat × Nat) => s.partLost x.2.1 x.2.2 with
    | some x =>
      match s.decodePA x.2.1 with
      | some (st, off) => (s.readGran (granKey st off)).2.inLost k x.2.1 2
      | none => s
    | none =>
      match s.writePhys none .bulk false pa d with
      | (some (.uncorr, a), s) => s.inLost k a 2
      | (_, s) => s

/-- The port takes requests: the BARs are served (R410, R413), its hub works and its link is up. -/
def State.portServes (s : State) (k : Nat) : Bool := s.f .RST_STATUS_PHASE == 5 && s.hubWorks k && s.fb .PCI_LINK_UP k

/-- Bytes of BAR0, and of BAR2 as it is sized (Table 12-3). -/
def State.barBytes (s : State) (k bar : Nat) : Nat := if bar = 0 then 2 ^ 28 else 2 ^ (s.port k).bar2Log

/-- The function decodes memory requests: Memory Space Enable set (R312), and not in D3hot. -/
def State.memServes (s : State) (k : Nat) : Bool := (s.port k).memEn && !(s.port k).d3hot

def effInboundRead (k rid bar off len : Nat) (s : State) : State :=
  if !s.portServes k then s
  else
    let s := s.evHub k 0x22 0 0 len
    if !s.memServes k || decide (s.barBytes k bar < off + len) then s.answerIn k 1 []
    else if !s.inboundOk k rid bar off len false then (s.incF .PCI_INBOUND_UR k).answerIn k 1 []
    else if bar = 0 then s.answerIn k 0 (leBytes len (s.readCtl .host off len))
    else s.inboundMemRead k (s.aperture k off) len
def execInboundRead (k rid bar off len : Nat) (s : State) : Out := runR (.inboundRead k rid bar off len) s (effInboundRead k rid bar off len s)

def effInboundWrite (k rid bar off : Nat) (d : Bytes) (poisoned : Bool) (s : State) : State :=
  if !s.portServes k then s
  else
    let s := s.evHub k 0x22 0 0 d.length
    if !s.memServes k || decide (s.barBytes k bar < off + d.length) then s
    else if poisoned || !s.inboundOk k rid bar off d.length true then s.incF .PCI_INBOUND_UR k
    else if bar = 0 then s.writeCtl .host off d.length (leNat d)
    else s.inboundMemWrite k (s.aperture k off) d
def execInboundWrite (k rid bar off : Nat) (d : Bytes) (poisoned : Bool) (s : State) : Out :=
  runR (.inboundWrite k rid bar off d poisoned) s (effInboundWrite k rid bar off d poisoned s)

/-! ## Node cores -/

/-- Caching agent of a node core's L2 (R273), and its die. -/
def coreDie (c : Nat) : Nat := c / 16

/-- The exception of an access: 1 load, 2 store or AMO, 3 instruction access fault. -/
def trapOf (access : Nat) : Nat := if access = 8 then 3 else if access = 1 then 1 else 2

/-- The access takes its access-fault exception. -/
def State.coreTrap (s : State) (c access addr : Nat) : State := s.setCore c { s.core c with trap := trapOf access, trapAddr := addr }

/-- The access completes, with the value it returns. -/
def State.coreDone (s : State) (c v : Nat) : State := s.setCore c { s.core c with trap := 0, value := v }

/-- The access of a node core to uncorrectable data: the exception, and a fault record that names the address. -/
def State.coreLost (s : State) (c p access pa : Nat) : State :=
  (s.postEvent p { addr := pa, time := s.now, cause := 0x10, agentKind := 1, agentIx := c, kind := 2, access := access }).coreTrap c access pa

/-- Where a core's access lies: stack and stack offset, in its partition, on a stack that serves; writes also outside the cellar (R25, R195,
R427). -/
def State.coreAt (s : State) (p pa : Nat) (write : Bool) : Option (Nat × Nat) :=
  match s.locate (some p) pa with
  | .ok (k, off) => if write && s.inCellar k off then none else some (k, off)
  | .error _ => none

/-- The granule of an address: for a fetch from the L1 instruction cache when it holds it, for a load in any state, for a write in M; an AMO, LR
or SC is performed in the L2 (R265). -/
def State.coreGran (s : State) (c access g : Nat) : Option Bytes × State :=
  let a := coreAgent c
  if access = 8 then
    let held := (s.core c).icache.fget g []
    if held ≠ [] then (some held, s.coreUse 1 c g)
    else match s.acquireShared a g with
      | (some b, s) => (some b, (s.setCore c { s.core c with icache := (s.core c).icache.fput g b [] }).coreUse 0 c g |>.coreUse 1 c g)
      | (none, s) => (none, s)
  else if access = 1 then
    match s.acquireShared a g with
    | (some b, s) => (some b, (s.coreUse 0 c g).coreUse 2 c g)
    | r => r
  else
    -- the core's own write leaves its L1 instruction cache as it is until a FENCE.I
    let s := s.settle g
    let keep := (s.core c).icache.fget g []
    let back := fun (s : State) => s.setCore c { s.core c with icache := (s.core c).icache.fput g keep [] }
    match s.acquireOwn a g false with
    | (none, s) => (none, back s)
    | (some b, s) =>
      let s := (back s).coreUse 0 c g
      (some b, if access = 2 then s.coreUse 2 c g else s)

/-- The bytes that an access reads, piece by piece; `none` after an exception. -/
def State.coreRead (s : State) (c p access : Nat) : List (Nat × Nat × Nat) → Option Bytes × State
  | [] => (some [], s)
  | (_, pa, n) :: t =>
    match s.coreAt p pa (access == 2 || access == 4) with
    | none => (none, s.coreTrap c access pa)
    | some (k, off) =>
      match s.coreGran c access (granKey k off) with
      | (none, s) => (none, s.coreLost c p access pa)
      | (some b, s) =>
        match s.coreRead c p access t with
        | (some r, s) => (some (sliceB b (off % 64) n ++ r), s)
        | (none, s) => (none, s)

/-- The bytes of a store put into granules that the L2 holds in M. -/
def State.corePut (s : State) (c : Nat) (d : Bytes) (pa : Nat) : State :=
  (pieces pa d.length).foldl (fun s (o, a, n) =>
    match s.decodePA a with
    | some (k, off) =>
      let g := granKey k off
      let old := (s.copy (coreAgent c) g).data
      s.setCopy (coreAgent c) g { s.copy (coreAgent c) g with
        st := .m, data := mergeMask old (zeroBytes (off % 64) ++ sliceB d o n) (byteMask (off % 64) n) }
    | none => s) s

/-- A load, fetch or LR of `n` bytes of memory. -/
def State.coreLoad (s : State) (c p access pa n : Nat) : State :=
  match s.coreRead c p access (pieces pa n) with
  | (some b, s) => s.coreDone c (leNat b)
  | (none, s) => s

/-- A store of `n` bytes of memory. -/
def State.coreStore (s : State) (c p pa n v : Nat) : State :=
  match s.coreRead c p 2 (pieces pa n) with
  | (some _, s) => (s.corePut c (leBytes n v) pa).coreDone c 0
  | (none, s) => s

/-- An AMO, performed on the granule in M (R265): it returns the prior value. -/
def State.coreAmo (s : State) (c p pa n : Nat) (op : AtomOp) (v : Nat) : State :=
  if pa % n ≠ 0 then s.coreTrap c 4 pa
  else match s.coreRead c p 4 (pieces pa n) with
    | (some b, s) => (s.corePut c (leBytes n (atomApply op (8 * n) (leNat b) v 0).1) pa).coreDone c (leNat b)
    | (none, s) => s

/-- The granule of an address as a core reserves it. -/
def State.granOf (s : State) (pa : Nat) : Option Nat := (s.decodePA pa).map fun (x : Nat × Nat) => granKey x.1 x.2

/-- LR: the granule obtained in M, and reserved. -/
def State.coreLr (s : State) (c p pa n : Nat) : State :=
  if pa % n ≠ 0 then s.coreTrap c 1 pa
  else match s.coreAt p pa false with
    | none => s.coreTrap c 1 pa
    | some (k, off) =>
      let g := granKey k off
      match s.coreGran c 4 g with
      | (none, s) => s.coreLost c p 1 pa
      | (some b, s) => (s.setCore c { s.core c with resv := some g }).coreDone c (leNat (sliceB b (off % 64) n))

/-- SC: the granule obtained in M (R265); 0 when the reservation still holds then and the store is performed, 1 otherwise. -/
def State.coreSc (s : State) (c p pa n v : Nat) : State :=
  if pa % n ≠ 0 || (s.coreAt p pa true).isNone then s.coreTrap c 4 pa
  else
    let s := ((s.granOf pa).map s.settle).getD s
    let holds := (s.core c).resv.isSome && (s.core c).resv == s.granOf pa
    let s := s.setCore c { s.core c with resv := none }
    match s.coreRead c p 4 (pieces pa n) with
    | (some _, s) => if holds then (s.corePut c (leBytes n v) pa).coreDone c 0 else s.coreDone c 1
    | (none, s) => s

/-- An access to control space, uncached (R262): loads and stores only. -/
def State.coreCtl (s : State) (c p : Nat) (op : CoreOp) : State :=
  match op with
  | .load a n => s.coreDone c (s.readCtl (.core p) (a - controlBase) n)
  | .store a n v => (s.writeCtl (.core p) (a - controlBase) n v.toNat).coreDone c 0
  | .fetch a _ => s.coreTrap c 8 a
  | .lr a _ => s.coreTrap c 1 a
  | .amo a _ _ _ | .sc a _ _ => s.coreTrap c 4 a
  | .fenceI | .rdtime | .mhartid => s

/-- Address of an access. -/
def coreAddr : CoreOp → Nat
  | .load a _ | .fetch a _ | .store a _ _ | .amo a _ _ _ | .lr a _ | .sc a _ _ => a
  | .fenceI | .rdtime | .mhartid => 0

/-- The core executes: released, its die working, its partition not in NAP (R404, R451). -/
def State.coreRuns (s : State) (c p : Nat) : Bool :=
  (s.core c).running && s.dieWorks (coreDie c) && !bitOf s.power.napCores p && s.f .RST_STATUS_PHASE == 5

/-- What a running core of partition p does; its hart ID is its index 16n + c (R21). -/
def State.coreAct (s : State) (c p : Nat) (op : CoreOp) : State :=
  if controlBase ≤ coreAddr op then s.coreCtl c p op
  else match op with
    | .load a n => s.coreLoad c p 1 a n
    | .fetch a n => s.coreLoad c p 8 a n
    | .store a n v => s.coreStore c p a n v.toNat
    | .amo a n o v => s.coreAmo c p a n o v.toNat
    | .lr a n => s.coreLr c p a n
    | .sc a n v => s.coreSc c p a n v.toNat
    | .fenceI => (s.setCore c { s.core c with icache := [] }).coreDone c 0
    | .rdtime => s.coreDone c s.now
    | .mhartid => s.coreDone c c

def effNodeCoreAccess (c : Nat) (op : CoreOp) (s : State) : State :=
  match s.dieOwner (coreDie c) with
  | some p => if s.coreRuns c p then s.coreAct c p op else s
  | none => s
def execNodeCoreAccess (c : Nat) (op : CoreOp) (s : State) : Out :=
  runIf (decide (c < 256) && op.ok) s (effNodeCoreAccess c op s).settleRetire

end Sys2Proof.Machine
end

