-- ==== Sys2Proof/Machine/Ports.lean ====
section
/-!
DEFINITION. The management port and the test access ports (R476 to R478).
-/

namespace Sys2Proof.Machine

open Sys2Proof

/-! ## Management port -/

/-- Registers that the port reads before READY and in HALTED (R477). -/
def earlyReg (g : Reg) : Bool :=
  match g with
  | .ID_PART | .ID_SERIAL | .RST_STATUS | .PWR_FUSE | .PWR_STATUS | .SEC_IDPK => true
  | _ => false

/-- The value that a READ64 of an offset returns. -/
def State.i3cRead (s : State) (off : Nat) : Nat :=
  if s.f .RST_STATUS_PHASE = 5 then s.readCtl .host off 8
  else match regAt off with
    | some x => if earlyReg x.reg && (s.f .ID_PRESENT_HUBS == 0 || s.blockHere x.block) then s.regWord x else 0
    | none => 0

def State.setMgmt (s : State) (m : Mgmt) : State := { s with mgmt := m }

def effRead64 (off : Nat) (s : State) : State := if s.rst.vaux then s.setMgmt { s.mgmt with reply := some (s.i3cRead off) } else s
def execRead64 (off : Nat) (s : State) : Out := runIf (decide (off < 2 ^ 32)) s (effRead64 off s)

/-- Bits 7 and 6 of GETSTATUS: the level of COOL_OK, and REFCLK_LOST since the last one. -/
def effGetstatus (s : State) : State :=
  if !s.rst.vaux then s
  else { s.setMgmt { s.mgmt with status := b2n s.rst.refclkLost * 2 ^ 6 + b2n s.rst.coolAt.isSome * 2 ^ 7 } with
           rst := { s.rst with refclkLost := false } }
def execGetstatus (s : State) : Out := runIf true s (effGetstatus s)

/-- A port without an address takes one. -/
def effEntdaa (addr : Nat) (s : State) : State :=
  if s.rst.vaux && s.mgmt.addr.isNone then s.setMgmt { s.mgmt with addr := some addr, pid := some (s.fuse.serial % 2 ^ 32) } else s
def execEntdaa (addr : Nat) (s : State) : Out := runIf (decide (addr < 128)) s (effEntdaa addr s)

/-- The static address of R476. -/
def i3cStatic : Nat := 0x3A

def effSetdasa (sa addr : Nat) (s : State) : State :=
  if s.rst.vaux && s.mgmt.addr.isNone && sa == i3cStatic then s.setMgmt { s.mgmt with addr := some addr } else s
def execSetdasa (sa addr : Nat) (s : State) : Out := runIf (decide (sa < 128) && decide (addr < 128)) s (effSetdasa sa addr s)

/-! ## Test access -/

/-- Number of a device of the chain. -/
def tapIx : TapDev → Nat
  | .hub h => h
  | .die n => 4 + n

/-- The device is on the chain: powered, and not known to be absent. -/
def State.onChain (s : State) (d : TapDev) : Bool :=
  s.rst.vaux && (s.f .ID_PRESENT_HUBS == 0 || match d with
    | .hub h => s.hubPresent h
    | .die n => s.diePresent n)

/-- The identification code of a device. -/
def State.idcode (s : State) (d : TapDev) : Nat :=
  let (step, part) := match d with
    | .hub h => (s.fuse.hubStep.getD h 0, 0x9B04)
    | .die n => (s.fuse.dieStep.getD n 0, 0x9C16)
  step % 16 * 2 ^ 28 + part * 2 ^ 12 + 0x5A3 * 2 + 1

/-- An instruction selected in a device, with what the selected register captures. -/
def State.tapIr (s : State) (d : TapDev) (i captured : Nat) : State :=
  s.setMgmt { s.mgmt with ir := s.mgmt.ir.fput (tapIx d) i 1, shifted := s.mgmt.shifted.fput (tapIx d) captured 0 }

/-- Boundary-scan cells of a device: as many as were last preloaded. -/
def State.cells (s : State) (d : TapDev) : List Bool := s.mgmt.boundary.fget (tapIx d) []

/-- What the boundary-scan register captures: a free value for each cell. -/
def State.sample (s : State) (d : TapDev) : Nat × State :=
  (maskOf ((List.range (s.cells d).length).filter fun i => Config.pinSample s.free i), { s with free := s.free + 1 })

/-- The instruction of a device: BYPASS by default is not selected at power-on, IDCODE is (IEEE 1149.1). -/
def State.irOf (s : State) (d : TapDev) : Nat := s.mgmt.ir.fget (tapIx d) 1

/-- The levels that boundary scan drives on the pins of a device; `none` while the device drives them itself. -/
def State.pinsDriven (s : State) (d : TapDev) : Option (List Bool) :=
  if s.f .RST_STATUS_PHASE < 2 && (s.irOf d == 3 || s.irOf d == 4) then some (s.cells d) else none

def effBypass (d : TapDev) (s : State) : State := if s.onChain d then s.tapIr d 0 0 else s
def execBypass (d : TapDev) (s : State) : Out := runIf d.ok s (effBypass d s)

def effIdcode (d : TapDev) (s : State) : State := if s.onChain d then s.tapIr d 1 (s.idcode d) else s
def execIdcode (d : TapDev) (s : State) : Out := runIf d.ok s (effIdcode d s)

def effSamplePreload (d : TapDev) (l : Option (List Bool)) (s : State) : State :=
  if !s.onChain d then s
  else
    let s := match l with
      | some b => s.setMgmt { s.mgmt with boundary := s.mgmt.boundary.fput (tapIx d) b [] }
      | none => s
    let (v, s) := s.sample d
    s.tapIr d 2 v
def execSamplePreload (d : TapDev) (l : Option (List Bool)) (s : State) : Out := runIf d.ok s (effSamplePreload d l s)

/-- Pins are taken in phases AUX and COOL only; in any other phase the instruction acts as BYPASS. -/
def effExtest (d : TapDev) (s : State) : State :=
  if !s.onChain d then s
  else if s.f .RST_STATUS_PHASE < 2 then
    let (v, s) := s.sample d
    s.tapIr d 3 v
  else s.tapIr d 0 0
def execExtest (d : TapDev) (s : State) : Out := runIf d.ok s (effExtest d s)

def effClamp (d : TapDev) (s : State) : State :=
  if !s.onChain d then s else if s.f .RST_STATUS_PHASE < 2 then s.tapIr d 4 0 else s.tapIr d 0 0
def execClamp (d : TapDev) (s : State) : Out := runIf d.ok s (effClamp d s)

end Sys2Proof.Machine
end

