-- ==== Sys2Proof/Machine/Dispatch.lean ====
section
/-!
DEFINITION. One arm for each command: a direct call of its meaning.
-/

namespace Sys2Proof.Machine

open Sys2Proof

def exec (i : Instr) (s : State) : Host.Outcome State Fault Refusal :=
  match i with
  | .registerWrite a0 a1 a2 a3 => Sys2Proof.Machine.execRegisterWrite a0 a1 a2 a3 s
  | .ringEnable a0 a1 a2 => Sys2Proof.Machine.execRingEnable a0 a1 a2 s
  | .ringDisable a0 a1 a2 => Sys2Proof.Machine.execRingDisable a0 a1 a2 s
  | .ringResume a0 a1 a2 => Sys2Proof.Machine.execRingResume a0 a1 a2 s
  | .ringDiscard a0 a1 a2 => Sys2Proof.Machine.execRingDiscard a0 a1 a2 s
  | .dealerRoleSet a0 a1 => Sys2Proof.Machine.execDealerRoleSet a0 a1 s
  | .dealerRoleClear a0 a1 => Sys2Proof.Machine.execDealerRoleClear a0 a1 s
  | .timeDealerSet a0 a1 => Sys2Proof.Machine.execTimeDealerSet a0 a1 s
  | .clrEnable a0 a1 a2 => Sys2Proof.Machine.execClrEnable a0 a1 a2 s
  | .clrDisable a0 a1 a2 => Sys2Proof.Machine.execClrDisable a0 a1 a2 s
  | .memPmapWrite a0 a1 a2 => Sys2Proof.Machine.execMemPmapWrite a0 a1 a2 s
  | .memRetrain a0 a1 a2 => Sys2Proof.Machine.execMemRetrain a0 a1 a2 s
  | .memPeakClr a0 a1 a2 => Sys2Proof.Machine.execMemPeakClr a0 a1 a2 s
  | .faultQueueEnable a0 a1 a2 => Sys2Proof.Machine.execFaultQueueEnable a0 a1 a2 s
  | .svcQueueEnable a0 a1 a2 => Sys2Proof.Machine.execSvcQueueEnable a0 a1 a2 s
  | .svcReplyRetry a0 a1 a2 => Sys2Proof.Machine.execSvcReplyRetry a0 a1 a2 s
  | .svcReplyFault a0 a1 a2 => Sys2Proof.Machine.execSvcReplyFault a0 a1 a2 s
  | .svcConsWrite a0 a1 a2 => Sys2Proof.Machine.execSvcConsWrite a0 a1 a2 s
  | .peerEnable a0 a1 a2 a3 => Sys2Proof.Machine.execPeerEnable a0 a1 a2 a3 s
  | .peerDisable a0 a1 a2 a3 => Sys2Proof.Machine.execPeerDisable a0 a1 a2 a3 s
  | .chkClear a0 a1 a2 a3 => Sys2Proof.Machine.execChkClear a0 a1 a2 a3 s
  | .coroxRetrain a0 a1 a2 => Sys2Proof.Machine.execCoroxRetrain a0 a1 a2 s
  | .coroxDisableSet a0 a1 a2 => Sys2Proof.Machine.execCoroxDisableSet a0 a1 a2 s
  | .coroxDisableClear a0 a1 a2 => Sys2Proof.Machine.execCoroxDisableClear a0 a1 a2 s
  | .tlsNodeWrite a0 a1 => Sys2Proof.Machine.execTlsNodeWrite a0 a1 s
  | .tilusPortEnable a0 a1 a2 => Sys2Proof.Machine.execTilusPortEnable a0 a1 a2 s
  | .napEnter a0 a1 a2 => Sys2Proof.Machine.execNapEnter a0 a1 a2 s
  | .napExit a0 a1 a2 => Sys2Proof.Machine.execNapExit a0 a1 a2 s
  | .nop a0 a1 => Sys2Proof.Machine.execNop a0 a1 s
  | .fence a0 a1 => Sys2Proof.Machine.execFence a0 a1 s
  | .signal a0 a1 => Sys2Proof.Machine.execSignal a0 a1 s
  | .waitFlag a0 a1 => Sys2Proof.Machine.execWaitFlag a0 a1 s
  | .waitTime a0 a1 => Sys2Proof.Machine.execWaitTime a0 a1 s
  | .launch a0 a1 => Sys2Proof.Machine.execLaunch a0 a1 s
  | .launchAt a0 a1 => Sys2Proof.Machine.execLaunchAt a0 a1 s
  | .copy a0 a1 => Sys2Proof.Machine.execCopy a0 a1 s
  | .copyInline a0 a1 => Sys2Proof.Machine.execCopyInline a0 a1 s
  | .fill a0 a1 => Sys2Proof.Machine.execFill a0 a1 s
  | .copyStrided a0 a1 => Sys2Proof.Machine.execCopyStrided a0 a1 s
  | .caskAlloc a0 a1 => Sys2Proof.Machine.execCaskAlloc a0 a1 s
  | .caskRack a0 a1 => Sys2Proof.Machine.execCaskRack a0 a1 s
  | .caskFree a0 a1 => Sys2Proof.Machine.execCaskFree a0 a1 s
  | .caskMove a0 a1 => Sys2Proof.Machine.execCaskMove a0 a1 s
  | .tap a0 a1 => Sys2Proof.Machine.execTap a0 a1 s
  | .xlatePrime a0 a1 => Sys2Proof.Machine.execXlatePrime a0 a1 s
  | .xlateInval a0 a1 => Sys2Proof.Machine.execXlateInval a0 a1 s
  | .windowSet a0 a1 => Sys2Proof.Machine.execWindowSet a0 a1 s
  | .checkBind a0 a1 => Sys2Proof.Machine.execCheckBind a0 a1 s
  | .counterSet a0 a1 => Sys2Proof.Machine.execCounterSet a0 a1 s
  | .counterSnap a0 a1 => Sys2Proof.Machine.execCounterSnap a0 a1 s
  | .dealSet a0 a1 => Sys2Proof.Machine.execDealSet a0 a1 s
  | .slotReserve a0 a1 => Sys2Proof.Machine.execSlotReserve a0 a1 s
  | .tableJoin a0 a1 => Sys2Proof.Machine.execTableJoin a0 a1 s
  | .modeSet a0 a1 => Sys2Proof.Machine.execModeSet a0 a1 s
  | .pwrLimit a0 a1 => Sys2Proof.Machine.execPwrLimit a0 a1 s
  | .partitionSet a0 a1 => Sys2Proof.Machine.execPartitionSet a0 a1 s
  | .keyInstall a0 a1 => Sys2Proof.Machine.execKeyInstall a0 a1 s
  | .keyRetire a0 a1 => Sys2Proof.Machine.execKeyRetire a0 a1 s
  | .domainReset a0 a1 => Sys2Proof.Machine.execDomainReset a0 a1 s
  | .firewallSet a0 a1 => Sys2Proof.Machine.execFirewallSet a0 a1 s
  | .guestAdmit a0 a1 => Sys2Proof.Machine.execGuestAdmit a0 a1 s
  | .attest a0 a1 => Sys2Proof.Machine.execAttest a0 a1 s
  | .bootRelease a0 a1 => Sys2Proof.Machine.execBootRelease a0 a1 s
  | .ringScan a0 a1 => Sys2Proof.Machine.execRingScan a0 a1 s
  | .producerRead a0 a1 => Sys2Proof.Machine.execProducerRead a0 a1 s
  | .packetFetch a0 a1 => Sys2Proof.Machine.execPacketFetch a0 a1 s
  | .tallyAck a0 a1 a2 => Sys2Proof.Machine.execTallyAck a0 a1 a2 s
  | .commandFinish a0 a1 a2 => Sys2Proof.Machine.execCommandFinish a0 a1 a2 s
  | .recordDeliver a0 a1 => Sys2Proof.Machine.execRecordDeliver a0 a1 s
  | .waitFlagPoll a0 a1 a2 => Sys2Proof.Machine.execWaitFlagPoll a0 a1 a2 s
  | .waitFlagTimeout a0 a1 a2 => Sys2Proof.Machine.execWaitFlagTimeout a0 a1 a2 s
  | .waitTimeResume a0 a1 a2 => Sys2Proof.Machine.execWaitTimeResume a0 a1 a2 s
  | .scalarArithmetic a0 a1 a2 => Sys2Proof.Machine.execScalarArithmetic a0 a1 a2 s
  | .branch a0 a1 => Sys2Proof.Machine.execBranch a0 a1 s
  | .jumpIndirect a0 a1 => Sys2Proof.Machine.execJumpIndirect a0 a1 s
  | .endInstr a0 a1 => Sys2Proof.Machine.execEndInstr a0 a1 s
  | .vectorInteger a0 a1 a2 => Sys2Proof.Machine.execVectorInteger a0 a1 a2 s
  | .vectorFloating a0 a1 a2 => Sys2Proof.Machine.execVectorFloating a0 a1 a2 s
  | .specialFunction a0 a1 a2 => Sys2Proof.Machine.execSpecialFunction a0 a1 a2 s
  | .cvt a0 a1 a2 => Sys2Proof.Machine.execCvt a0 a1 a2 s
  | .shfl a0 a1 a2 => Sys2Proof.Machine.execShfl a0 a1 a2 s
  | .vote a0 a1 a2 => Sys2Proof.Machine.execVote a0 a1 a2 s
  | .ld a0 a1 a2 => Sys2Proof.Machine.execLd a0 a1 a2 s
  | .st a0 a1 a2 => Sys2Proof.Machine.execSt a0 a1 a2 s
  | .lds a0 a1 a2 => Sys2Proof.Machine.execLds a0 a1 a2 s
  | .sts a0 a1 a2 => Sys2Proof.Machine.execSts a0 a1 a2 s
  | .atom a0 a1 a2 a3 => Sys2Proof.Machine.execAtom a0 a1 a2 a3 s
  | .atoms a0 a1 a2 a3 => Sys2Proof.Machine.execAtoms a0 a1 a2 a3 s
  | .mma a0 a1 => Sys2Proof.Machine.execMma a0 a1 s
  | .mld a0 a1 => Sys2Proof.Machine.execMld a0 a1 s
  | .mst a0 a1 => Sys2Proof.Machine.execMst a0 a1 s
  | .bar a0 a1 => Sys2Proof.Machine.execBar a0 a1 s
  | .barRelease a0 a1 => Sys2Proof.Machine.execBarRelease a0 a1 s
  | .membar a0 a1 => Sys2Proof.Machine.execMembar a0 a1 s
  | .trap a0 a1 => Sys2Proof.Machine.execTrap a0 a1 s
  | .timerd a0 a1 => Sys2Proof.Machine.execTimerd a0 a1 s
  | .laneid a0 a1 => Sys2Proof.Machine.execLaneid a0 a1 s
  | .unitid a0 a1 => Sys2Proof.Machine.execUnitid a0 a1 s
  | .counterRead a0 a1 => Sys2Proof.Machine.execCounterRead a0 a1 s
  | .sectorDelivery a0 a1 a2 => Sys2Proof.Machine.execSectorDelivery a0 a1 a2 s
  | .forcedYield a0 => Sys2Proof.Machine.execForcedYield a0 s
  | .stalemate a0 => Sys2Proof.Machine.execStalemate a0 s
  | .kernelStart a0 a1 => Sys2Proof.Machine.execKernelStart a0 a1 s
  | .teamDispatch a0 a1 => Sys2Proof.Machine.execTeamDispatch a0 a1 s
  | .kernelEnd a0 a1 => Sys2Proof.Machine.execKernelEnd a0 a1 s
  | .kernelFault a0 a1 => Sys2Proof.Machine.execKernelFault a0 a1 s
  | .kernelTimeLimit a0 a1 => Sys2Proof.Machine.execKernelTimeLimit a0 a1 s
  | .launchAtRelease a0 a1 a2 => Sys2Proof.Machine.execLaunchAtRelease a0 a1 a2 s
  | .epochApply a0 a1 => Sys2Proof.Machine.execEpochApply a0 a1 s
  | .beaconSend a0 a1 => Sys2Proof.Machine.execBeaconSend a0 a1 s
  | .beaconReceive a0 a1 a2 => Sys2Proof.Machine.execBeaconReceive a0 a1 a2 s
  | .beaconTimeout a0 a1 => Sys2Proof.Machine.execBeaconTimeout a0 a1 s
  | .holdoverExpiry a0 => Sys2Proof.Machine.execHoldoverExpiry a0 s
  | .tableCtl a0 a1 a2 a3 a4 => Sys2Proof.Machine.execTableCtl a0 a1 a2 a3 a4 s
  | .tableJoinDeadline a0 a1 a2 => Sys2Proof.Machine.execTableJoinDeadline a0 a1 a2 s
  | .stepEvaluate a0 a1 a2 => Sys2Proof.Machine.execStepEvaluate a0 a1 a2 s
  | .readyReread a0 a1 a2 => Sys2Proof.Machine.execReadyReread a0 a1 a2 s
  | .marker a0 a1 a2 a3 a4 => Sys2Proof.Machine.execMarker a0 a1 a2 a3 a4 s
  | .stepWaitLimit a0 a1 a2 => Sys2Proof.Machine.execStepWaitLimit a0 a1 a2 s
  | .record a0 a1 a2 a3 => Sys2Proof.Machine.execRecord a0 a1 a2 a3 s
  | .caskTake a0 a1 => Sys2Proof.Machine.execCaskTake a0 a1 s
  | .pinsZero a0 a1 => Sys2Proof.Machine.execPinsZero a0 a1 s
  | .clrFormatDone a0 a1 => Sys2Proof.Machine.execClrFormatDone a0 a1 s
  | .clrRegionDrop a0 => Sys2Proof.Machine.execClrRegionDrop a0 s
  | .tapResolve a0 a1 => Sys2Proof.Machine.execTapResolve a0 a1 s
  | .tapPassDispatch a0 a1 a2 => Sys2Proof.Machine.execTapPassDispatch a0 a1 a2 s
  | .tapPassStart a0 => Sys2Proof.Machine.execTapPassStart a0 s
  | .tapPassEnd a0 => Sys2Proof.Machine.execTapPassEnd a0 s
  | .bulkRead a0 a1 a2 => Sys2Proof.Machine.execBulkRead a0 a1 a2 s
  | .bulkWrite a0 a1 a2 a3 => Sys2Proof.Machine.execBulkWrite a0 a1 a2 a3 s
  | .narrowRead a0 a1 a2 a3 => Sys2Proof.Machine.execNarrowRead a0 a1 a2 a3 s
  | .narrowWrite a0 a1 a2 a3 => Sys2Proof.Machine.execNarrowWrite a0 a1 a2 a3 s
  | .scrubRead a0 a1 => Sys2Proof.Machine.execScrubRead a0 a1 s
  | .refresh a0 a1 a2 a3 => Sys2Proof.Machine.execRefresh a0 a1 a2 a3 s
  | .stackTempSample a0 a1 a2 a3 => Sys2Proof.Machine.execStackTempSample a0 a1 a2 a3 s
  | .memLaneStuck a0 a1 a2 => Sys2Proof.Machine.execMemLaneStuck a0 a1 a2 s
  | .memRetrainWindow a0 a1 => Sys2Proof.Machine.execMemRetrainWindow a0 a1 s
  | .memWindowEnd a0 a1 => Sys2Proof.Machine.execMemWindowEnd a0 a1 s
  | .readShared a0 a1 => Sys2Proof.Machine.execReadShared a0 a1 s
  | .readOwn a0 a1 a2 => Sys2Proof.Machine.execReadOwn a0 a1 a2 s
  | .upgrade a0 a1 => Sys2Proof.Machine.execUpgrade a0 a1 s
  | .noAllocRead a0 a1 => Sys2Proof.Machine.execNoAllocRead a0 a1 s
  | .writeInv a0 a1 a2 a3 => Sys2Proof.Machine.execWriteInv a0 a1 a2 a3 s
  | .atomic a0 a1 a2 => Sys2Proof.Machine.execAtomic a0 a1 a2 s
  | .writeBack a0 a1 => Sys2Proof.Machine.execWriteBack a0 a1 s
  | .evictClean a0 a1 => Sys2Proof.Machine.execEvictClean a0 a1 s
  | .fwdShared a0 a1 a2 => Sys2Proof.Machine.execFwdShared a0 a1 a2 s
  | .fwdOwn a0 a1 a2 => Sys2Proof.Machine.execFwdOwn a0 a1 a2 s
  | .fwdSnoop a0 a1 a2 => Sys2Proof.Machine.execFwdSnoop a0 a1 a2 s
  | .inv a0 a1 => Sys2Proof.Machine.execInv a0 a1 s
  | .recall a0 a1 => Sys2Proof.Machine.execRecall a0 a1 s
  | .data a0 a1 a2 a3 => Sys2Proof.Machine.execData a0 a1 a2 a3 s
  | .invAck a0 a1 => Sys2Proof.Machine.execInvAck a0 a1 s
  | .wbAck a0 a1 a2 => Sys2Proof.Machine.execWbAck a0 a1 a2 s
  | .done a0 a1 => Sys2Proof.Machine.execDone a0 a1 s
  | .nak a0 a1 => Sys2Proof.Machine.execNak a0 a1 s
  | .nakRetry a0 a1 a2 => Sys2Proof.Machine.execNakRetry a0 a1 a2 s
  | .translationWalk a0 a1 a2 a3 a4 => Sys2Proof.Machine.execTranslationWalk a0 a1 a2 a3 a4 s
  | .svcTimeout a0 a1 a2 => Sys2Proof.Machine.execSvcTimeout a0 a1 a2 s
  | .faultWaitExpiry a0 a1 a2 => Sys2Proof.Machine.execFaultWaitExpiry a0 a1 a2 s
  | .translationInv a0 a1 a2 => Sys2Proof.Machine.execTranslationInv a0 a1 a2 s
  | .translationAck a0 a1 => Sys2Proof.Machine.execTranslationAck a0 a1 s
  | .faultQueuePoll a0 a1 => Sys2Proof.Machine.execFaultQueuePoll a0 a1 s
  | .wRead a0 a1 => Sys2Proof.Machine.execWRead a0 a1 s
  | .wWrite a0 a1 => Sys2Proof.Machine.execWWrite a0 a1 s
  | .wAtomic a0 a1 => Sys2Proof.Machine.execWAtomic a0 a1 s
  | .wData a0 a1 => Sys2Proof.Machine.execWData a0 a1 s
  | .wDone a0 a1 => Sys2Proof.Machine.execWDone a0 a1 s
  | .wDeny a0 a1 => Sys2Proof.Machine.execWDeny a0 a1 s
  | .routeFail a0 a1 => Sys2Proof.Machine.execRouteFail a0 a1 s
  | .remoteTimeout a0 a1 a2 => Sys2Proof.Machine.execRemoteTimeout a0 a1 a2 s
  | .inboundRead a0 a1 a2 a3 a4 => Sys2Proof.Machine.execInboundRead a0 a1 a2 a3 a4 s
  | .inboundWrite a0 a1 a2 a3 a4 a5 => Sys2Proof.Machine.execInboundWrite a0 a1 a2 a3 a4 a5 s
  | .configRequest a0 => Sys2Proof.Machine.execConfigRequest a0 s
  | .pcieLinkDown a0 => Sys2Proof.Machine.execPcieLinkDown a0 s
  | .pcieHotReset a0 => Sys2Proof.Machine.execPcieHotReset a0 s
  | .pcieFlr a0 => Sys2Proof.Machine.execPcieFlr a0 s
  | .busMasterEnableCleared a0 => Sys2Proof.Machine.execBusMasterEnableCleared a0 s
  | .busMasterEnableSet a0 => Sys2Proof.Machine.execBusMasterEnableSet a0 s
  | .pcieRetrain a0 => Sys2Proof.Machine.execPcieRetrain a0 s
  | .perstDeassert a0 => Sys2Proof.Machine.execPerstDeassert a0 s
  | .pcieCompletion a0 a1 a2 a3 => Sys2Proof.Machine.execPcieCompletion a0 a1 a2 a3 s
  | .completionTimeout a0 a1 a2 a3 => Sys2Proof.Machine.execCompletionTimeout a0 a1 a2 a3 s
  | .completionUr a0 a1 a2 => Sys2Proof.Machine.execCompletionUr a0 a1 a2 s
  | .completionCa a0 a1 a2 => Sys2Proof.Machine.execCompletionCa a0 a1 a2 s
  | .poisonedCompletion a0 a1 a2 => Sys2Proof.Machine.execPoisonedCompletion a0 a1 a2 s
  | .peerVerifyDone a0 a1 a2 a3 => Sys2Proof.Machine.execPeerVerifyDone a0 a1 a2 a3 s
  | .peerVerifyTimeout a0 a1 a2 => Sys2Proof.Machine.execPeerVerifyTimeout a0 a1 a2 s
  | .copyEngineStart a0 => Sys2Proof.Machine.execCopyEngineStart a0 s
  | .copySpan a0 => Sys2Proof.Machine.execCopySpan a0 s
  | .checkMessage a0 a1 a2 a3 a4 => Sys2Proof.Machine.execCheckMessage a0 a1 a2 a3 a4 s
  | .flit a0 a1 => Sys2Proof.Machine.execFlit a0 a1 s
  | .coroxForcedWindow a0 => Sys2Proof.Machine.execCoroxForcedWindow a0 s
  | .coroxModuleFail a0 a1 => Sys2Proof.Machine.execCoroxModuleFail a0 a1 s
  | .transactionMemoryExpiry a0 => Sys2Proof.Machine.execTransactionMemoryExpiry a0 s
  | .coroxLaneStuck a0 a1 => Sys2Proof.Machine.execCoroxLaneStuck a0 a1 s
  | .coroxWindow a0 a1 => Sys2Proof.Machine.execCoroxWindow a0 a1 s
  | .coroxWindowEnd a0 a1 => Sys2Proof.Machine.execCoroxWindowEnd a0 a1 s
  | .gRead a0 a1 => Sys2Proof.Machine.execGRead a0 a1 s
  | .gWrite a0 a1 => Sys2Proof.Machine.execGWrite a0 a1 s
  | .gAtomic a0 a1 => Sys2Proof.Machine.execGAtomic a0 a1 s
  | .guestTrainRetry a0 a1 a2 => Sys2Proof.Machine.execGuestTrainRetry a0 a1 a2 s
  | .guestIdentity a0 a1 a2 => Sys2Proof.Machine.execGuestIdentity a0 a1 a2 s
  | .guestLinkDown a0 => Sys2Proof.Machine.execGuestLinkDown a0 s
  | .guestExpelDone a0 => Sys2Proof.Machine.execGuestExpelDone a0 s
  | .tilusFrame a0 a1 => Sys2Proof.Machine.execTilusFrame a0 a1 s
  | .tilusTransit a0 a1 => Sys2Proof.Machine.execTilusTransit a0 a1 s
  | .tilusRetrain a0 => Sys2Proof.Machine.execTilusRetrain a0 s
  | .tilusRetrainEnd a0 a1 => Sys2Proof.Machine.execTilusRetrainEnd a0 a1 s
  | .tilusRetrainTimeout a0 a1 => Sys2Proof.Machine.execTilusRetrainTimeout a0 a1 s
  | .tilusPortTrain a0 a1 a2 => Sys2Proof.Machine.execTilusPortTrain a0 a1 a2 s
  | .tilusPortLost a0 a1 => Sys2Proof.Machine.execTilusPortLost a0 a1 s
  | .tilusPortFail a0 => Sys2Proof.Machine.execTilusPortFail a0 s
  | .reservedSlotOpen a0 a1 a2 => Sys2Proof.Machine.execReservedSlotOpen a0 a1 a2 s
  | .reservedSlotClose a0 a1 a2 => Sys2Proof.Machine.execReservedSlotClose a0 a1 a2 s
  | .prioInterval a0 a1 => Sys2Proof.Machine.execPrioInterval a0 a1 s
  | .powerWindow a0 => Sys2Proof.Machine.execPowerWindow a0 s
  | .regulatorAlertAssert a0 a1 => Sys2Proof.Machine.execRegulatorAlertAssert a0 a1 s
  | .regulatorAlertRelease a0 => Sys2Proof.Machine.execRegulatorAlertRelease a0 s
  | .alertHoldExpiry a0 a1 => Sys2Proof.Machine.execAlertHoldExpiry a0 a1 s
  | .droopDetect a0 => Sys2Proof.Machine.execDroopDetect a0 s
  | .droopClear a0 => Sys2Proof.Machine.execDroopClear a0 s
  | .stretchEnd a0 a1 => Sys2Proof.Machine.execStretchEnd a0 a1 s
  | .stepHoldExpiry a0 a1 => Sys2Proof.Machine.execStepHoldExpiry a0 a1 s
  | .pstateStep a0 a1 => Sys2Proof.Machine.execPstateStep a0 a1 s
  | .dieTempSample a0 a1 a2 => Sys2Proof.Machine.execDieTempSample a0 a1 a2 s
  | .dieIdleEntry a0 => Sys2Proof.Machine.execDieIdleEntry a0 s
  | .napEntryDone a0 a1 => Sys2Proof.Machine.execNapEntryDone a0 a1 s
  | .napExitDone a0 a1 => Sys2Proof.Machine.execNapExitDone a0 a1 s
  | .napStackIdle a0 a1 => Sys2Proof.Machine.execNapStackIdle a0 a1 s
  | .coolOkDeassert => Sys2Proof.Machine.execCoolOkDeassert s
  | .coolOkAssert => Sys2Proof.Machine.execCoolOkAssert s
  | .coolStopTimeout a0 => Sys2Proof.Machine.execCoolStopTimeout a0 s
  | .powerGood a0 => Sys2Proof.Machine.execPowerGood a0 s
  | .coolQualified a0 => Sys2Proof.Machine.execCoolQualified a0 s
  | .hubTestDone a0 a1 a2 => Sys2Proof.Machine.execHubTestDone a0 a1 a2 s
  | .trainDone a0 a1 a2 a3 a4 => Sys2Proof.Machine.execTrainDone a0 a1 a2 a3 a4 s
  | .clearDone a0 => Sys2Proof.Machine.execClearDone a0 s
  | .mresetNAssert a0 => Sys2Proof.Machine.execMresetNAssert a0 s
  | .railFault a0 a1 => Sys2Proof.Machine.execRailFault a0 a1 s
  | .refclkLoss a0 => Sys2Proof.Machine.execRefclkLoss a0 s
  | .refclkReturn a0 => Sys2Proof.Machine.execRefclkReturn a0 s
  | .hubResetDone a0 a1 a2 => Sys2Proof.Machine.execHubResetDone a0 a1 a2 s
  | .heartbeatSend a0 => Sys2Proof.Machine.execHeartbeatSend a0 s
  | .heartbeatTimeout a0 a1 => Sys2Proof.Machine.execHeartbeatTimeout a0 a1 s
  | .hubFail a0 => Sys2Proof.Machine.execHubFail a0 s
  | .dieFail a0 => Sys2Proof.Machine.execDieFail a0 s
  | .stackFail a0 => Sys2Proof.Machine.execStackFail a0 s
  | .tallyCopyDone a0 a1 => Sys2Proof.Machine.execTallyCopyDone a0 a1 s
  | .keeperCommitDone a0 => Sys2Proof.Machine.execKeeperCommitDone a0 s
  | .signatureDone a0 a1 => Sys2Proof.Machine.execSignatureDone a0 a1 s
  | .counterAction a0 a1 a2 => Sys2Proof.Machine.execCounterAction a0 a1 a2 s
  | .counterLatch a0 a1 a2 => Sys2Proof.Machine.execCounterLatch a0 a1 a2 s
  | .counterWrap a0 a1 => Sys2Proof.Machine.execCounterWrap a0 a1 s
  | .read64 a0 => Sys2Proof.Machine.execRead64 a0 s
  | .moduleReset => Sys2Proof.Machine.execModuleReset s
  | .getstatus => Sys2Proof.Machine.execGetstatus s
  | .bypass a0 => Sys2Proof.Machine.execBypass a0 s
  | .idcode a0 => Sys2Proof.Machine.execIdcode a0 s
  | .samplePreload a0 a1 => Sys2Proof.Machine.execSamplePreload a0 a1 s
  | .extest a0 => Sys2Proof.Machine.execExtest a0 s
  | .clamp a0 => Sys2Proof.Machine.execClamp a0 s
  | .auxiliaryPowerApplied => Sys2Proof.Machine.execAuxiliaryPowerApplied s
  | .vauxLoss => Sys2Proof.Machine.execVauxLoss s
  | .nodeCoreAccess a0 a1 => Sys2Proof.Machine.execNodeCoreAccess a0 a1 s
  | .pcieLinkUp a0 a1 a2 a3 => Sys2Proof.Machine.execPcieLinkUp a0 a1 a2 a3 s
  | .tilusPortDisable a0 a1 a2 => Sys2Proof.Machine.execTilusPortDisable a0 a1 a2 s
  | .conflictExpiry a0 => Sys2Proof.Machine.execConflictExpiry a0 s
  | .tableAckTimeout a0 a1 a2 a3 => Sys2Proof.Machine.execTableAckTimeout a0 a1 a2 a3 s
  | .entdaa a0 => Sys2Proof.Machine.execEntdaa a0 s
  | .setdasa a0 a1 => Sys2Proof.Machine.execSetdasa a0 a1 s
  | .reservedOpcode a0 a1 => Sys2Proof.Machine.execReservedOpcode a0 a1 s
  | .reservedClass a0 a1 => Sys2Proof.Machine.execReservedClass a0 a1 s

end Sys2Proof.Machine
end

