-- ==== Sys2Proof/Machine/Step.lean ====
section
/-!
DEFINITION. One step of the block: the command at the front of the queue acts, with the queue's rest behind it; with an empty queue one
nanosecond passes.
-/

namespace Sys2Proof.Machine

open Sys2Proof

/-- The machine with the front command taken off its queue. -/
def State.popQueue (s : State) (rest : List Instr) : State := { s with pending := rest }

def step (s : State) : Host.Outcome State Fault Refusal :=
  match s.pending with
  | [] => .next (s.elapse 1)
  | c :: rest => exec c (s.popQueue rest)

/-- The command that a table word spells, put at the front of the queue; no word spells one. -/
def State.withFetchWord (s : State) (nbits w : Nat) : State :=
  match decodeTableWord nbits w with
  | some c => { s with pending := c :: s.pending }
  | none => s

end Sys2Proof.Machine
end

