-- ==== Sys2Proof/Laws/FMap.lean ====
section
/-!
SUPPORT. Laws of the sparse stores: what is read after a write, and that every store operation keeps the canonical form.
-/

namespace Sys2Proof.Machine

variable {α : Type}

@[simp] theorem FMap.fget_nil (k : Nat) (d : α) : FMap.fget [] k d = d := rfl

theorem FMap.fget_ins_self (m : FMap α) (k : Nat) (v d : α) : (m.ins k v).fget k d = v := by
  induction m with
  | nil => simp [FMap.ins, FMap.fget]
  | cons e t ih =>
    obtain ⟨k', v'⟩ := e
    simp only [FMap.ins]
    split
    · simp [FMap.fget]
    · split
      · simp [FMap.fget]
      · simp only [FMap.fget, ih]; split <;> simp_all

theorem FMap.fget_ins_ne (m : FMap α) {k j : Nat} (v d : α) (h : j ≠ k) : (m.ins k v).fget j d = m.fget j d := by
  induction m with
  | nil => simp [FMap.ins, FMap.fget, Ne.symm h]
  | cons e t ih =>
    obtain ⟨k', v'⟩ := e
    simp only [FMap.ins]
    split
    · simp [FMap.fget, Ne.symm h]
    · split
      · next hk => subst hk; simp [FMap.fget, Ne.symm h]
      · simp only [FMap.fget, ih]

theorem FMap.fget_filter_self (m : FMap α) (k : Nat) (d : α) : FMap.fget (m.filter fun e => e.1 != k) k d = d := by
  induction m with
  | nil => rfl
  | cons e t ih =>
    by_cases h : e.1 = k <;> simp_all [FMap.fget]

theorem FMap.fget_filter_ne (m : FMap α) {k j : Nat} (d : α) (h : j ≠ k) :
    FMap.fget (m.filter fun e => e.1 != k) j d = m.fget j d := by
  induction m with
  | nil => rfl
  | cons e t ih =>
    by_cases hk : e.1 = k
    · have : e.1 ≠ j := fun he => h (he ▸ hk)
      simp_all [FMap.fget]
    · simp_all [FMap.fget]

/-- A write is read back. -/
@[simp] theorem FMap.fget_fput_self [DecidableEq α] (m : FMap α) (k : Nat) (v d : α) : (m.fput k v d).fget k d = v := by
  unfold FMap.fput
  split
  · next h => rw [FMap.fget_filter_self, h]
  · exact FMap.fget_ins_self m k v d

/-- A write leaves every other key alone. -/
theorem FMap.fget_fput_ne [DecidableEq α] (m : FMap α) {k j : Nat} (v d d' : α) (h : j ≠ k) :
    (m.fput k v d).fget j d' = m.fget j d' := by
  unfold FMap.fput
  split
  · exact FMap.fget_filter_ne m d' h
  · exact FMap.fget_ins_ne m v d' h

/-! ## The canonical form -/

theorem FMap.wfFrom_mono [DecidableEq α] (d : Nat → α) {a b : Nat} (m : FMap α) (h : a ≤ b)
    (w : FMap.wfFrom d b m = true) : FMap.wfFrom d a m = true := by
  cases m with
  | nil => rfl
  | cons e t =>
    simp only [FMap.wfFrom, Bool.and_eq_true, decide_eq_true_eq] at w ⊢
    exact ⟨⟨by omega, w.1.2⟩, w.2⟩

theorem FMap.wfFrom_filter [DecidableEq α] (d : Nat → α) (p : Nat × α → Bool) (m : FMap α) :
    ∀ a, FMap.wfFrom d a m = true → FMap.wfFrom d a (m.filter p) = true := by
  induction m with
  | nil => intro a _; rfl
  | cons e t ih =>
    intro a w
    simp only [FMap.wfFrom, Bool.and_eq_true, decide_eq_true_eq] at w
    cases hp : p e with
    | true =>
      simp only [List.filter_cons, hp, if_true, FMap.wfFrom, Bool.and_eq_true, decide_eq_true_eq]
      exact ⟨w.1, ih _ w.2⟩
    | false =>
      simp only [List.filter_cons, hp]
      exact FMap.wfFrom_mono d _ (by omega) (ih _ w.2)

theorem FMap.wfFrom_ins [DecidableEq α] (d : Nat → α) (m : FMap α) (k : Nat) (v : α) (hv : v ≠ d k) :
    ∀ a, a ≤ k → FMap.wfFrom d a m = true → FMap.wfFrom d a (m.ins k v) = true := by
  induction m with
  | nil => intro a h _; simp [FMap.ins, FMap.wfFrom, h, hv]
  | cons e t ih =>
    obtain ⟨k', v'⟩ := e
    intro a h w
    simp only [FMap.wfFrom, Bool.and_eq_true, decide_eq_true_eq] at w
    simp only [FMap.ins]
    split
    · simp only [FMap.wfFrom, Bool.and_eq_true, decide_eq_true_eq]
      exact ⟨⟨h, hv⟩, ⟨by omega, w.1.2⟩, w.2⟩
    · split
      · next hk =>
        subst hk
        simp only [FMap.wfFrom, Bool.and_eq_true, decide_eq_true_eq]
        exact ⟨⟨h, hv⟩, w.2⟩
      · simp only [FMap.wfFrom, Bool.and_eq_true, decide_eq_true_eq]
        exact ⟨w.1, ih _ (by omega) w.2⟩

/-- A write keeps the canonical form. -/
theorem FMap.wf_fput [DecidableEq α] (d : Nat → α) (m : FMap α) (k : Nat) (v : α) (w : FMap.wf d m = true) :
    FMap.wf d (m.fput k v (d k)) = true := by
  unfold FMap.fput
  split
  · exact FMap.wfFrom_filter d _ m 0 w
  · next h => exact FMap.wfFrom_ins d m k v h 0 (Nat.zero_le k) w

/-- Dropping keys keeps the canonical form. -/
theorem FMap.wf_drop [DecidableEq α] (d : Nat → α) (m : FMap α) (p : Nat → Bool) (w : FMap.wf d m = true) :
    FMap.wf d (m.drop p) = true := FMap.wfFrom_filter d _ m 0 w

end Sys2Proof.Machine
end

