-- ==== Sys2Proof/Laws/State.lean ====
section
/-!
SUPPORT. Laws of State: what each named write leaves alone, and that it is read back. Each setter has one lemma for each field it does not
touch, true by `rfl`, so that no proof unfolds a record update.
-/

namespace Sys2Proof.Machine

open Sys2Proof

/-! ## Register fields -/

theorem Fld.code_inj {x y : Fld} (h : x.code = y.code) : x = y := by
  have := congrArg Fld.ofNat h
  simpa only [Fld.code, Fld.ofNat_ctorIdx] using this

/-- Distinct fields, or distinct instances below 2^20, have distinct keys. -/
theorem Fld.key_ne {x y : Fld} {i j : Nat} (hi : i < 2 ^ 20) (hj : j < 2 ^ 20) (h : x ≠ y ∨ i ≠ j) : x.key i ≠ y.key j := by
  intro e
  unfold Fld.key at e
  have : x.code = y.code := by omega
  rcases h with h | h
  · exact h (Fld.code_inj this)
  · omega

/-- A field reads as the low bits of what was written. -/
@[simp] theorem State.f_setF_same (s : State) (x : Fld) (i v : Nat) : (s.setF x i v).f x i = v % 2 ^ x.info.width :=
  FMap.fget_fput_self _ _ _ _

/-- Writing a field leaves every other field, and every other instance, alone. -/
theorem State.f_setF_ne (s : State) {x y : Fld} {i j : Nat} (v : Nat) (hi : i < 2 ^ 20) (hj : j < 2 ^ 20) (h : y ≠ x ∨ j ≠ i) :
    (s.setF x i v).f y j = s.f y j :=
  FMap.fget_fput_ne _ _ _ _ (Fld.key_ne hj hi h)

/-! ## Setters -/

@[simp] theorem State.setF_pending (s : State) (x : Fld) (i v : Nat) : (s.setF x i v).pending = s.pending := rfl
@[simp] theorem State.setF_fuse (s : State) (x : Fld) (i v : Nat) : (s.setF x i v).fuse = s.fuse := rfl
@[simp] theorem State.setF_mem (s : State) (x : Fld) (i v : Nat) : (s.setF x i v).mem = s.mem := rfl
@[simp] theorem State.setF_hostMem (s : State) (x : Fld) (i v : Nat) : (s.setF x i v).hostMem = s.hostMem := rfl
@[simp] theorem State.setF_rings (s : State) (x : Fld) (i v : Nat) : (s.setF x i v).rings = s.rings := rfl
@[simp] theorem State.setF_time (s : State) (x : Fld) (i v : Nat) : (s.setF x i v).time = s.time := rfl
@[simp] theorem State.setF_rst (s : State) (x : Fld) (i v : Nat) : (s.setF x i v).rst = s.rst := rfl
@[simp] theorem State.setF_free (s : State) (x : Fld) (i v : Nat) : (s.setF x i v).free = s.free := rfl
@[simp] theorem State.setRing_pending (s : State) (i : Nat) (x : Ring) : (s.setRing i x).pending = s.pending := rfl
@[simp] theorem State.setRing_fuse (s : State) (i : Nat) (x : Ring) : (s.setRing i x).fuse = s.fuse := rfl
@[simp] theorem State.setRing_regs (s : State) (i : Nat) (x : Ring) : (s.setRing i x).regs = s.regs := rfl
@[simp] theorem State.setRing_mem (s : State) (i : Nat) (x : Ring) : (s.setRing i x).mem = s.mem := rfl
@[simp] theorem State.setRing_hostMem (s : State) (i : Nat) (x : Ring) : (s.setRing i x).hostMem = s.hostMem := rfl
@[simp] theorem State.setRing_time (s : State) (i : Nat) (x : Ring) : (s.setRing i x).time = s.time := rfl
@[simp] theorem State.setRing_rst (s : State) (i : Nat) (x : Ring) : (s.setRing i x).rst = s.rst := rfl
@[simp] theorem State.setRing_free (s : State) (i : Nat) (x : Ring) : (s.setRing i x).free = s.free := rfl
@[simp] theorem State.setStack_pending (s : State) (i : Nat) (x : Stack) : (s.setStack i x).pending = s.pending := rfl
@[simp] theorem State.setStack_fuse (s : State) (i : Nat) (x : Stack) : (s.setStack i x).fuse = s.fuse := rfl
@[simp] theorem State.setStack_regs (s : State) (i : Nat) (x : Stack) : (s.setStack i x).regs = s.regs := rfl
@[simp] theorem State.setStack_mem (s : State) (i : Nat) (x : Stack) : (s.setStack i x).mem = s.mem := rfl
@[simp] theorem State.setStack_hostMem (s : State) (i : Nat) (x : Stack) : (s.setStack i x).hostMem = s.hostMem := rfl
@[simp] theorem State.setStack_rings (s : State) (i : Nat) (x : Stack) : (s.setStack i x).rings = s.rings := rfl
@[simp] theorem State.setStack_time (s : State) (i : Nat) (x : Stack) : (s.setStack i x).time = s.time := rfl
@[simp] theorem State.setStack_rst (s : State) (i : Nat) (x : Stack) : (s.setStack i x).rst = s.rst := rfl
@[simp] theorem State.setStack_free (s : State) (i : Nat) (x : Stack) : (s.setStack i x).free = s.free := rfl
@[simp] theorem State.setSched_pending (s : State) (i : Nat) (x : Sched) : (s.setSched i x).pending = s.pending := rfl
@[simp] theorem State.setSched_fuse (s : State) (i : Nat) (x : Sched) : (s.setSched i x).fuse = s.fuse := rfl
@[simp] theorem State.setSched_regs (s : State) (i : Nat) (x : Sched) : (s.setSched i x).regs = s.regs := rfl
@[simp] theorem State.setSched_mem (s : State) (i : Nat) (x : Sched) : (s.setSched i x).mem = s.mem := rfl
@[simp] theorem State.setSched_hostMem (s : State) (i : Nat) (x : Sched) : (s.setSched i x).hostMem = s.hostMem := rfl
@[simp] theorem State.setSched_rings (s : State) (i : Nat) (x : Sched) : (s.setSched i x).rings = s.rings := rfl
@[simp] theorem State.setSched_time (s : State) (i : Nat) (x : Sched) : (s.setSched i x).time = s.time := rfl
@[simp] theorem State.setSched_rst (s : State) (i : Nat) (x : Sched) : (s.setSched i x).rst = s.rst := rfl
@[simp] theorem State.setSched_free (s : State) (i : Nat) (x : Sched) : (s.setSched i x).free = s.free := rfl
@[simp] theorem State.setMode_pending (s : State) (i : Nat) (x : ModeSt) : (s.setMode i x).pending = s.pending := rfl
@[simp] theorem State.setMode_fuse (s : State) (i : Nat) (x : ModeSt) : (s.setMode i x).fuse = s.fuse := rfl
@[simp] theorem State.setMode_regs (s : State) (i : Nat) (x : ModeSt) : (s.setMode i x).regs = s.regs := rfl
@[simp] theorem State.setMode_mem (s : State) (i : Nat) (x : ModeSt) : (s.setMode i x).mem = s.mem := rfl
@[simp] theorem State.setMode_hostMem (s : State) (i : Nat) (x : ModeSt) : (s.setMode i x).hostMem = s.hostMem := rfl
@[simp] theorem State.setMode_rings (s : State) (i : Nat) (x : ModeSt) : (s.setMode i x).rings = s.rings := rfl
@[simp] theorem State.setMode_time (s : State) (i : Nat) (x : ModeSt) : (s.setMode i x).time = s.time := rfl
@[simp] theorem State.setMode_rst (s : State) (i : Nat) (x : ModeSt) : (s.setMode i x).rst = s.rst := rfl
@[simp] theorem State.setMode_free (s : State) (i : Nat) (x : ModeSt) : (s.setMode i x).free = s.free := rfl
@[simp] theorem State.setTable_pending (s : State) (i : Nat) (x : TTable) : (s.setTable i x).pending = s.pending := rfl
@[simp] theorem State.setTable_fuse (s : State) (i : Nat) (x : TTable) : (s.setTable i x).fuse = s.fuse := rfl
@[simp] theorem State.setTable_regs (s : State) (i : Nat) (x : TTable) : (s.setTable i x).regs = s.regs := rfl
@[simp] theorem State.setTable_mem (s : State) (i : Nat) (x : TTable) : (s.setTable i x).mem = s.mem := rfl
@[simp] theorem State.setTable_hostMem (s : State) (i : Nat) (x : TTable) : (s.setTable i x).hostMem = s.hostMem := rfl
@[simp] theorem State.setTable_rings (s : State) (i : Nat) (x : TTable) : (s.setTable i x).rings = s.rings := rfl
@[simp] theorem State.setTable_time (s : State) (i : Nat) (x : TTable) : (s.setTable i x).time = s.time := rfl
@[simp] theorem State.setTable_rst (s : State) (i : Nat) (x : TTable) : (s.setTable i x).rst = s.rst := rfl
@[simp] theorem State.setTable_free (s : State) (i : Nat) (x : TTable) : (s.setTable i x).free = s.free := rfl
@[simp] theorem State.setTport_pending (s : State) (i : Nat) (x : TPort) : (s.setTport i x).pending = s.pending := rfl
@[simp] theorem State.setTport_fuse (s : State) (i : Nat) (x : TPort) : (s.setTport i x).fuse = s.fuse := rfl
@[simp] theorem State.setTport_regs (s : State) (i : Nat) (x : TPort) : (s.setTport i x).regs = s.regs := rfl
@[simp] theorem State.setTport_mem (s : State) (i : Nat) (x : TPort) : (s.setTport i x).mem = s.mem := rfl
@[simp] theorem State.setTport_hostMem (s : State) (i : Nat) (x : TPort) : (s.setTport i x).hostMem = s.hostMem := rfl
@[simp] theorem State.setTport_rings (s : State) (i : Nat) (x : TPort) : (s.setTport i x).rings = s.rings := rfl
@[simp] theorem State.setTport_rst (s : State) (i : Nat) (x : TPort) : (s.setTport i x).rst = s.rst := rfl
@[simp] theorem State.setTport_free (s : State) (i : Nat) (x : TPort) : (s.setTport i x).free = s.free := rfl
@[simp] theorem State.setEngine_pending (s : State) (i : Nat) (x : Engine) : (s.setEngine i x).pending = s.pending := rfl
@[simp] theorem State.setEngine_fuse (s : State) (i : Nat) (x : Engine) : (s.setEngine i x).fuse = s.fuse := rfl
@[simp] theorem State.setEngine_regs (s : State) (i : Nat) (x : Engine) : (s.setEngine i x).regs = s.regs := rfl
@[simp] theorem State.setEngine_mem (s : State) (i : Nat) (x : Engine) : (s.setEngine i x).mem = s.mem := rfl
@[simp] theorem State.setEngine_hostMem (s : State) (i : Nat) (x : Engine) : (s.setEngine i x).hostMem = s.hostMem := rfl
@[simp] theorem State.setEngine_rings (s : State) (i : Nat) (x : Engine) : (s.setEngine i x).rings = s.rings := rfl
@[simp] theorem State.setEngine_time (s : State) (i : Nat) (x : Engine) : (s.setEngine i x).time = s.time := rfl
@[simp] theorem State.setEngine_rst (s : State) (i : Nat) (x : Engine) : (s.setEngine i x).rst = s.rst := rfl
@[simp] theorem State.setEngine_free (s : State) (i : Nat) (x : Engine) : (s.setEngine i x).free = s.free := rfl
@[simp] theorem State.setChk_pending (s : State) (i : Nat) (x : ChkUnit) : (s.setChk i x).pending = s.pending := rfl
@[simp] theorem State.setChk_fuse (s : State) (i : Nat) (x : ChkUnit) : (s.setChk i x).fuse = s.fuse := rfl
@[simp] theorem State.setChk_regs (s : State) (i : Nat) (x : ChkUnit) : (s.setChk i x).regs = s.regs := rfl
@[simp] theorem State.setChk_mem (s : State) (i : Nat) (x : ChkUnit) : (s.setChk i x).mem = s.mem := rfl
@[simp] theorem State.setChk_hostMem (s : State) (i : Nat) (x : ChkUnit) : (s.setChk i x).hostMem = s.hostMem := rfl
@[simp] theorem State.setChk_rings (s : State) (i : Nat) (x : ChkUnit) : (s.setChk i x).rings = s.rings := rfl
@[simp] theorem State.setChk_time (s : State) (i : Nat) (x : ChkUnit) : (s.setChk i x).time = s.time := rfl
@[simp] theorem State.setChk_rst (s : State) (i : Nat) (x : ChkUnit) : (s.setChk i x).rst = s.rst := rfl
@[simp] theorem State.setChk_free (s : State) (i : Nat) (x : ChkUnit) : (s.setChk i x).free = s.free := rfl
@[simp] theorem State.setPort_pending (s : State) (i : Nat) (x : PciPort) : (s.setPort i x).pending = s.pending := rfl
@[simp] theorem State.setPort_fuse (s : State) (i : Nat) (x : PciPort) : (s.setPort i x).fuse = s.fuse := rfl
@[simp] theorem State.setPort_regs (s : State) (i : Nat) (x : PciPort) : (s.setPort i x).regs = s.regs := rfl
@[simp] theorem State.setPort_mem (s : State) (i : Nat) (x : PciPort) : (s.setPort i x).mem = s.mem := rfl
@[simp] theorem State.setPort_hostMem (s : State) (i : Nat) (x : PciPort) : (s.setPort i x).hostMem = s.hostMem := rfl
@[simp] theorem State.setPort_rings (s : State) (i : Nat) (x : PciPort) : (s.setPort i x).rings = s.rings := rfl
@[simp] theorem State.setPort_time (s : State) (i : Nat) (x : PciPort) : (s.setPort i x).time = s.time := rfl
@[simp] theorem State.setPort_rst (s : State) (i : Nat) (x : PciPort) : (s.setPort i x).rst = s.rst := rfl
@[simp] theorem State.setPort_free (s : State) (i : Nat) (x : PciPort) : (s.setPort i x).free = s.free := rfl
@[simp] theorem State.setCel_pending (s : State) (i : Nat) (x : Cellar) : (s.setCel i x).pending = s.pending := rfl
@[simp] theorem State.setCel_fuse (s : State) (i : Nat) (x : Cellar) : (s.setCel i x).fuse = s.fuse := rfl
@[simp] theorem State.setCel_regs (s : State) (i : Nat) (x : Cellar) : (s.setCel i x).regs = s.regs := rfl
@[simp] theorem State.setCel_mem (s : State) (i : Nat) (x : Cellar) : (s.setCel i x).mem = s.mem := rfl
@[simp] theorem State.setCel_hostMem (s : State) (i : Nat) (x : Cellar) : (s.setCel i x).hostMem = s.hostMem := rfl
@[simp] theorem State.setCel_rings (s : State) (i : Nat) (x : Cellar) : (s.setCel i x).rings = s.rings := rfl
@[simp] theorem State.setCel_time (s : State) (i : Nat) (x : Cellar) : (s.setCel i x).time = s.time := rfl
@[simp] theorem State.setCel_rst (s : State) (i : Nat) (x : Cellar) : (s.setCel i x).rst = s.rst := rfl
@[simp] theorem State.setCel_free (s : State) (i : Nat) (x : Cellar) : (s.setCel i x).free = s.free := rfl
@[simp] theorem State.setTapE_pending (s : State) (i : Nat) (x : TapEng) : (s.setTapE i x).pending = s.pending := rfl
@[simp] theorem State.setTapE_fuse (s : State) (i : Nat) (x : TapEng) : (s.setTapE i x).fuse = s.fuse := rfl
@[simp] theorem State.setTapE_regs (s : State) (i : Nat) (x : TapEng) : (s.setTapE i x).regs = s.regs := rfl
@[simp] theorem State.setTapE_mem (s : State) (i : Nat) (x : TapEng) : (s.setTapE i x).mem = s.mem := rfl
@[simp] theorem State.setTapE_hostMem (s : State) (i : Nat) (x : TapEng) : (s.setTapE i x).hostMem = s.hostMem := rfl
@[simp] theorem State.setTapE_rings (s : State) (i : Nat) (x : TapEng) : (s.setTapE i x).rings = s.rings := rfl
@[simp] theorem State.setTapE_time (s : State) (i : Nat) (x : TapEng) : (s.setTapE i x).time = s.time := rfl
@[simp] theorem State.setTapE_rst (s : State) (i : Nat) (x : TapEng) : (s.setTapE i x).rst = s.rst := rfl
@[simp] theorem State.setTapE_free (s : State) (i : Nat) (x : TapEng) : (s.setTapE i x).free = s.free := rfl
@[simp] theorem State.setCrxE_pending (s : State) (i : Nat) (x : CrxEnd) : (s.setCrxE i x).pending = s.pending := rfl
@[simp] theorem State.setCrxE_fuse (s : State) (i : Nat) (x : CrxEnd) : (s.setCrxE i x).fuse = s.fuse := rfl
@[simp] theorem State.setCrxE_regs (s : State) (i : Nat) (x : CrxEnd) : (s.setCrxE i x).regs = s.regs := rfl
@[simp] theorem State.setCrxE_mem (s : State) (i : Nat) (x : CrxEnd) : (s.setCrxE i x).mem = s.mem := rfl
@[simp] theorem State.setCrxE_hostMem (s : State) (i : Nat) (x : CrxEnd) : (s.setCrxE i x).hostMem = s.hostMem := rfl
@[simp] theorem State.setCrxE_rings (s : State) (i : Nat) (x : CrxEnd) : (s.setCrxE i x).rings = s.rings := rfl
@[simp] theorem State.setCrxE_time (s : State) (i : Nat) (x : CrxEnd) : (s.setCrxE i x).time = s.time := rfl
@[simp] theorem State.setCrxE_rst (s : State) (i : Nat) (x : CrxEnd) : (s.setCrxE i x).rst = s.rst := rfl
@[simp] theorem State.setCrxE_free (s : State) (i : Nat) (x : CrxEnd) : (s.setCrxE i x).free = s.free := rfl
@[simp] theorem State.setGuest_pending (s : State) (i : Nat) (x : Guest) : (s.setGuest i x).pending = s.pending := rfl
@[simp] theorem State.setGuest_fuse (s : State) (i : Nat) (x : Guest) : (s.setGuest i x).fuse = s.fuse := rfl
@[simp] theorem State.setGuest_regs (s : State) (i : Nat) (x : Guest) : (s.setGuest i x).regs = s.regs := rfl
@[simp] theorem State.setGuest_mem (s : State) (i : Nat) (x : Guest) : (s.setGuest i x).mem = s.mem := rfl
@[simp] theorem State.setGuest_hostMem (s : State) (i : Nat) (x : Guest) : (s.setGuest i x).hostMem = s.hostMem := rfl
@[simp] theorem State.setGuest_rings (s : State) (i : Nat) (x : Guest) : (s.setGuest i x).rings = s.rings := rfl
@[simp] theorem State.setGuest_time (s : State) (i : Nat) (x : Guest) : (s.setGuest i x).time = s.time := rfl
@[simp] theorem State.setGuest_rst (s : State) (i : Nat) (x : Guest) : (s.setGuest i x).rst = s.rst := rfl
@[simp] theorem State.setGuest_free (s : State) (i : Nat) (x : Guest) : (s.setGuest i x).free = s.free := rfl
@[simp] theorem State.setTls_pending (s : State) (i : Nat) (x : TlsPort) : (s.setTls i x).pending = s.pending := rfl
@[simp] theorem State.setTls_fuse (s : State) (i : Nat) (x : TlsPort) : (s.setTls i x).fuse = s.fuse := rfl
@[simp] theorem State.setTls_regs (s : State) (i : Nat) (x : TlsPort) : (s.setTls i x).regs = s.regs := rfl
@[simp] theorem State.setTls_mem (s : State) (i : Nat) (x : TlsPort) : (s.setTls i x).mem = s.mem := rfl
@[simp] theorem State.setTls_hostMem (s : State) (i : Nat) (x : TlsPort) : (s.setTls i x).hostMem = s.hostMem := rfl
@[simp] theorem State.setTls_rings (s : State) (i : Nat) (x : TlsPort) : (s.setTls i x).rings = s.rings := rfl
@[simp] theorem State.setTls_time (s : State) (i : Nat) (x : TlsPort) : (s.setTls i x).time = s.time := rfl
@[simp] theorem State.setTls_rst (s : State) (i : Nat) (x : TlsPort) : (s.setTls i x).rst = s.rst := rfl
@[simp] theorem State.setTls_free (s : State) (i : Nat) (x : TlsPort) : (s.setTls i x).free = s.free := rfl
@[simp] theorem State.setResv_pending (s : State) (i : Nat) (x : Resv) : (s.setResv i x).pending = s.pending := rfl
@[simp] theorem State.setResv_fuse (s : State) (i : Nat) (x : Resv) : (s.setResv i x).fuse = s.fuse := rfl
@[simp] theorem State.setResv_regs (s : State) (i : Nat) (x : Resv) : (s.setResv i x).regs = s.regs := rfl
@[simp] theorem State.setResv_mem (s : State) (i : Nat) (x : Resv) : (s.setResv i x).mem = s.mem := rfl
@[simp] theorem State.setResv_hostMem (s : State) (i : Nat) (x : Resv) : (s.setResv i x).hostMem = s.hostMem := rfl
@[simp] theorem State.setResv_rings (s : State) (i : Nat) (x : Resv) : (s.setResv i x).rings = s.rings := rfl
@[simp] theorem State.setResv_time (s : State) (i : Nat) (x : Resv) : (s.setResv i x).time = s.time := rfl
@[simp] theorem State.setResv_rst (s : State) (i : Nat) (x : Resv) : (s.setResv i x).rst = s.rst := rfl
@[simp] theorem State.setResv_free (s : State) (i : Nat) (x : Resv) : (s.setResv i x).free = s.free := rfl
@[simp] theorem State.setCore_pending (s : State) (i : Nat) (x : NodeCore) : (s.setCore i x).pending = s.pending := rfl
@[simp] theorem State.setCore_fuse (s : State) (i : Nat) (x : NodeCore) : (s.setCore i x).fuse = s.fuse := rfl
@[simp] theorem State.setCore_regs (s : State) (i : Nat) (x : NodeCore) : (s.setCore i x).regs = s.regs := rfl
@[simp] theorem State.setCore_mem (s : State) (i : Nat) (x : NodeCore) : (s.setCore i x).mem = s.mem := rfl
@[simp] theorem State.setCore_hostMem (s : State) (i : Nat) (x : NodeCore) : (s.setCore i x).hostMem = s.hostMem := rfl
@[simp] theorem State.setCore_rings (s : State) (i : Nat) (x : NodeCore) : (s.setCore i x).rings = s.rings := rfl
@[simp] theorem State.setCore_time (s : State) (i : Nat) (x : NodeCore) : (s.setCore i x).time = s.time := rfl
@[simp] theorem State.setCore_rst (s : State) (i : Nat) (x : NodeCore) : (s.setCore i x).rst = s.rst := rfl
@[simp] theorem State.setCore_free (s : State) (i : Nat) (x : NodeCore) : (s.setCore i x).free = s.free := rfl
@[simp] theorem State.setKernel_pending (s : State) (i : Nat) (x : Kernel) : (s.setKernel i x).pending = s.pending := rfl
@[simp] theorem State.setKernel_fuse (s : State) (i : Nat) (x : Kernel) : (s.setKernel i x).fuse = s.fuse := rfl
@[simp] theorem State.setKernel_regs (s : State) (i : Nat) (x : Kernel) : (s.setKernel i x).regs = s.regs := rfl
@[simp] theorem State.setKernel_mem (s : State) (i : Nat) (x : Kernel) : (s.setKernel i x).mem = s.mem := rfl
@[simp] theorem State.setKernel_hostMem (s : State) (i : Nat) (x : Kernel) : (s.setKernel i x).hostMem = s.hostMem := rfl
@[simp] theorem State.setKernel_rings (s : State) (i : Nat) (x : Kernel) : (s.setKernel i x).rings = s.rings := rfl
@[simp] theorem State.setKernel_time (s : State) (i : Nat) (x : Kernel) : (s.setKernel i x).time = s.time := rfl
@[simp] theorem State.setKernel_rst (s : State) (i : Nat) (x : Kernel) : (s.setKernel i x).rst = s.rst := rfl
@[simp] theorem State.setKernel_free (s : State) (i : Nat) (x : Kernel) : (s.setKernel i x).free = s.free := rfl
@[simp] theorem State.setGroup_pending (s : State) (i : Nat) (x : Group) : (s.setGroup i x).pending = s.pending := rfl
@[simp] theorem State.setGroup_fuse (s : State) (i : Nat) (x : Group) : (s.setGroup i x).fuse = s.fuse := rfl
@[simp] theorem State.setGroup_regs (s : State) (i : Nat) (x : Group) : (s.setGroup i x).regs = s.regs := rfl
@[simp] theorem State.setGroup_mem (s : State) (i : Nat) (x : Group) : (s.setGroup i x).mem = s.mem := rfl
@[simp] theorem State.setGroup_hostMem (s : State) (i : Nat) (x : Group) : (s.setGroup i x).hostMem = s.hostMem := rfl
@[simp] theorem State.setGroup_rings (s : State) (i : Nat) (x : Group) : (s.setGroup i x).rings = s.rings := rfl
@[simp] theorem State.setGroup_time (s : State) (i : Nat) (x : Group) : (s.setGroup i x).time = s.time := rfl
@[simp] theorem State.setGroup_rst (s : State) (i : Nat) (x : Group) : (s.setGroup i x).rst = s.rst := rfl
@[simp] theorem State.setGroup_free (s : State) (i : Nat) (x : Group) : (s.setGroup i x).free = s.free := rfl
@[simp] theorem State.setTeam_pending (s : State) (i : Nat) (x : Team) : (s.setTeam i x).pending = s.pending := rfl
@[simp] theorem State.setTeam_fuse (s : State) (i : Nat) (x : Team) : (s.setTeam i x).fuse = s.fuse := rfl
@[simp] theorem State.setTeam_regs (s : State) (i : Nat) (x : Team) : (s.setTeam i x).regs = s.regs := rfl
@[simp] theorem State.setTeam_mem (s : State) (i : Nat) (x : Team) : (s.setTeam i x).mem = s.mem := rfl
@[simp] theorem State.setTeam_hostMem (s : State) (i : Nat) (x : Team) : (s.setTeam i x).hostMem = s.hostMem := rfl
@[simp] theorem State.setTeam_rings (s : State) (i : Nat) (x : Team) : (s.setTeam i x).rings = s.rings := rfl
@[simp] theorem State.setTeam_time (s : State) (i : Nat) (x : Team) : (s.setTeam i x).time = s.time := rfl
@[simp] theorem State.setTeam_rst (s : State) (i : Nat) (x : Team) : (s.setTeam i x).rst = s.rst := rfl
@[simp] theorem State.setTeam_free (s : State) (i : Nat) (x : Team) : (s.setTeam i x).free = s.free := rfl
@[simp] theorem State.setFq_pending (s : State) (i : Nat) (x : FQ) : (s.setFq i x).pending = s.pending := rfl
@[simp] theorem State.setFq_fuse (s : State) (i : Nat) (x : FQ) : (s.setFq i x).fuse = s.fuse := rfl
@[simp] theorem State.setFq_regs (s : State) (i : Nat) (x : FQ) : (s.setFq i x).regs = s.regs := rfl
@[simp] theorem State.setFq_mem (s : State) (i : Nat) (x : FQ) : (s.setFq i x).mem = s.mem := rfl
@[simp] theorem State.setFq_hostMem (s : State) (i : Nat) (x : FQ) : (s.setFq i x).hostMem = s.hostMem := rfl
@[simp] theorem State.setFq_rings (s : State) (i : Nat) (x : FQ) : (s.setFq i x).rings = s.rings := rfl
@[simp] theorem State.setFq_time (s : State) (i : Nat) (x : FQ) : (s.setFq i x).time = s.time := rfl
@[simp] theorem State.setFq_rst (s : State) (i : Nat) (x : FQ) : (s.setFq i x).rst = s.rst := rfl
@[simp] theorem State.setFq_free (s : State) (i : Nat) (x : FQ) : (s.setFq i x).free = s.free := rfl
@[simp] theorem State.setSvc_pending (s : State) (i : Nat) (x : Svc) : (s.setSvc i x).pending = s.pending := rfl
@[simp] theorem State.setSvc_fuse (s : State) (i : Nat) (x : Svc) : (s.setSvc i x).fuse = s.fuse := rfl
@[simp] theorem State.setSvc_regs (s : State) (i : Nat) (x : Svc) : (s.setSvc i x).regs = s.regs := rfl
@[simp] theorem State.setSvc_mem (s : State) (i : Nat) (x : Svc) : (s.setSvc i x).mem = s.mem := rfl
@[simp] theorem State.setSvc_hostMem (s : State) (i : Nat) (x : Svc) : (s.setSvc i x).hostMem = s.hostMem := rfl
@[simp] theorem State.setSvc_rings (s : State) (i : Nat) (x : Svc) : (s.setSvc i x).rings = s.rings := rfl
@[simp] theorem State.setSvc_time (s : State) (i : Nat) (x : Svc) : (s.setSvc i x).time = s.time := rfl
@[simp] theorem State.setSvc_rst (s : State) (i : Nat) (x : Svc) : (s.setSvc i x).rst = s.rst := rfl
@[simp] theorem State.setSvc_free (s : State) (i : Nat) (x : Svc) : (s.setSvc i x).free = s.free := rfl
@[simp] theorem State.setDiePwr_pending (s : State) (i : Nat) (x : DiePwr) : (s.setDiePwr i x).pending = s.pending := rfl
@[simp] theorem State.setDiePwr_fuse (s : State) (i : Nat) (x : DiePwr) : (s.setDiePwr i x).fuse = s.fuse := rfl
@[simp] theorem State.setDiePwr_regs (s : State) (i : Nat) (x : DiePwr) : (s.setDiePwr i x).regs = s.regs := rfl
@[simp] theorem State.setDiePwr_mem (s : State) (i : Nat) (x : DiePwr) : (s.setDiePwr i x).mem = s.mem := rfl
@[simp] theorem State.setDiePwr_hostMem (s : State) (i : Nat) (x : DiePwr) : (s.setDiePwr i x).hostMem = s.hostMem := rfl
@[simp] theorem State.setDiePwr_rings (s : State) (i : Nat) (x : DiePwr) : (s.setDiePwr i x).rings = s.rings := rfl
@[simp] theorem State.setDiePwr_time (s : State) (i : Nat) (x : DiePwr) : (s.setDiePwr i x).time = s.time := rfl
@[simp] theorem State.setDiePwr_rst (s : State) (i : Nat) (x : DiePwr) : (s.setDiePwr i x).rst = s.rst := rfl
@[simp] theorem State.setDiePwr_free (s : State) (i : Nat) (x : DiePwr) : (s.setDiePwr i x).free = s.free := rfl
@[simp] theorem State.setRing_ring (s : State) (i : Nat) (x : Ring) : (s.setRing i x).ring i = x := FMap.fget_fput_self _ _ _ _
theorem State.setRing_ring_ne (s : State) {i j : Nat} (x : Ring) (h : j ≠ i) : (s.setRing i x).ring j = s.ring j := FMap.fget_fput_ne _ _ _ _ h
@[simp] theorem State.setStack_stack (s : State) (i : Nat) (x : Stack) : (s.setStack i x).stack i = x := FMap.fget_fput_self _ _ _ _
theorem State.setStack_stack_ne (s : State) {i j : Nat} (x : Stack) (h : j ≠ i) : (s.setStack i x).stack j = s.stack j := FMap.fget_fput_ne _ _ _ _ h
@[simp] theorem State.setSched_sched (s : State) (i : Nat) (x : Sched) : (s.setSched i x).sched i = x := FMap.fget_fput_self _ _ _ _
theorem State.setSched_sched_ne (s : State) {i j : Nat} (x : Sched) (h : j ≠ i) : (s.setSched i x).sched j = s.sched j := FMap.fget_fput_ne _ _ _ _ h
@[simp] theorem State.setMode_modeOf (s : State) (i : Nat) (x : ModeSt) : (s.setMode i x).modeOf i = x := FMap.fget_fput_self _ _ _ _
theorem State.setMode_modeOf_ne (s : State) {i j : Nat} (x : ModeSt) (h : j ≠ i) : (s.setMode i x).modeOf j = s.modeOf j := FMap.fget_fput_ne _ _ _ _ h
@[simp] theorem State.setTable_table (s : State) (i : Nat) (x : TTable) : (s.setTable i x).table i = x := FMap.fget_fput_self _ _ _ _
theorem State.setTable_table_ne (s : State) {i j : Nat} (x : TTable) (h : j ≠ i) : (s.setTable i x).table j = s.table j := FMap.fget_fput_ne _ _ _ _ h
@[simp] theorem State.setTport_tport (s : State) (i : Nat) (x : TPort) : (s.setTport i x).tport i = x := FMap.fget_fput_self _ _ _ _
theorem State.setTport_tport_ne (s : State) {i j : Nat} (x : TPort) (h : j ≠ i) : (s.setTport i x).tport j = s.tport j := FMap.fget_fput_ne _ _ _ _ h
@[simp] theorem State.setEngine_engine (s : State) (i : Nat) (x : Engine) : (s.setEngine i x).engine i = x := FMap.fget_fput_self _ _ _ _
theorem State.setEngine_engine_ne (s : State) {i j : Nat} (x : Engine) (h : j ≠ i) : (s.setEngine i x).engine j = s.engine j := FMap.fget_fput_ne _ _ _ _ h
@[simp] theorem State.setChk_chkUnit (s : State) (i : Nat) (x : ChkUnit) : (s.setChk i x).chkUnit i = x := FMap.fget_fput_self _ _ _ _
theorem State.setChk_chkUnit_ne (s : State) {i j : Nat} (x : ChkUnit) (h : j ≠ i) : (s.setChk i x).chkUnit j = s.chkUnit j := FMap.fget_fput_ne _ _ _ _ h
@[simp] theorem State.setPort_port (s : State) (i : Nat) (x : PciPort) : (s.setPort i x).port i = x := FMap.fget_fput_self _ _ _ _
theorem State.setPort_port_ne (s : State) {i j : Nat} (x : PciPort) (h : j ≠ i) : (s.setPort i x).port j = s.port j := FMap.fget_fput_ne _ _ _ _ h
@[simp] theorem State.setCel_cel (s : State) (i : Nat) (x : Cellar) : (s.setCel i x).cel i = x := FMap.fget_fput_self _ _ _ _
theorem State.setCel_cel_ne (s : State) {i j : Nat} (x : Cellar) (h : j ≠ i) : (s.setCel i x).cel j = s.cel j := FMap.fget_fput_ne _ _ _ _ h
@[simp] theorem State.setTapE_tapE (s : State) (i : Nat) (x : TapEng) : (s.setTapE i x).tapE i = x := FMap.fget_fput_self _ _ _ _
theorem State.setTapE_tapE_ne (s : State) {i j : Nat} (x : TapEng) (h : j ≠ i) : (s.setTapE i x).tapE j = s.tapE j := FMap.fget_fput_ne _ _ _ _ h
@[simp] theorem State.setCrxE_crxE (s : State) (i : Nat) (x : CrxEnd) : (s.setCrxE i x).crxE i = x := FMap.fget_fput_self _ _ _ _
theorem State.setCrxE_crxE_ne (s : State) {i j : Nat} (x : CrxEnd) (h : j ≠ i) : (s.setCrxE i x).crxE j = s.crxE j := FMap.fget_fput_ne _ _ _ _ h
@[simp] theorem State.setGuest_guest (s : State) (i : Nat) (x : Guest) : (s.setGuest i x).guest i = x := FMap.fget_fput_self _ _ _ _
theorem State.setGuest_guest_ne (s : State) {i j : Nat} (x : Guest) (h : j ≠ i) : (s.setGuest i x).guest j = s.guest j := FMap.fget_fput_ne _ _ _ _ h
@[simp] theorem State.setTls_tls (s : State) (i : Nat) (x : TlsPort) : (s.setTls i x).tls i = x := FMap.fget_fput_self _ _ _ _
theorem State.setTls_tls_ne (s : State) {i j : Nat} (x : TlsPort) (h : j ≠ i) : (s.setTls i x).tls j = s.tls j := FMap.fget_fput_ne _ _ _ _ h
@[simp] theorem State.setResv_resvOf (s : State) (i : Nat) (x : Resv) : (s.setResv i x).resvOf i = x := FMap.fget_fput_self _ _ _ _
theorem State.setResv_resvOf_ne (s : State) {i j : Nat} (x : Resv) (h : j ≠ i) : (s.setResv i x).resvOf j = s.resvOf j := FMap.fget_fput_ne _ _ _ _ h
@[simp] theorem State.setCore_core (s : State) (i : Nat) (x : NodeCore) : (s.setCore i x).core i = x := FMap.fget_fput_self _ _ _ _
theorem State.setCore_core_ne (s : State) {i j : Nat} (x : NodeCore) (h : j ≠ i) : (s.setCore i x).core j = s.core j := FMap.fget_fput_ne _ _ _ _ h
@[simp] theorem State.setKernel_kernel (s : State) (i : Nat) (x : Kernel) : (s.setKernel i x).kernel i = x := FMap.fget_fput_self _ _ _ _
theorem State.setKernel_kernel_ne (s : State) {i j : Nat} (x : Kernel) (h : j ≠ i) : (s.setKernel i x).kernel j = s.kernel j := FMap.fget_fput_ne _ _ _ _ h
@[simp] theorem State.setGroup_group (s : State) (i : Nat) (x : Group) : (s.setGroup i x).group i = x := FMap.fget_fput_self _ _ _ _
theorem State.setGroup_group_ne (s : State) {i j : Nat} (x : Group) (h : j ≠ i) : (s.setGroup i x).group j = s.group j := FMap.fget_fput_ne _ _ _ _ h
@[simp] theorem State.setTeam_team (s : State) (i : Nat) (x : Team) : (s.setTeam i x).team i = x := FMap.fget_fput_self _ _ _ _
theorem State.setTeam_team_ne (s : State) {i j : Nat} (x : Team) (h : j ≠ i) : (s.setTeam i x).team j = s.team j := FMap.fget_fput_ne _ _ _ _ h
@[simp] theorem State.setFq_fq (s : State) (i : Nat) (x : FQ) : (s.setFq i x).fq i = x := FMap.fget_fput_self _ _ _ _
theorem State.setFq_fq_ne (s : State) {i j : Nat} (x : FQ) (h : j ≠ i) : (s.setFq i x).fq j = s.fq j := FMap.fget_fput_ne _ _ _ _ h
@[simp] theorem State.setSvc_svc (s : State) (i : Nat) (x : Svc) : (s.setSvc i x).svc i = x := FMap.fget_fput_self _ _ _ _
theorem State.setSvc_svc_ne (s : State) {i j : Nat} (x : Svc) (h : j ≠ i) : (s.setSvc i x).svc j = s.svc j := FMap.fget_fput_ne _ _ _ _ h
@[simp] theorem State.setDiePwr_diePwr (s : State) (i : Nat) (x : DiePwr) : (s.setDiePwr i x).diePwr i = x := FMap.fget_fput_self _ _ _ _
theorem State.setDiePwr_diePwr_ne (s : State) {i j : Nat} (x : DiePwr) (h : j ≠ i) : (s.setDiePwr i x).diePwr j = s.diePwr j := FMap.fget_fput_ne _ _ _ _ h

end Sys2Proof.Machine
end

