-- ==== Sys2Proof/Safety.lean ====
section
/-!
DEFINITION. The terms claims use: a state's canonical form and its good queue, the next state a command takes, and when a command packet
starts or a kernel instruction issues.
-/

namespace Sys2Proof.Machine

open Sys2Proof

/-- Memory in canonical form: addresses strictly rising, and no byte listed that reads as an unlisted one. -/
def Memory.wf (m : List Host.Cell) : Bool := FMap.wf (fun _ => (0 : Byte)) m

/-- The state keeps module memory in canonical form. -/
def State.memWf (s : State) : Bool := Memory.wf s.mem

/-- Every command that waits names things the module has. -/
def State.queueOk (s : State) : Bool := s.pending.all Instr.wellFormed

/-- The answer of a command given at `s` whose effect is `k`: the rest of the queue and the fuses stand. -/
def State.becomes (s k : State) : Out := .next { k with pending := s.pending, fuse := s.fuse }

/-- The same of a command that reads stacks: a channel in which a read left a third lane carried is retired with it (R259). -/
def State.becomesR (s k : State) : Out := s.becomes k.settleRetire

/-- FLAG_ADDR held (R89): the state and entry on which a started command's body acts; none where its translation fails or waits. -/
def State.flagTaken (s : State) (r pos : Nat) (e : Entry) : Option (State × Entry) :=
  if !e.flagEn || e.flag.isSome then some (s, e)
  else
    match s.cmdXlate (s.cmdCache r) r (e.hdr 8 8) 2 with
    | (.ok l, t) =>
      some (t.modEntry r pos fun x => x.holdFlag (t.holdOf r (e.hdr 8 8) l), e.holdFlag (t.holdOf r (e.hdr 8 8) l))
    | _ => none

/-- The command at (r, pos) with opcode `op` starts (R96, R482 steps 1 to 5): the state and entry on which its body acts. -/
def State.begun (s : State) (r pos op : Nat) : Option (State × Entry) :=
  match s.entry? r pos with
  | none => none
  | some e =>
    if okPos r pos && e.op == op && s.canStart r e && ((s.markRunning r pos).headCheck r e).isNone then
      (s.markRunning r pos).flagTaken r pos e
    else none

/-- Group `g`, which its unit chooses, issues the instruction `w` of class `cls` (and OP `op`): the words at its pc spell it, and its operand
fields are accepted by `ok`. The state on which the instruction acts. -/
def State.issued (s : State) (g cls : Nat) (op : Option Nat) (w : IWord) (ok : Group → Kernel → Bool) : Option State :=
  if decide (g < 65536) && w.ok && s.canIssue g && s.chosen g then
    match (s.setGroup g (s.group g).atFetch).groupFetch g (wordLen w) with
    | (some b, t) =>
      let u := t.settleRetire.placed g
      if spelt w cls op b && ok (u.group g) (u.kernelOf g) then some u else none
    | (none, _) => none
  else none

/-- A write that carries all 64 bits. -/
def Wr.all (v : Word) : Wr := ⟨v.toNat, 2 ^ 64 - 1⟩

/-- The control-space offset of `o` in the block of the lowest-numbered hub present, of hub h, and of die n (R309). -/
def State.hubOff (s : State) (o : Nat) : Nat := 0x1000000 + ((List.range 4).find? s.hubPresent).getD 0 * 0x100000 + o
def hubAt (h o : Nat) : Nat := 0x1000000 + h * 0x100000 + o
def dieAt (n o : Nat) : Nat := n * 0x100000 + o

/-- A requester reaches instance `ix` of register `g` at offset `off` and may write it: the module is READY, the block's die or hub is
present, and the requester has the right (R5, R27, R310). -/
def State.mayReach (s : State) (who : Who) (off : Nat) (g : Reg) (ix : Nat) : Bool :=
  who.ok && s.f .RST_STATUS_PHASE == 5 && s.blockHere (blockOf off) && decide (off < 2 ^ 28) && decide (off % 8 = 0) &&
    decide (regAt off = some ⟨g, ix, blockOf off⟩) && s.mayWrite who ⟨g, ix, blockOf off⟩

end Sys2Proof.Machine
end

