-- ==== Sys2Proof/Laws/Memory.lean ====
section
/-!
SUPPORT. Laws of module memory: what a byte reads as after each operation that changes memory, and that each keeps the canonical form.
-/

namespace Sys2Proof.Machine

open Sys2Proof

theorem fget_putRun (b : Bytes) : ∀ (m : List Host.Cell) (key a : Nat),
    FMap.fget (putRun m key b) a 0 = if key ≤ a ∧ a < key + b.length then b.getD (a - key) 0 else FMap.fget m a 0 := by
  induction b with
  | nil => intro m key a; simp only [putRun, List.length_nil]; rw [if_neg (by omega)]
  | cons x t ih =>
    intro m key a
    simp only [putRun, ih, List.length_cons]
    rcases Nat.lt_trichotomy a key with h | h | h
    · rw [if_neg (by omega), if_neg (by omega), FMap.fget_fput_ne _ _ _ _ (by omega)]
    · subst h
      rw [if_neg (by omega), if_pos (by omega)]
      simp
    · by_cases hb : a < key + 1 + t.length
      · rw [if_pos (by omega), if_pos (by omega)]
        have : a - key = (a - (key + 1)) + 1 := by omega
        rw [this, List.getD_cons_succ]
      · rw [if_neg (by omega), if_neg (by omega), FMap.fget_fput_ne _ _ _ _ (by omega)]

theorem wf_putRun (b : Bytes) : ∀ (m : List Host.Cell) (key : Nat), Memory.wf m = true → Memory.wf (putRun m key b) = true := by
  induction b with
  | nil => intro m key h; exact h
  | cons x t ih => intro m key h; exact ih _ _ (FMap.wf_fput (fun _ => (0 : Byte)) m key x h)

/-- Each byte after a run of bytes is written: the written byte inside the run, the old byte outside. -/
theorem State.memByte_putBytes (s : State) (key : Nat) (b : Bytes) (a : Nat) :
    (s.putBytes key b).memByte a = if key ≤ a ∧ a < key + b.length then b.getD (a - key) 0 else s.memByte a :=
  fget_putRun b s.mem key a

theorem State.memWf_putBytes (s : State) (key : Nat) (b : Bytes) (h : s.memWf = true) : (s.putBytes key b).memWf = true :=
  wf_putRun b s.mem key h

theorem State.memWf_zeroStack (s : State) (k : Nat) (h : s.memWf = true) : (s.zeroStack k).memWf = true :=
  FMap.wf_drop (fun _ => (0 : Byte)) s.mem (fun a => a / 2 ^ 37 == k) h

theorem fget_drop (m : List Host.Cell) (p : Nat → Bool) (a : Nat) :
    FMap.fget (FMap.drop m p) a (0 : Byte) = if p a then 0 else FMap.fget m a 0 := by
  induction m with
  | nil => simp [FMap.drop]
  | cons e t ih =>
    obtain ⟨k, v⟩ := e
    have hc : FMap.drop ((k, v) :: t) p = if p k then FMap.drop t p else (k, v) :: FMap.drop t p := by
      cases hp : p k <;> simp [FMap.drop, hp]
    rw [hc]
    by_cases hk : k = a
    · subst hk
      cases hp : p k with
      | true => rw [if_pos rfl, ih, hp]; simp
      | false => simp [FMap.fget]
    · cases hp : p k with
      | true => rw [if_pos rfl, ih]; simp [FMap.fget, hk]
      | false => rw [if_neg (by simp)]; simp only [FMap.fget, if_neg hk, ih]

/-- Clearing a stack makes its bytes zero and leaves every other byte alone (R34). -/
theorem State.memByte_zeroStack (s : State) (k a : Nat) :
    (s.zeroStack k).memByte a = if a / 2 ^ 37 = k then 0 else s.memByte a := by
  have := fget_drop s.mem (fun a => a / 2 ^ 37 == k) a
  simpa [State.memByte, State.zeroStack] using this

end Sys2Proof.Machine
end

