-- ==== Sys2Proof/Laws/Topo.lean ====
section
/-! SUPPORT. Routes read neither caches nor messages in flight: a message sent or a copy changed moves no traffic to another way. -/

namespace Sys2Proof.Machine

open Sys2Proof

theorem linkUp_caches (s : State) (c : Caches) (l : FMap NodeCore) (e : Nat) : { s with caches := c, cores := l }.linkUp e = s.linkUp e := rfl
theorem pathOk_caches (s : State) (c : Caches) (l : FMap NodeCore) (ok : Nat → Bool) (a : Nat) (p : List Nat) :
    { s with caches := c, cores := l }.pathOk ok a p = s.pathOk ok a p := by
  induction p generalizing a with
  | nil => rfl
  | cons b t ih => simp only [State.pathOk, ih]; rfl
theorem shortest_caches (s : State) (c : Caches) (l : FMap NodeCore) (ok : Nat → Bool) (a b : Nat) : { s with caches := c, cores := l }.shortest ok a b = s.shortest ok a b := by
  unfold State.shortest; rw [show State.pairUp { s with caches := c, cores := l } = s.pairUp from rfl]
theorem ringOk_caches (s : State) (c : Caches) (l : FMap NodeCore) (cw : Bool) (a b : Nat) : { s with caches := c, cores := l }.ringOk cw a b = s.ringOk cw a b := by
  unfold State.ringOk; simp only [linkUp_caches]; rfl
theorem ringHopEnds_caches (s : State) (c : Caches) (l : FMap NodeCore) (a b : Nat) : { s with caches := c, cores := l }.ringHopEnds a b = s.ringHopEnds a b := by
  unfold State.ringHopEnds; simp only [ringOk_caches]
theorem ringHops_caches (s : State) (c : Caches) (l : FMap NodeCore) (a b : Nat) : { s with caches := c, cores := l }.ringHops a b = s.ringHops a b := by
  unfold State.ringHops; simp only [ringOk_caches]
theorem hubLinks_caches (s : State) (c : Caches) (l : FMap NodeCore) (n : Nat) : { s with caches := c, cores := l }.hubLinks n = s.hubLinks n := by
  unfold State.hubLinks; simp only [linkUp_caches]; rfl
theorem route_caches (s : State) (c : Caches) (l : FMap NodeCore) (p a b : Nat) : { s with caches := c, cores := l }.route p a b = s.route p a b := by
  unfold State.route
  rw [show State.dieOwner { s with caches := c, cores := l } = s.dieOwner from rfl, show State.dieWorks { s with caches := c, cores := l } = s.dieWorks from rfl]
  simp only [pathOk_caches, shortest_caches, hubLinks_caches, ringHops_caches]
theorem nearExit_caches (s : State) (c : Caches) (l : FMap NodeCore) (n : Nat) (ok : Nat → Bool) : { s with caches := c, cores := l }.nearExit n ok = s.nearExit n ok := by
  unfold State.nearExit; simp only [shortest_caches, hubLinks_caches]
theorem hubRoute_caches (s : State) (c : Caches) (l : FMap NodeCore) (n h : Nat) : { s with caches := c, cores := l }.hubRoute n h = s.hubRoute n h := by
  unfold State.hubRoute State.exitLink
  rw [show State.dieOwner { s with caches := c, cores := l } = s.dieOwner from rfl, show State.dieWorks { s with caches := c, cores := l } = s.dieWorks from rfl]
  simp only [nearExit_caches, hubLinks_caches, ringHops_caches]
theorem hops_caches (s : State) (c : Caches) (l : FMap NodeCore) (x y : Nat) : { s with caches := c, cores := l }.hops x y = s.hops x y := by
  unfold State.hops; rw [show State.dieOwner { s with caches := c, cores := l } = s.dieOwner from rfl]
  simp only [route_caches, hubRoute_caches, ringHopEnds_caches]

/-- Whether traffic between two nodes waits for a window does not depend on the caches, nor on what the cores have fetched. -/
theorem hopsHeld_caches (s : State) (c : Caches) (l : FMap NodeCore) (x y : Nat) : { s with caches := c, cores := l }.hopsHeld x y = s.hopsHeld x y := by
  unfold State.hopsHeld; simp only [hops_caches, linkUp_caches]; rfl
@[simp] theorem hopsHeld_sendCoh (s : State) (m : CMsg) (x y : Nat) : (s.sendCoh m).hopsHeld x y = s.hopsHeld x y := by
  unfold State.sendCoh State.setNet; exact hopsHeld_caches s _ _ x y
@[simp] theorem hopsHeld_setCopy (s : State) (a g : Nat) (c : Copy) (x y : Nat) : (s.setCopy a g c).hopsHeld x y = s.hopsHeld x y := by
  unfold State.setCopy; exact hopsHeld_caches s _ _ x y
@[simp] theorem hopsHeld_setNc (s : State) (a g : Nat) (r : NcReq) (x y : Nat) : (s.setNc a g r).hopsHeld x y = s.hopsHeld x y := by
  unfold State.setNc; exact hopsHeld_caches s _ _ x y
@[simp] theorem hopsHeld_openWrite (s : State) (a x y : Nat) : (s.openWrite a).hopsHeld x y = s.hopsHeld x y := by
  unfold State.openWrite; exact hopsHeld_caches s _ _ x y

end Sys2Proof.Machine
end

