-- ==== Sys2Proof/Laws/Ops.lean ====
section
/-!
SUPPORT. What the shared operations do: `run`, the start of a command, the issue of an instruction, the tally entry's update, the clock.
-/

namespace Sys2Proof.Machine

open Sys2Proof

theorem runIf_true (s k : State) : runIf true s k = s.becomes k := rfl
theorem runIf_false (s k : State) : runIf false s k = .fault .operandOutOfRange := rfl

/-- A command with operands in range answers a next state with the queue's rest and the fuses unchanged. -/
theorem runIf_next {ok : Bool} {s k t : State} (h : runIf ok s k = .next t) : ok = true ∧ t.pending = s.pending ∧ t.fuse = s.fuse := by
  cases ok with
  | false => cases h
  | true => cases h; exact ⟨rfl, rfl, rfl⟩

theorem runIf_of {ok : Bool} (h : ok = true) (s k : State) : runIf ok s k = s.becomes k := by subst h; rfl

theorem run_of {c : Instr} (h : c.wellFormed = true) (s k : State) : run c s k = s.becomes k := runIf_of h s k

/-! ## The start of a command -/

theorem withFlag_of_flagTaken {s t : State} {r pos : Nat} {e e' : Entry} (body : State → Entry → State)
    (h : s.flagTaken r pos e = some (t, e')) : s.withFlag r pos e body = body t e' := by
  unfold State.flagTaken at h
  unfold State.withFlag
  split at h
  · next hc => rw [if_pos hc]; cases h; rfl
  · next hc =>
    rw [if_neg hc]
    split at h
    · next l u hx => cases h; simp only [hx]
    · cases h

/-- What a started command does is its body. -/
theorem startCmd_of_begun {s t : State} {r pos op : Nat} {e : Entry} (body : State → Entry → State)
    (h : s.begun r pos op = some (t, e)) : s.startCmd r pos op body = body t e := by
  unfold State.begun at h
  unfold State.startCmd
  split at h
  · cases h
  · next e0 he =>
    split at h
    · next hc =>
      simp only [Bool.and_eq_true, beq_iff_eq, Option.isNone_iff_eq_none] at hc
      simp only [he, hc.1.1.2, hc.1.2, hc.2, decide_true, Bool.and_self, if_true]
      exact withFlag_of_flagTaken body h
    · cases h

/-- A command that starts names a ring and a position. -/
theorem okPos_of_begun {s t : State} {r pos op : Nat} {e : Entry} (h : s.begun r pos op = some (t, e)) : okPos r pos = true := by
  unfold State.begun at h
  split at h
  · cases h
  · split at h
    · next hc => simp only [Bool.and_eq_true] at hc; exact hc.1.1.1
    · cases h

/-! ## The issue of an instruction -/

/-- What an issued instruction does is its body. -/
theorem issueOk_of_issued {s t : State} {g cls : Nat} {op : Option Nat} {w : IWord} {ok : Group → Kernel → Bool} (body : State → State)
    (h : s.issued g cls op w ok = some t) : s.issueOk g cls op w ok body = body t := by
  unfold State.issued at h
  unfold State.issueOk State.issue
  split at h
  · next hc =>
    simp only [Bool.and_eq_true] at hc
    simp only [hc.1.2, hc.2, Bool.not_true, Bool.false_eq_true, if_false]
    split at h
    · next b u hu =>
      simp only at h
      split at h
      · next hk =>
        simp only [Bool.and_eq_true] at hk
        cases h
        simp only [hu, hk.1, hk.2, if_true]
      · cases h
    · cases h
  · cases h

/-- An instruction that issues names a group, and its fields fit their places. -/
theorem ok_of_issued {s t : State} {g cls : Nat} {op : Option Nat} {w : IWord} {ok : Group → Kernel → Bool}
    (h : s.issued g cls op w ok = some t) : (decide (g < 65536) && w.ok) = true := by
  unfold State.issued at h
  split at h
  · next hc => simp only [Bool.and_eq_true] at hc ⊢; exact hc.1.1
  · cases h

/-- A command whose rows read stacks: its effect, with the channels retired that a read has left with a third carried lane. -/
theorem runR_of {c : Instr} (h : c.wellFormed = true) (s k : State) : runR c s k = s.becomesR k := runIf_of h s _

/-! ## Tally entries -/

/-- Changing an entry leaves every position listed as it was. -/
theorem entry?_modEntry (s : State) (r pos : Nat) (f : Entry → Entry) (hp : ∀ e, (f e).pos = e.pos) :
    (s.modEntry r pos f).entry? r pos = (s.entry? r pos).map f := by
  unfold State.modEntry State.entry?
  rw [State.setRing_ring]
  induction (s.ring r).entries with
  | nil => rfl
  | cons e t ih =>
    by_cases h : e.pos == pos
    · have h' : e.pos = pos := by simpa using h
      simp [List.find?, h', hp]
    · simp only [List.map_cons, h, Bool.false_eq_true, if_false, List.find?] at ih ⊢
      simpa [h] using ih

theorem entry?_modEntry_ne (s : State) {r r' pos : Nat} (pos' : Nat) (f : Entry → Entry) (h : r' ≠ r) :
    (s.modEntry r pos f).entry? r' pos' = s.entry? r' pos' := by
  unfold State.modEntry State.entry?
  rw [State.setRing_ring_ne _ _ h]

@[simp] theorem modEntry_mem (s : State) (r pos : Nat) (f : Entry → Entry) : (s.modEntry r pos f).mem = s.mem := rfl
@[simp] theorem modEntry_regs (s : State) (r pos : Nat) (f : Entry → Entry) : (s.modEntry r pos f).regs = s.regs := rfl
@[simp] theorem modEntry_time (s : State) (r pos : Nat) (f : Entry → Entry) : (s.modEntry r pos f).time = s.time := rfl
theorem keepStall_none {s : State} {r pos : Nat} (h : (s.entry? r pos).bind (·.stall) = none) : s.keepStall r pos = s := by
  unfold State.keepStall; rw [h]
@[simp] theorem keepStall_mem (s : State) (r pos : Nat) : (s.keepStall r pos).mem = s.mem := by
  unfold State.keepStall; split <;> rfl
@[simp] theorem keepStall_time (s : State) (r pos : Nat) : (s.keepStall r pos).time = s.time := by
  unfold State.keepStall; split <;> rfl
@[simp] theorem finish_mem (s : State) (r pos : Nat) (x : Result) : (s.finish r pos x).mem = s.mem := by
  simp [State.finish]
@[simp] theorem finish_time (s : State) (r pos : Nat) (x : Result) : (s.finish r pos x).time = s.time := by
  simp [State.finish]
/-- Only a command that has stalled writes a register at its end: the count of its queue. -/
theorem finish_regs {s : State} {r pos : Nat} (h : (s.entry? r pos).bind (·.stall) = none) (x : Result) :
    (s.finish r pos x).regs = s.regs := by
  unfold State.finish; rw [keepStall_none h]; rfl

/-! ## The clock -/

theorem elapse_mem (s : State) (dt : Nat) : (s.elapse dt).mem = s.mem := by
  unfold State.elapse; simp only; split <;> split <;> rfl

theorem elapse_pending (s : State) (dt : Nat) : (s.elapse dt).pending = s.pending := by
  unfold State.elapse; simp only; split <;> split <;> rfl

theorem elapse_fuse (s : State) (dt : Nat) : (s.elapse dt).fuse = s.fuse := by
  unfold State.elapse; simp only; split <;> split <;> rfl

end Sys2Proof.Machine
end

