-- ==== Sys2Proof/Certificates/Slice0/Obligations.lean ====
section
/-!
DEFINITION. The statements about this model, for the provers. A completion statement gives, for each row it names, the state that `exec`
answers when the row's own effect happens, under hypotheses on the state and the operands alone.
-/

open Sys2Proof Sys2Proof.Machine

/-- For every state and command: with the command at the front of the queue, step answers what exec answers for that command on the state
whose queue is the rest. The queue is the model's own (the block's commands arrive from outside). -/
def Obligations.StepRunsFront : Prop :=
  ∀ (s : State) (c : Instr) (rest : List Instr), s.pending = c :: rest → step s = exec c { s with pending := rest }

/-- With no command waiting, step answers the state after one nanosecond of engine time, with the queue still empty and module memory, host
memory, rings and fuses as they were. That an idle step is a tick of 1 ns is the model's choice (notes/assumptions/2). -/
def Obligations.IdleStepPassesOneNanosecond : Prop :=
  ∀ (s : State), s.pending = [] →
    ∃ t, step s = .next t ∧ t = s.elapse 1 ∧ t.time.engine = s.time.engine + 1 ∧ t.pending = [] ∧ t.mem = s.mem ∧
      t.hostMem = s.hostMem ∧ t.rings = s.rings ∧ t.fuse = s.fuse

/-- State.reset: the queue is empty, every register field reads its reset value of the register tables, RST_STATUS.PHASE is 0 (AUX) and CAUSE
0, every ring is empty with no scan, no kernel, group, table, copy, taps or keeper commit is in progress, no byte of module or host memory
is listed, and memory has its canonical form. Values of state that no register shows are the model's (notes/assumptions/5). -/
def Obligations.ResetState : Prop :=
  State.reset.pending = [] ∧ (∀ x ix, State.reset.f x ix = x.info.rst) ∧ State.reset.f .RST_STATUS_PHASE = 0 ∧
  State.reset.f .RST_STATUS_CAUSE = 0 ∧ (∀ r, (State.reset.ring r).entries = [] ∧ (State.reset.ring r).scan = .idle) ∧
  State.reset.kernels = [] ∧ State.reset.groups = [] ∧ State.reset.teams = [] ∧ State.reset.tables = [] ∧ State.reset.movers = [] ∧
  State.reset.taps = [] ∧ State.reset.keeper.queue = [] ∧ State.reset.mem = [] ∧ State.reset.hostMem = [] ∧ State.reset.memWf = true ∧
  State.reset.time.now = 0

/-- After reset every waiting command is well formed (none waits), so the invariant of QueueInvariantKept holds at the start of every run. -/
def Obligations.QueueInvariantAtReset : Prop := State.reset.queueOk = true ∧ State.reset.pending = []

/-- For every command and every state: if the command's operands name things the module has (rings 0 to 255, dies 0 to 15, hubs 0 to 3, stacks
0 to 31 and so on), exec answers a next state; otherwise it faults with operandOutOfRange and does nothing. exec never refuses. -/
def Obligations.CommandsInRangeAlwaysAnswer : Prop :=
  ∀ (c : Instr) (s : State),
    (c.wellFormed = true → ∃ t, exec c s = .next t) ∧
    (c.wellFormed = false → exec c s = .fault .operandOutOfRange) ∧ (∀ x, exec c s ≠ .refused x)

/-- For every command and every state, a next state that exec answers has the same waiting commands and the same fused values (serial number,
revision, steppings and features) as before. That a command leaves the queue alone is the model's; that no command alters fused values is
the spec's (their registers are read-only and loaded from fuses). -/
def Obligations.CommandsKeepQueueAndFuses : Prop :=
  ∀ (c : Instr) (s t : State), exec c s = .next t → t.pending = s.pending ∧ t.fuse = s.fuse

/-- For every state, reached or not: if every waiting command is well formed and step answers a next state, then every command still waiting
is well formed, the queue has lost exactly its front command, and the fused identity is the same, so that a read of ID_SERIAL returns the
same number. -/
def Obligations.QueueInvariantKept : Prop :=
  ∀ (s t : State), s.queueOk = true → step s = .next t →
    t.queueOk = true ∧ t.pending = s.pending.tail ∧ t.fuse = s.fuse ∧
      t.regWord ⟨.ID_SERIAL, 0, 16⟩ = s.regWord ⟨.ID_SERIAL, 0, 16⟩

/-- For every state whose waiting commands are all well formed, and every n: n steps of the machine answer a next state; the first n commands
have been taken off the queue, the rest stand in their order, and the fused identity is unchanged. No ordinary data, register value or
failed part ends a run. -/
def Obligations.GoodQueueRunsToItsEnd : Prop :=
  ∀ (n : Nat) (s : State), s.queueOk = true →
    ∃ t, Host.Core.run Sys2Proof.core n s = .next t ∧ State.pending t = s.pending.drop n ∧ State.fuse t = s.fuse ∧ State.queueOk t = true

/-- For every die, hub, ring, stack, partition, queue, peer, check unit, Corox module and Tilus port: the control-space offset given by the
register tables (Table 12-2 and the register tables of the chapters) holds that register, with that instance: RING_CTRLr at hub + 0x4000 +
64 r, TIME_CTRL, TIME_DEALER_SET, CLR_CTRL, MEM_PMAPp, MEM_CTRL, XL_FQ_CTRLq, XL_SVC_CTRL, XL_SVC_CONS, XL_SVC_REPLY, PCI_PEERi, CHK_CTRL,
CRX_CTRL on dies and hubs, TLS_NODE, TLS_PCTRL and PWR_IDLEp. -/
def Obligations.RegisterPlaces : Prop :=
  (∀ h < 4, ∀ r < 256, regAt (hubAt h (0x4000 + 64 * r)) = some ⟨.RING_CTRL, r, 16 + h⟩) ∧
  (∀ h < 4, regAt (hubAt h 0x2010) = some ⟨.TIME_CTRL, 0, 16 + h⟩ ∧ regAt (hubAt h 0x2018) = some ⟨.TIME_DEALER_SET, 0, 16 + h⟩ ∧
    regAt (hubAt h 0xD000) = some ⟨.TLS_NODE, 0, 16 + h⟩) ∧
  (∀ h < 4, ∀ p < 16, regAt (hubAt h (0x8000 + 8 * p)) = some ⟨.MEM_PMAP, p, 16 + h⟩ ∧
    regAt (hubAt h (0xE040 + 8 * p)) = some ⟨.PWR_IDLE, p, 16 + h⟩) ∧
  (∀ h < 4, ∀ q < 17, regAt (hubAt h (0x9088 + 0x20 * q)) = some ⟨.XL_FQ_CTRL, q, 16 + h⟩) ∧
  (∀ n < 16, ∀ j < 2, regAt (dieAt n (0x6000 + 0x40 * j)) = some ⟨.CLR_CTRL, 2 * n + j, n⟩ ∧
    regAt (dieAt n (0x8000 + 0x400 * j)) = some ⟨.MEM_CTRL, 2 * n + j, n⟩) ∧
  (∀ n < 16, regAt (dieAt n 0x9008) = some ⟨.XL_SVC_CTRL, n, n⟩ ∧ regAt (dieAt n 0x9018) = some ⟨.XL_SVC_CONS, n, n⟩ ∧
    regAt (dieAt n 0x9020) = some ⟨.XL_SVC_REPLY, n, n⟩) ∧
  (∀ k < 2, ∀ i < 16, regAt (hubAt k (0xA100 + 0x20 * i)) = some ⟨.PCI_PEER, 16 * k + i, 16 + k⟩) ∧
  (∀ h < 4, ∀ u < 8, regAt (hubAt h (0xB028 + 0x40 * u)) = some ⟨.CHK_CTRL, 8 * h + u, 16 + h⟩ ∧
    regAt (hubAt h (0xC000 + 0x40 * u)) = some ⟨.CRX_CTRL, 144 + 8 * h + u, 16 + h⟩) ∧
  (∀ n < 16, ∀ m < 9, regAt (dieAt n (0xC000 + 0x40 * m)) = some ⟨.CRX_CTRL, 9 * n + m, n⟩) ∧
  (∀ p < 16, regAt (hubAt (p / 4) (0xD100 + 0x40 * (p % 4))) = some ⟨.TLS_PCTRL, p, 16 + p / 4⟩)

/-- REGISTER_WRITE of an offset below 256 MiB by a requester: when the module is READY, the block's die or hub is present, the access is an
aligned 4-byte or 8-byte access to a register and the requester may write it, the next state is that of the register's write with exactly
the carried bits (a 4-byte write carries its half). When the size is not 4 or 8 bytes or the offset is not aligned to it, the module state
is as before. -/
def Obligations.RegisterWriteActs : Prop :=
  (∀ (who : Who) (off size : Nat) (v : Word) (s : State) (x : At),
    who.ok = true → off < 2 ^ 28 → s.f .RST_STATUS_PHASE = 5 → s.blockHere (blockOf off) = true →
    ((size = 8 ∧ off % 8 = 0) ∨ (size = 4 ∧ off % 4 = 0)) → regAt (off / 8 * 8) = some x → s.mayWrite who x = true →
      exec (.registerWrite who off size v) s =
        s.becomes (s.regWrite who ⟨v.toNat % 2 ^ (8 * size) * 2 ^ (8 * (off % 8)), (2 ^ (8 * size) - 1) * 2 ^ (8 * (off % 8))⟩ x)) ∧
  (∀ (who : Who) (off size : Nat) (v : Word) (s : State), who.ok = true → off < 2 ^ 28 →
    ¬ ((size = 8 ∧ off % 8 = 0) ∨ (size = 4 ∧ off % 4 = 0)) → exec (.registerWrite who off size v) s = .next s)

/-- RING_ENABLE, RING_DISABLE, RING_RESUME, RING_DISCARD, DEALER_ROLE_SET, DEALER_ROLE_CLEAR, TIME_DEALER_SET, CLR_ENABLE, CLR_DISABLE,
MEM_PMAP_WRITE, MEM_RETRAIN, MEM_PEAK_CLR, FAULT_QUEUE_ENABLE, SVC_QUEUE_ENABLE, SVC_REPLY_RETRY, SVC_REPLY_FAULT, SVC_CONS_WRITE,
PEER_ENABLE, PEER_DISABLE, CHK_CLEAR, COROX_RETRAIN, COROX_DISABLE_SET, COROX_DISABLE_CLEAR, TLS_NODE_WRITE, TILUS_PORT_ENABLE,
TILUS_PORT_DISABLE, NAP_ENTER and NAP_EXIT: a requester that reaches the register (module READY, block present, right to write) makes the
state that the register's own operation makes. -/
def Obligations.RegisterRows : Prop :=
  (∀ who r v (s : State), r < 256 → s.mayReach who (s.hubOff (0x4000 + 64 * r)) .RING_CTRL r = true →
    exec (.ringEnable who r v) s = s.becomes (s.ringCtrl who (Wr.all v) r) ∧
    exec (.ringDisable who r v) s = s.becomes (s.ringCtrl who (Wr.all v) r) ∧
    exec (.ringResume who r v) s = s.becomes (s.ringCtrl who (Wr.all v) r) ∧
    exec (.ringDiscard who r v) s = s.becomes (s.ringCtrl who (Wr.all v) r)) ∧
  (∀ who v (s : State), s.mayReach who (s.hubOff 0x2010) .TIME_CTRL 0 = true →
    exec (.dealerRoleSet who v) s = s.becomes (s.timeCtrl (Wr.all v)) ∧
    exec (.dealerRoleClear who v) s = s.becomes (s.timeCtrl (Wr.all v))) ∧
  (∀ who v (s : State), s.mayReach who (s.hubOff 0x2018) .TIME_DEALER_SET 0 = true →
    exec (.timeDealerSet who v) s = s.becomes ((s.setF .TIME_DEALER_SET_TIME 0 v.toNat).dealerSet v.toNat)) ∧
  (∀ who k v (s : State), k < 32 → s.mayReach who (dieAt (k / 2) (0x6000 + 0x40 * (k % 2))) .CLR_CTRL k = true →
    exec (.clrEnable who k v) s = s.becomes (s.clrCtrl (Wr.all v) k) ∧
    exec (.clrDisable who k v) s = s.becomes (s.clrCtrl (Wr.all v) k)) ∧
  (∀ who p v (s : State), p < 16 → s.mayReach who (s.hubOff (0x8000 + 8 * p)) .MEM_PMAP p = true →
    exec (.memPmapWrite who p v) s = s.becomes (s.pmapWrite (Wr.all v) p)) ∧
  (∀ who k v (s : State), k < 32 → s.mayReach who (dieAt (k / 2) (0x8000 + 0x400 * (k % 2))) .MEM_CTRL k = true →
    exec (.memRetrain who k v) s = s.becomes (s.memCtrl (Wr.all v) k) ∧
    exec (.memPeakClr who k v) s = s.becomes (s.memCtrl (Wr.all v) k)) ∧
  (∀ who q v (s : State), q < 17 → s.mayReach who (s.hubOff (0x9088 + 0x20 * q)) .XL_FQ_CTRL q = true →
    exec (.faultQueueEnable who q v) s = s.becomes (s.fqCtrl (Wr.all v) q)) ∧
  (∀ who n v (s : State), n < 16 → s.mayReach who (dieAt n 0x9008) .XL_SVC_CTRL n = true →
    exec (.svcQueueEnable who n v) s = s.becomes (s.svcCtrl (Wr.all v) n)) ∧
  (∀ who n v (s : State), n < 16 → s.mayReach who (dieAt n 0x9020) .XL_SVC_REPLY n = true →
    exec (.svcReplyRetry who n v) s = s.becomes (s.svcReply (Wr.all v) n) ∧
    exec (.svcReplyFault who n v) s = s.becomes (s.svcReply (Wr.all v) n)) ∧
  (∀ who n v (s : State), n < 16 → s.mayReach who (dieAt n 0x9018) .XL_SVC_CONS n = true →
    exec (.svcConsWrite who n v) s = s.becomes (s.svcCons n ((Wr.all v).fld .XL_SVC_CONS_CONS))) ∧
  (∀ who k i v (s : State), k < 2 → i < 16 → s.mayReach who (hubAt k (0xA100 + 0x20 * i)) .PCI_PEER (16 * k + i) = true →
    exec (.peerEnable who k i v) s = s.becomes (s.peerCtrl (Wr.all v) (16 * k + i)) ∧
    exec (.peerDisable who k i v) s = s.becomes (s.peerCtrl (Wr.all v) (16 * k + i))) ∧
  (∀ who h u v (s : State), h < 4 → u < 8 → s.mayReach who (hubAt h (0xB028 + 0x40 * u)) .CHK_CTRL (8 * h + u) = true →
    (Wr.all v).sets .CHK_CTRL_CLEAR = true →
    exec (.chkClear who h u v) s = s.becomes (s.resetRegs [.CHK_MSGS, .CHK_SEQ] [8 * h + u])) ∧
  (∀ who e v (s : State), e < 176 →
    s.mayReach who (if e < 144 then dieAt (e / 9) (0xC000 + 0x40 * (e % 9)) else hubAt ((e - 144) / 8) (0xC000 + 0x40 * (e % 8))) .CRX_CTRL e = true →
    exec (.coroxRetrain who e v) s = s.becomes (s.crxCtrl who (Wr.all v) e) ∧
    exec (.coroxDisableSet who e v) s = s.becomes (s.crxCtrl who (Wr.all v) e) ∧
    exec (.coroxDisableClear who e v) s = s.becomes (s.crxCtrl who (Wr.all v) e)) ∧
  (∀ who v (s : State), s.mayReach who (s.hubOff 0xD000) .TLS_NODE 0 = true →
    exec (.tlsNodeWrite who v) s = s.becomes (s.nodeWrite (Wr.all v))) ∧
  (∀ who p v (s : State), p < 16 → s.mayReach who (hubAt (p / 4) (0xD100 + 0x40 * (p % 4))) .TLS_PCTRL p = true →
    exec (.tilusPortEnable who p v) s = s.becomes (s.tlsPort (Wr.all v) p) ∧
    exec (.tilusPortDisable who p v) s = s.becomes (s.tlsPort (Wr.all v) p)) ∧
  (∀ who p v (s : State), p < 16 → s.mayReach who (s.hubOff (0xE040 + 8 * p)) .PWR_IDLE p = true →
    exec (.napEnter who p v) s =
      s.becomes ((s.putF (Wr.all v) p .PWR_IDLE_CFG_ERR).napWrite p ((Wr.all v).fld .PWR_IDLE_LEVEL)) ∧
    exec (.napExit who p v) s =
      s.becomes ((s.putF (Wr.all v) p .PWR_IDLE_CFG_ERR).napWrite p ((Wr.all v).fld .PWR_IDLE_LEVEL)))

/-- For every state, write, register instance and list of distinct RW fields of one value each: after the fields are written, a field for
which the write carries a reserved encoding reads as before; every other field of the list reads what the write makes of it; and every
field or instance outside the list reads as before. That values above 1,000,000 of WAIT_US, LIMIT_US and REMOTE_US count as reserved
encodings is the model's choice (notes/assumptions/60). -/
def Obligations.ReservedEncodingLeavesField : Prop :=
  ∀ (s : State) (w : Wr) (ix : Nat) (fs : List Fld), ix < 2 ^ 20 → fs.Nodup →
    (∀ y ∈ fs, y.info.acc = .rw ∧ y.info.reps = 1) → (∀ y j, s.f y j < 2 ^ y.info.width) →
    (∀ x ∈ fs, (s.putFs w ix fs).f x ix =
      if reservedCode x (andNot (s.f x ix) (w.bits x) + (w.fld x &&& w.bits x)) then s.f x ix
      else (andNot (s.f x ix) (w.bits x) + (w.fld x &&& w.bits x)) % 2 ^ x.info.width) ∧
    (∀ y j, j < 2 ^ 20 → (y ∉ fs ∨ j ≠ ix) → (s.putFs w ix fs).f y j = s.f y j)

/-- For a command that starts (R96) with its header checks passed and its flag address held: NOP ends DONE; FENCE with a legal body flushes
every path of SCOPE and ends DONE with VIS equal to SCOPE; SIGNAL with a legal aligned body whose address translates performs its write,
after the flushing reads of its SCOPE when some port is owed one; WAIT_FLAG makes its first poll; WAIT_TIME whose TIME has come ends DONE
with RESULT System Time, and otherwise keeps running; COPY_INLINE whose bytes have all been written, with no window answer open, sends its
flushing reads and ends DONE with RESULT equal to LEN and VIS 0x3F. -/
def Obligations.RingControlCommandsRun : Prop :=
  (∀ r pos (s t : State) e, s.begun r pos 0x00 = some (t, e) → exec (.nop r pos) s = s.becomes (t.doneWith r pos)) ∧
  (∀ r pos (s t : State) e, s.begun r pos 0x01 = some (t, e) → e.body 0 1 < 64 → e.zero 1 63 = true →
    exec (.fence r pos) s = s.becomes ((t.sendFlush r pos (t.scopePorts r (e.body 0 1))).doneWith r pos 0 (e.body 0 1))) ∧
  (∀ r pos (s t u : State) e l, s.begun r pos 0x02 = some (t, e) → e.body 16 1 < 3 → e.body 17 1 < 64 → e.zero 18 46 = true →
    e.body 0 8 % (if e.body 16 1 = 2 then 4 else 8) = 0 →
    t.cmdXlate (t.cmdCache r) r (e.body 0 8) (if e.body 16 1 = 1 then 4 else 2) = (.ok l, u) →
    (e.body 16 1 = 1 → l.port? = none) →
      exec (.signal r pos) s = s.becomesR
        (if u.scopePorts r (e.body 17 1) = [] then
          (u.modEntry r pos fun x => { x with holds := [u.holdOf r (e.body 0 8) l] }).signalWrite r pos e l
        else
          ((u.modEntry r pos fun x => { x with holds := [u.holdOf r (e.body 0 8) l] }).modEntry r pos fun x => { x with phase := 3 }).sendFlush
            r pos (u.scopePorts r (e.body 17 1)))) ∧
  (∀ r pos (s t u : State) e l, s.begun r pos 0x03 = some (t, e) → e.body 32 1 < 4 → e.zero 33 31 = true → e.body 0 8 % 8 = 0 →
    e.body 16 8 ≠ 0 → e.body 8 8 &&& e.body 16 8 = e.body 8 8 →
    (e.body 28 4 = 0 ∨ (100 ≤ e.body 28 4 ∧ e.body 28 4 ≤ 1000000)) →
    t.cmdXlate (t.cmdCache r) r (e.body 0 8) 1 = (.ok l, u) →
      exec (.waitFlag r pos) s = s.becomesR (u.pollWait r pos e (u.holdOf r (e.body 0 8) l))) ∧
  (∀ r pos (s t : State) e, s.begun r pos 0x04 = some (t, e) → e.zero 8 56 = true →
    exec (.waitTime r pos) s = s.becomes (if e.body 0 8 ≤ t.now then t.doneWith r pos t.now else t)) ∧
  (∀ r pos (s t u : State) e x, let len := e.body 8 2; let data := sliceB e.pkt 128 len
    s.begun r pos 0x11 = some (t, e) → e.zero 10 54 = true → len ≤ 192 → e.zero (64 + len) (divUp len 64 * 64 - len) = true → e.remoteOpen = 0 →
    (((t.chkBegin r pos 1).chkHub r pos (some (t.ringHub r))).chkFeed r pos 0 data).writeSpans r pos (e.body 0 8) e.prog data = (true, u) →
    u.entry? r pos = some x → x.active = true → (x.phase ≠ 4 ∨ x.remoteOpen = 0) →
      exec (.copyInline r pos) s = s.becomesR
        (((u.flushPorts r pos x x.hostW).2.sendFlush r pos (u.flushPorts r pos x x.hostW).1).doneWith r pos (x.body 8 2) 0x3F))

/-- For every NOP that starts without a flag to translate: the next state has, at its position, an entry that is running with a final result
of status DONE (REPLAYED for a re-execution) and RESULT, VIS and DETAIL 0; every other entry of the ring, every other ring, every
register, module memory, host memory and time are as before; its body slots, from 0 to 15 of them, are read by nothing. Spec: “NOP
completes with DONE and has no other effect.” -/
def Obligations.NopCompletesDone : Prop :=
  ∀ r pos (s : State) e0, s.entry? r pos = some e0 → e0.flagEn = false → e0.op = 0x00 → okPos r pos = true →
    s.canStart r e0 = true → (s.markRunning r pos).headCheck r e0 = none →
    ∃ t, exec (.nop r pos) s = .next t ∧
      (∃ e, t.entry? r pos = some e ∧ e.st = .running ∧
        e.res = some { status := if e.retried then stREPLAYED else stDONE, sub := 0, vis := 0, result := 0, detail := 0, faultRec := false }) ∧
      (∀ p, p ≠ pos → t.entry? r p = s.entry? r p) ∧ (∀ q, q ≠ r → t.ring q = s.ring q) ∧
      t.regs = s.regs ∧ t.mem = s.mem ∧ t.hostMem = s.hostMem ∧ t.time = s.time ∧ t.pending = s.pending

/-- For every state, ring, position and result: ending a command whose entry has no result gives it that result (DONE becomes REPLAYED on a
re-execution), ending one that has a result leaves the result as it is, and no other entry, ring or byte of memory changes, and no
register unless the command has a stalled fault record, which its queue then keeps. A command without an entry is not ended. -/
def Obligations.FinalResultGivenOnce : Prop :=
  ∀ (s : State) r pos (x y : Result),
    (∀ e, s.entry? r pos = some e → e.res = none → ∃ e', (s.finish r pos x).entry? r pos = some e' ∧
      e'.res = some (if e.retried = true ∧ x.status = stDONE then { x with status := stREPLAYED } else x) ∧ e'.pkt = e.pkt ∧ e'.st = e.st) ∧
    (∀ e, s.entry? r pos = some e → e.res = some y → (s.finish r pos x).entry? r pos = some e) ∧
    (∀ p, p ≠ pos → (s.finish r pos x).entry? r p = s.entry? r p) ∧ (∀ q, q ≠ r → (s.finish r pos x).ring q = s.ring q) ∧
    (s.entry? r pos = none → (s.finish r pos x).entry? r pos = none) ∧
    ((s.entry? r pos).all (fun e => e.stall.isNone) = true → (s.finish r pos x).regs = s.regs) ∧ (s.finish r pos x).mem = s.mem

/-- LAUNCH whose body, descriptor and features pass the checks of R136 enters its kernel for start (with GROUPS 0 without a descriptor);
LAUNCH_AT holds it in phase 1 until LAUNCH_AT_RELEASE finds its time or deal boundary reached; KERNEL_START of a queued kernel with a
working die starts it, its near caches cleared, and dispatches a team; TEAM_DISPATCH places the next team on the chosen cluster when no
kernel served before it has teams pending; KERNEL_END of a kernel whose groups have ended, or that has stopped, writes back its near
caches and ends the command, VIS 0x3F: with the group count, with the first fault, or as a write-back of its own bytes that was not
performed says, other kernels' lost write-backs ending those kernels; KERNEL_FAULT stops the kernel at the fault of the lowest unit;
KERNEL_TIME_LIMIT stops it with LATE; EPOCH_APPLY makes a unit take a newer applicable epoch, once no action of an earlier time that a
step forward skipped is left. -/
def Obligations.LaunchesAndKernelEvents : Prop :=
  (∀ r pos (s t : State) e, s.begun r pos 0x08 = some (t, e) → t.launchBodyOk (t.ringPart r) e false = true → e.launch.groups = 0 →
    exec (.launch r pos) s = s.becomesR (t.addKernel r e [])) ∧
  (∀ r pos (s t u : State) e d, s.begun r pos 0x08 = some (t, e) → t.launchBodyOk (t.ringPart r) e false = true → e.launch.groups ≠ 0 →
    t.readDesc r pos e = (some d, u) → u.descCheck d = none → exec (.launch r pos) s = s.becomesR (u.addKernel r e d)) ∧
  (∀ r pos (s t u : State) e d, s.begun r pos 0x09 = some (t, e) → t.launchBodyOk (t.ringPart r) e true = true → e.launch.groups ≠ 0 →
    (e.body 40 1 = 1 → (t.launchSched r e).defined = true) → t.readDesc r pos e = (some d, u) → u.descCheck d = none →
    exec (.launchAt r pos) s = s.becomesR (u.modEntry r pos fun e => { e with phase := 1, got := [(e.launch.desc, d)] })) ∧
  (∀ r pos (s t : State) e, s.begun r pos 0x09 = some (t, e) → t.launchBodyOk (t.ringPart r) e true = true → e.launch.groups = 0 →
    (e.body 40 1 = 1 → (t.launchSched r e).defined = true) →
    exec (.launchAt r pos) s = s.becomesR (t.modEntry r pos fun e => { e with phase := 1 })) ∧
  (∀ r pos dt (s : State) e, okPos r pos = true → (s.elapse dt).entry? r pos = some e → e.active = true → e.op = 0x09 → e.phase = 1 →
    (e.body 40 1 = 1 → ((s.elapse dt).launchSched r e).defined = true) → (s.elapse dt).launchDue r e = true →
    ((s.elapse dt).actionTime r e).all (s.elapse dt).inOrder = true →
    exec (.launchAtRelease r pos dt) s = s.becomes
      (((s.elapse dt).modEntry r pos fun e => { e with phase := 0 }).addKernel r e ((e.got.head?.map (·.2)).getD []))) ∧
  (∀ id dt (s : State), let t := s.elapse dt; let k := t.kernel id
    k.live = true → k.phase = .queued → t.runningIn k.part < 32 → t.dieSet k ≠ [] →
    exec (.kernelStart id dt) s = s.becomes
      (((t.setKernel id { k with phase := .running }).dropClean fun c => (t.dieSet k).contains (nearDie c)).dispatch id)) ∧
  (∀ id dt (s : State) cl, let t := s.elapse dt; let k := t.kernel id
    k.pending = true → t.pickCluster k = some cl →
    (t.kernels.any fun (e : Nat × Kernel) => e.2.pending && e.2.part == k.part && e.2.before k) = false →
    exec (.teamDispatch id dt) s = s.becomes (t.placeTeam id cl)) ∧
  (∀ id dt (s : State) bad u, let t := s.elapse dt; let k := t.kernel id
    k.live = true → (t.gfaults.any fun x => x.kernel == id) = false → (t.stopped id = true ∨ (k.phase = .running ∧ k.allEnded = true)) →
    t.flushNear (t.dieSet k) = (bad, u) →
    exec (.kernelEnd id dt) s = s.becomesR
      (let v := u.killKernel id
       match k.fault with
       | none =>
         let w := v.postLost k.part (lostOf id bad).2
         match (lostOf id bad).1 with
         | none => w.doneWith k.ring k.pos k.groups 0x3F
         | some (e, pa) =>
           w.failRec k.ring k.pos { status := if e = .closed then stRIGHTS else stUNCORR, vis := 0x3F }
             { w.lostRec e pa with ring := some k.ring, pos := some k.pos, asid := k.asid }
       | some res =>
         let w := v.postLost k.part bad
         match k.frec with
         | none => w.finish k.ring k.pos { res with vis := 0x3F }
         | some x => w.failRec k.ring k.pos { res with vis := 0x3F } x)) ∧
  (∀ id dt (s : State) x l1 l2, let t := s.elapse dt; let k := t.kernel id
    (t.gfaults.filter fun x => x.kernel == id) = l1 ++ x :: l2 → (∀ y ∈ l1, x.unit < y.unit) → (∀ y ∈ l2, x.unit ≤ y.unit) →
    k.live = true → k.fault = none →
    exec (.kernelFault id dt) s = s.becomes
      (let u := { t with gfaults := t.gfaults.erase x }.stopGroups id
       let (w, v) := if x.frec.cause = 0 then (false, u) else u.fqWrite (t.ringQueue k.ring) x.frec
       v.setKernel id { v.kernel id with
         phase := .stopping, fault := some { x.res with faultRec := w }, frec := if w || x.frec.cause == 0 then none else some x.frec })) ∧
  (∀ id dt (s : State) t0, let t := s.elapse dt; let k := t.kernel id
    k.firstAt = some t0 → k.live = true → k.phase = .running → k.timeLimit ≠ 0 → k.allEnded = false → t0 + k.timeLimit * 1000 ≤ t.eng →
    exec (.kernelTimeLimit id dt) s = s.becomes
      ((t.stopGroups id).setKernel id { (t.stopGroups id).kernel id with phase := .stopping, fault := some { status := stLATE } })) ∧
  (∀ u dt (s : State) p x, u < 2048 → (s.elapse dt).dieOwner (u / 128) = some p → (s.elapse dt).applicable p u = some x →
    (s.elapse dt).f .TIME_EPOCH_EPOCH u < x.epoch → (s.elapse dt).inOrder x.effect = true →
    exec (.epochApply u dt) s = s.becomes
      (((((s.elapse dt).setF .TIME_EPOCH_EPOCH u x.epoch).setF .TIME_EPOCH_MODE u x.mode).setReq (u / 128)).finishModes p))

/-- COPY, FILL and COPY_STRIDED whose checks pass and whose ends translate join the queue of the engine that R319 picks; a zero-length one
ends DONE at once; COPY_ENGINE_START gives the first command of a working free engine's queue to the engine; COPY_SPAN moves the next span
of a running command whose engine works and which waits on no window, and ends the command when the span was its last; CHECK_BIND with a
legal body binds the unit to its source with its counters cleared, or releases it; CHECK_MESSAGE has a bound unit judge its next message:
LAST is then the message's counter and CRC the CRC of its text. -/
def Obligations.CopiesAndCheckUnits : Prop :=
  (∀ (c : Nat → Nat → Instr) r pos (s t u v : State) e o src l n,
    ((c = Instr.copy ∧ o = 0x10) ∨ (c = Instr.fill ∧ o = 0x12) ∨ (c = Instr.copyStrided ∧ o = 0x13)) → s.begun r pos o = some (t, e) →
    (t.movers.any fun m => m.ring == r && m.pos == pos) = false → (t.engines.any fun (x : Nat × Engine) => x.2.queue.contains (r, pos)) = false →
    e.xferCheck = none → let w := if e.checks then t.chkBegin r pos 0 else t
    (match e.xfer.src with
      | none => src = none ∧ u = w
      | some a => ∃ m, w.cmdXlate (w.cmdCache r) r a 1 = (.ok m, u) ∧ src = some m) →
    u.cmdXlate (w.cmdCache r) r e.xfer.dst 2 = (.ok l, v) → v.pickEngine (v.candidates src l) = some n → v.candidates src l ≠ [] →
    exec (c r pos) s = s.becomesR ((v.chkHub r pos (if n < 32 then some (n / 8) else none)).setEngine n
      { v.engine n with queue := (v.engine n).queue ++ [(r, pos)] })) ∧
  (∀ (c : Nat → Nat → Instr) r pos (s t : State) e o,
    ((c = Instr.copy ∧ o = 0x10) ∨ (c = Instr.fill ∧ o = 0x12) ∨ (c = Instr.copyStrided ∧ o = 0x13)) → s.begun r pos o = some (t, e) →
    (t.movers.any fun m => m.ring == r && m.pos == pos) = false → (t.engines.any fun (x : Nat × Engine) => x.2.queue.contains (r, pos)) = false →
    e.xferCheck = some stDONE → exec (c r pos) s = s.becomesR (t.doneWith r pos 0 0x3F)) ∧
  (∀ e (s : State) r pos l, e < 64 → ((s.freeEngine e).engine e).run = none → (s.freeEngine e).engineWorks e = true →
    (s.freeEngine e).liveQueue e = (r, pos) :: l →
    exec (.copyEngineStart e) s = s.becomesR
      (let t := (s.freeEngine e).setEngine e { run := some (r, pos), queue := l }
       let t := if e < 32 then t else t.wakeDie ((e - 32) / 2)
       { t with movers := (t.movers.filter fun m => m.engine != e) ++ [{ ring := r, pos := pos, engine := e }] })) ∧
  (∀ e (s t : State) m n y y', e < 64 → (s.freeEngine e).movers.find? (fun m => m.engine == e) = some m →
    (s.freeEngine e).entry? m.ring m.pos = some y → (s.freeEngine e).engineWorks e = true → y.active = true →
    (s.freeEngine e).tagHeld m.ring m.pos = false → y.fwd = [] → y.remoteOpen = 0 → m.off < y.xfer.size → t = (s.freeEngine e).moveSpan m y.xfer →
    t.movers.find? (fun m => m.engine == e) = some n → t.entry? m.ring m.pos = some y' →
    exec (.copySpan e) s = s.becomesR
      (if y.xfer.size ≤ n.off && y'.active && y'.remoteOpen == 0 && y'.fwd == [] then t.endXfer n y' y.xfer else t)) ∧
  (∀ r pos (s t : State) e, s.begun r pos 0x28 = some (t, e) → e.body 25 1 = 0x80 → e.body 24 1 < 32 → e.zero 0 24 = true →
    e.zero 26 38 = true → t.fb .CHK_BIND_BOUND (e.body 24 1) = true → t.chkMine r (e.body 24 1) = true →
    exec (.checkBind r pos) s = s.becomesR
      ((if (t.chkUnit (e.body 24 1)).quiet then t.unbind (e.body 24 1)
        else t.setChk (e.body 24 1) { t.chkUnit (e.body 24 1) with stopping := true }).doneWith r pos)) ∧
  (∀ r pos (s t : State) e, let u := e.body 24 1; let kind := e.body 25 1; let log2 := e.body 27 1; let source := e.body 16 2
    s.begun r pos 0x28 = some (t, e) → u < 32 → kind < 3 → e.zero 18 2 = true →
    (if kind = 2 then bitsOf (e.body 20 4) 20 11 = 0 ∧ t.ringModule r = false ∧ source < 256 else
      e.body 20 4 = 0 ∧ source < 256 ∧ t.ringModule source = t.ringModule r ∧ (t.ringModule r = false → t.ringPart source = t.ringPart r)) →
    e.body 26 1 < 2 → e.body 28 1 < 2 → e.zero 29 35 = true → (log2 = 0 ∨ (4 ≤ log2 ∧ log2 ≤ 16)) → (log2 = 0 → e.body 0 8 = 0) →
    t.fb .CHK_BIND_BOUND u = false → e.body 0 8 % 64 = 0 → t.hubPresent (u / 8) = true →
    exec (.checkBind r pos) s = s.becomesR
      (let held : Held := ⟨t.ringPart r, t.ringAsid r, e.body 0 8, if t.ringModule r then some (.host (t.ringPort r) (e.body 0 8)) else none⟩
       let v := t.setChk u { loc := held, log2 := log2, start := e.body 8 8, anyStart := bitOf (e.body 28 1) 0, node := e.body 20 4 % 2 ^ 20,
                             anyNode := bitOf (e.body 20 4) 31, asid := t.ringAsid r, since := t.nextKernel
                             skip := if kind ≠ 2 then [] else (t.xl.midMsg.filter fun y => y.1 == 256 * t.ringPart r + source).map (·.2) }
       let v := ((v.resetReg .CHK_BIND u).resetReg .CHK_MSGS u).resetReg .CHK_SEQ u
       let v := (((v.setF .CHK_BIND_BOUND u 1).setF .CHK_BIND_KIND u kind).setF .CHK_BIND_CRC64 u (e.body 26 1)).setF .CHK_BIND_SOURCE u source
       (if v.ringModule r then v.setF .CHK_BIND_MODULE u 1 else v.setF .CHK_BIND_PART u (v.ringPart r)).doneWith r pos)) ∧
  (∀ h v u k key tag m (s : State), h < 4 → v < 8 → k < 3 → u = 8 * h + v → s.fb .CHK_BIND_BOUND u = true → s.hubWorks h = true →
    s.nextMsg u = some m → s.f .CHK_BIND_KIND u = k → m.key = (key, tag) → exec (.checkMessage h v k key tag) s = s.becomesR
      (let l := (s.chkUnit u).msgs
       let t := (s.setChk u { s.chkUnit u with msgs := if k = 2 then l.erase m else l.drop 1 }).judgeMsg u m
       if (t.chkUnit u).stopping && (t.chkUnit u).quiet then t.unbind u else t)) ∧
  (∀ u (m : ChkMsg) (s : State), u < 32 → m.seen = true → m.ended = some false → 16 ≤ m.bytes.length →
    (s.judgeMsg u m).f .CHK_LAST_LAST u = fldB m.bytes (m.bytes.length - 16) 8 % 2 ^ 64 ∧
    (s.judgeMsg u m).f .CHK_CRC_CRC u =
      (if (s.fb .CHK_BIND_CRC64 u) then crc64 (m.bytes.take (m.bytes.length - 8)) else crc32c (m.bytes.take (m.bytes.length - 8))) % 2 ^ 64 ∧
    ((s.judgeMsg u m).chkUnit u).count = (s.chkUnit u).count + 1 ∧ ((s.judgeMsg u m).chkUnit u).first = false)

/-- With the descriptor read and in order, the ranges in the table and the stacks reserved, CASK_ALLOC, when none of its entries is VALID,
visits them with the casks popped for it, one from the stack the walk gives each entry; CASK_RACK, CASK_FREE and CASK_MOVE start at their
first entry, keeping the descriptor; one with COUNT 0 (rows 0, heads 0) ends DONE with VIS 0x3F; CASK_TAKE and PINS_ZERO resume a waiting
command when its cask is no longer held, or its pins reach zero; CLR_FORMAT_DONE makes the region READY with every cask after the record
casks on the free list; CLR_REGION_DROP forgets a disabled region that no command or TAP holds. -/
def Obligations.CellarCommandsRun : Prop :=
  (∀ r pos (s t u v : State) e d ks spill, s.begun r pos 0x18 = some (t, e) → e.body 28 1 < 3 → e.body 29 1 < 32 →
    (e.body 28 1 ≠ 2 → e.body 29 1 = 0) → e.zero 30 34 = true → t.celDesc (t.cmdCache r) r pos (e.body 0 8) = (some d, u) → rangeCheck e d = none →
    andNot d.mask (maskOf (u.partStacks (u.ringPart r))) = 0 → d.mask ≠ 0 →
    (e.body 28 1 = 2 → bitOf (maskOf (u.partStacks (u.ringPart r))) (e.body 29 1) = true ∧ bitOf d.mask (e.body 29 1) = true) →
    t.cop? r pos = none → u.allocScan r pos d (e.body 8 4) (rangeList e) = (some false, v) →
    reserveWalk (e.body 28 1) d (e.body 8 4) (if e.body 28 1 = 2 then [e.body 29 1] else bitList d.mask 32) (rangeList e)
      ((if e.body 28 1 = 2 then [e.body 29 1] else bitList d.mask 32).map v.celListed) [] 0 = some (ks, spill) →
    exec (.caskAlloc r pos) s = s.becomesR
      (((v.celPopAll ks []).2.setCop
        { ring := r, pos := pos, detail := spill, desc := d.toBytes, reserved := (v.celPopAll ks []).1.reverse }).allocRun r pos e d)) ∧
  (∀ r pos (s t u : State) e d, let esz := ((fmtOfCode (e.body 46 1)).getD fB32).width / 8
    s.begun r pos 0x19 = some (t, e) → e.body 47 1 = 0 → e.body 32 4 ≠ 0 → e.body 44 2 ≠ 0 → t.cop? r pos = none →
    t.celDesc (t.cmdCache r) r pos (e.body 0 8) = (some d, u) → (e.body 46 1 = 1 ∨ e.body 46 1 = 2 ∨ e.body 46 1 = 3) →
    (∃ n m x, unpackF fB32 (e.body 56 4) = .fin n m x) →
    (∃ n m x, unpackF fB32 (e.body 60 4) = .fin n m x) →
    e.body 8 8 % esz = 0 → e.body 16 8 % esz = 0 → e.body 48 4 % esz = 0 → e.body 52 4 % esz = 0 → e.body 32 4 ≤ 2 ^ 24 →
    e.body 42 2 + e.body 44 2 ≤ d.heads → e.body 40 2 < d.layers → e.body 36 4 < d.contexts →
    (e.body 24 8 + e.body 32 4 - 1) / d.cap < d.blocks →
    exec (.caskRack r pos) s = s.becomesR
      ((u.setCop { ring := r, pos := pos, desc := d.toBytes }).rackGo r pos e d (2 * rackEntries e d + 2))) ∧
  (∀ r pos (s t : State) e, s.begun r pos 0x19 = some (t, e) → e.body 47 1 = 0 → (e.body 32 4 = 0 ∨ e.body 44 2 = 0) →
    exec (.caskRack r pos) s = s.becomesR (t.doneWith r pos 0 0x3F)) ∧
  (∀ r pos (s t u : State) e d, s.begun r pos 0x1A = some (t, e) → e.body 28 2 = 0 → e.zero 30 34 = true →
    e.body 22 2 * e.body 26 2 * e.body 16 4 ≠ 0 → t.cop? r pos = none → t.celDesc (t.cmdCache r) r pos (e.body 0 8) = (some d, u) → rangeCheck e d = none →
    exec (.caskFree r pos) s = s.becomesR
      ((u.setCop { ring := r, pos := pos, desc := d.toBytes }).freeGo r pos e d (rangeList e) (2 * (rangeList e).length + 2))) ∧
  (∀ r pos (s t u : State) e d, s.begun r pos 0x1B = some (t, e) → e.body 20 1 < 32 → e.zero 21 43 = true → t.cop? r pos = none →
    t.celDesc (t.cmdCache r) r pos (e.body 0 8) = (some d, u) → e.body 8 4 < d.contexts → e.body 12 4 < d.blocks → e.body 16 2 < d.layers →
    e.body 18 2 < d.heads → u.dieOwner (e.body 20 1 / 2) = some (u.ringPart r) →
    exec (.caskMove r pos) s = s.becomesR ((u.setCop { ring := r, pos := pos, desc := d.toBytes }).moveGo r pos e d)) ∧
  (∀ r pos (s : State) c, okPos r pos = true → s.cop? r pos = some c → s.isActive r pos = true →
    (c.phase = .take → s.celBlocked r pos c = false → exec (.caskTake r pos) s = s.becomesR (s.celResume r pos)) ∧
    (c.phase = .pins → crPins (s.crec c.stack c.cask) = 0 → exec (.pinsZero r pos) s = s.becomesR (s.celResume r pos))) ∧
  (∀ k dt (s : State), let t0 := s.elapse dt; let n := (t0.cel k).casks
    k < 32 → t0.fb .CLR_STATUS_FORMATTING k = true → t0.stackRetired k = false →
    ∃ t, exec (.clrFormatDone k dt) s = .next t ∧ t.f .CLR_STATUS_FORMATTING k = 0 ∧ t.f .CLR_STATUS_READY k = 1 ∧
      t.f .CLR_FIRST_FIRST k = divUp n 1024 % 2 ^ Fld.CLR_FIRST_FIRST.info.width ∧ t.f .CLR_USE_ALLOCATED k = 0 ∧ t.f .CLR_USE_RETIRED k = 0 ∧
      (t.cel k).top = divUp n 1024 ∧ t.f .CLR_STATUS_FREE k = (n - divUp n 1024) % 2 ^ Fld.CLR_STATUS_FREE.info.width) ∧
  (∀ k (s : State), k < 32 → (s.cel k).dropping = true → s.celHeld k = false →
    ∃ t, exec (.clrRegionDrop k) s = .next t ∧ t.cel k = {} ∧ t.f .CLR_STATUS_READY k = 0 ∧ t.f .CLR_STATUS_FREE k = 0 ∧
      t.f .CLR_USE_ALLOCATED k = 0 ∧ t.f .CLR_USE_RETIRED k = 0 ∧ t.f .CLR_FIRST_FIRST k = 0 ∧ t.mem = s.mem)

/-- A TAP whose fields, features, ranges and held translations pass is listed; one with no rows or no tokens ends DONE; TAP_RESOLVE that finds
every cask free of HOLD and within the slice count pins them and cuts the TAP into passes; TAP_PASS_DISPATCH puts the first held pass of a
stack into its engine's queue while the queue has fewer than 64; TAP_PASS_START whose casks read without error runs the pass at the head
of the queue of a free engine and then releases the pins of the casks that no later pass of the engine reads; TAP_PASS_END writes the
pass's records, and the last pass ends the command with the slice mask and the pin count, VIS 0x3F. -/
def Obligations.TapsRun : Prop :=
  (∀ r pos (s t u v : State) e d hs, s.begun r pos 0x1C = some (t, e) → t.tap? r pos = none → tapFields e = true → tapRows e ≠ 0 →
    e.body 32 4 ≠ 0 → (tapTopk e ≠ 0 → bitOf (t.f .ID_FEAT_FEAT) 0 = true) → t.celDesc (tapCache (t.coordinator r)) r pos (e.body 0 8) = (some d, u) →
    e.body 36 4 < d.contexts → e.body 40 2 < d.layers → e.body 42 2 < d.heads → (e.body 24 8 + e.body 32 4 - 1) / d.cap < d.blocks →
    (e.body 24 8 + e.body 32 4 - 1) / d.cap - e.body 24 8 / d.cap + 1 ≤ 65536 → u.tapHold r pos (tapPages e d) [] = (some hs, v) →
    exec (.tap r pos) s = s.becomesR
      { (v.modEntry r pos fun e => { e with holds := hs }) with taps := v.taps ++ [{ ring := r, pos := pos, desc := d.toBytes }] }) ∧
  (∀ r pos (s t : State) e, s.begun r pos 0x1C = some (t, e) → t.tap? r pos = none → tapFields e = true →
    (tapRows e = 0 ∨ e.body 32 4 = 0) → exec (.tap r pos) s = s.becomesR (t.doneWith r pos)) ∧
  (∀ r pos (s u : State) t e pins0 pins, okPos r pos = true → s.tap? r pos = some t → s.entry? r pos = some e → t.resolved = false →
    (match t.blocked with | some (k, i) => crHold (s.crec k i) || crPins (s.crec k i) == 65535 | none => false) = false → e.active = true →
    let d := Desc.ofBytes t.desc
    let b0 := e.body 24 8 / d.cap
    let b1 := (e.body 24 8 + e.body 32 4 - 1) / d.cap
    s.tapPin r pos e d ((List.range (b1 - b0 + 1)).map (b0 + ·)) [] = (.ok pins, pins0, u) →
    (sortNats (pins.map (·.stack)) 32).length ≤ e.body 58 1 →
    exec (.tapResolve r pos) s = s.becomesR
      (let ks := sortNats (pins.map (·.stack)) 32
       let held := ks.zipIdx.flatMap fun (k, rank) => (List.range (tapPasses e)).map fun g => (k, (⟨r, pos, g, rank⟩ : Pass))
       u.modTap r pos fun t => { t with resolved := true, blocked := none, pins := pins, slices := ks, held := held, left := held.length })) ∧
  (∀ r pos k (s : State) t p k', okPos r pos = true → k < 32 → s.tap? r pos = some t → (t.held.find? fun x => x.1 == k) = some (k', p) →
    (s.tapE k).queue.length < 64 →
    exec (.tapPassDispatch r pos k) s = s.becomes
      ((s.setTapE k { s.tapE k with queue := (s.tapE k).queue ++ [p] }).modTap r pos fun t =>
        { t with held := t.held.erase (k, p), fullAt := t.fullAt.filter (· != k) })) ∧
  (∀ k (s u v : State) p rest e t rows rows', k < 32 →
    let w := (s.wakeDie (k / 2)).ranOn (k / 2) 1
    let d := Desc.ofBytes t.desc
    let ix := (List.range 16).filterMap fun i => if 16 * p.group + i < tapRows e then some (16 * p.group + i) else none
    (s.tapE k).run = none → (s.tapE k).queue = p :: rest → w.entry? p.ring p.pos = some e → w.tap? p.ring p.pos = some t → e.active = true →
    w.passRows p.ring p.pos k e d ix [] = (some rows, u) → u.passCasks k e d (t.pins.filter fun x => x.stack == k) rows = (.ok rows', v) →
    exec (.tapPassStart k) s = s.becomesR
      ((v.setTapE k { v.tapE k with
        run := some (p, (ix.zip rows').map fun (i, row) => ((p.slice * tapRows e + i) * tapRb e d, rowRecord e d row)), queue := rest }).tapUnpin p.ring p.pos k)) ∧
  (∀ k (s u : State) p recs e t, k < 32 → (s.tapE k).run = some (p, recs) → s.entry? p.ring p.pos = some e → s.tap? p.ring p.pos = some t →
    s.tapWrite p.ring p.pos k e recs = (true, u) →
    exec (.tapPassEnd k) s = s.becomesR
      (let v := u.setTapE k { u.tapE k with run := none }
       let v := (v.incF .TAP_PASSES_PASSES k).modTap p.ring p.pos fun t => { t with left := t.left - 1 }
       if t.left ≤ 1 then
         (v.cancelTap p.ring p.pos).finish p.ring p.pos { status := stDONE, result := maskOf t.slices + t.pins.length * 2 ^ 32, vis := 0x3F }
       else v))

/-- XLATE_PRIME with legal operands, whose walk meets no uncorrectable entry and waits on no service request, puts every leaf found into the
caches named and ends DONE with the leaves in RESULT and the absent 64 KiB pages in DETAIL; XLATE_INVAL with legal operands owes an
acknowledgement from every cache of its partition; TRANSLATION_INV drops from its cache, from the cache behind it and from held
translations what the invalidation covers, and erases its acknowledgement unless a covered access is open; TRANSLATION_ACK with none owed
writes back the partition's near caches and ends DONE with VIS 0x3F; WINDOW_SET clears its window, or sets it with its fields;
TRANSLATION_WALK installs the leaf of a translation that succeeds, and records one that fails; SVC_TIMEOUT counts an overdue written
request and fails it; FAULT_WAIT_EXPIRY ends a command stalled past its limit with FAULTQ_FULL, its record kept; FAULT_QUEUE_POLL of a
queue that is full, or has a record or a stalled command waiting, reads the consumer word and writes what has room. -/
def Obligations.TranslationCommandsRun : Prop :=
  (∀ r pos (s t u : State) e x, let va := e.body 0 8; let size := e.body 8 8; let mask := e.body 16 2; let flags := e.body 18 1
    let own := maskOf (t.partDies (t.ringPart r)); let dies := bitList (if mask = 0 then own else mask) 16
    s.begun r pos 0x20 = some (t, e) → flags < 8 → e.zero 19 45 = true → size ≠ 0 → size ≤ 2 ^ 40 → va + size ≤ 2 ^ 64 →
    nonCanonical va = false → nonCanonical (va + size - 1) = false → andNot mask own = 0 →
    t.primeWalk (t.cmdCache r) (t.ringPart r) (t.ringAsid r) (va % 2 ^ 57 + size) (bitOf flags 2) e.skips (2 ^ 25) (va % 2 ^ 57 / 65536 * 65536) {} =
      (x, u) → x.bad = none → x.waits = [] →
    exec (.xlatePrime r pos) s = s.becomesR
      (let caches := dies.flatMap (fun n => dieCache n :: (if bitOf flags 0 then (List.range 32).map fun c => clusterCache (32 * n + c) else []))
         ++ (if bitOf flags 1 then (List.range 4).map hubCache else [])
       (x.leaves.foldl (fun s l => caches.foldl (fun s c => s.tlbPut c l) s) u).doneWith r pos x.leaves.length 0 x.absent)) ∧
  (∀ r pos (s t : State) e, let va := e.body 0 8; let size := e.body 8 8; let flags := e.body 18 1
    s.begun r pos 0x21 = some (t, e) → flags < 4 → e.zero 19 45 = true →
    (if bitOf flags 1 then va = 0 ∧ size = 0 else va % 65536 = 0 ∧ size % 65536 = 0 ∧ size ≠ 0) →
    (if bitOf flags 0 then e.body 16 2 = 0 else e.body 16 2 < 2 ^ t.f .XL_AST_LOG2 (t.ringPart r)) →
    exec (.xlateInval r pos) s = s.becomes
      (let u := t.modEntry r pos fun e => { e with phase := 5 }
       { u with xl := { u.xl with acks := u.xl.acks ++ (u.invalCaches (t.ringPart r)).map fun c => (r, pos, c) } })) ∧
  (∀ r pos cache (s : State) e, okPos r pos = true → cache < 4096 → s.entry? r pos = some e → e.active = true → e.op = 0x21 →
    s.xl.acks.contains (r, pos, cache) = true →
    exec (.translationInv r pos cache) s = s.becomes
      (let p := s.ringPart r
       let u : State := { s with xl := (s.xl.dropCovered e p cache).dropCovered e p (walkerOf cache) }
       ((u.dropHeld e p).countInval e p cache).ackInval r pos e p cache)) ∧
  (∀ (x : Xlate) (e : Entry) p cache c, let y := x.dropCovered e p cache
    y.tlb.fget c [] = (if c = cache then (x.tlb.fget c []).filter (fun t => !invCovers e p t.part t.asid t.va t.size) else x.tlb.fget c []) ∧
    y.walk.fget c [] = (if c = cache then (x.walk.fget c []).filter (fun t =>
      !invCovers e p t.part t.asid (canonVa (t.va * 2 ^ levelLo t.level)) (2 ^ levelLo t.level)) else x.walk.fget c []) ∧
    y.acks = x.acks ∧ y.imports = x.imports ∧ y.exports = x.exports) ∧
  (∀ r pos (s u : State) e bad, okPos r pos = true → s.entry? r pos = some e → e.active = true → e.op = 0x21 → e.phase = 5 →
    (s.xl.acks.any fun a => a.1 == r && a.2.1 == pos) = false → s.flushNear (s.partDies (s.ringPart r)) = (bad, u) →
    exec (.translationAck r pos) s = s.becomesR ((u.postLost (s.ringPart r) bad).doneWith r pos 0 0x3F)) ∧
  (∀ r pos (s t : State) e, let key := 256 * t.ringPart r + e.body 30 1
    s.begun r pos 0x22 = some (t, e) → e.body 31 1 < 2 → e.body 33 1 = 1 → e.body 32 1 = 0 → e.zero 34 30 = true → e.body 0 8 = 0 →
    e.body 8 8 = 0 → e.body 16 8 = 0 → e.body 24 4 = 0 → e.body 28 2 = 0 →
    (e.body 31 1 = 0 → t.importBusy key = false) → (e.body 31 1 = 1 → t.exportBusy key = false) →
    exec (.windowSet r pos) s = s.becomes
      ((if e.body 31 1 = 0 then { t with xl := { t.xl with imports := t.xl.imports.fput key {} {} } }
        else { t with xl := { t.xl with exports := t.xl.exports.fput key {} {} } }).doneWith r pos)) ∧
  (∀ r pos (s t : State) e, let base := e.body 0 8; let size := e.body 8 8; let off := e.body 16 8; let node := e.body 24 4
    let key := 256 * t.ringPart r + e.body 30 1
    s.begun r pos 0x22 = some (t, e) → e.body 31 1 = 0 → e.body 33 1 = 0 → 0 < e.body 32 1 → e.body 32 1 < 8 → e.zero 34 30 = true →
    node < 2 ^ 20 → e.body 28 2 < 4096 → 65536 ≤ size → size % 65536 = 0 → off % 65536 = 0 → base % 65536 = 0 → off + size ≤ 2 ^ 40 →
    base + size ≤ 2 ^ 64 → nonCanonical base = false → nonCanonical (base + size - 1) = false →
    (t.xl.imports.any (fun (x : Nat × Win) => x.1 / 256 == t.ringPart r && x.1 != key && x.2.live && x.2.asid == t.ringAsid r &&
      decide (x.2.base < base + size) && decide (base < x.2.base + x.2.size))) = false →
    t.importBusy key = false →
    exec (.windowSet r pos) s = s.becomes
      (let w : Win := { live := true, asid := t.ringAsid r, base := base, size := size, offset := off, node := node, anyNode := false,
                        remote := e.body 28 2, rights := e.body 32 1 }
       State.doneWith { t with xl := { t.xl with imports := t.xl.imports.fput key w {} } } r pos)) ∧
  (∀ r pos (s t : State) e, let base := e.body 0 8; let size := e.body 8 8; let node := e.body 24 4
    let key := 256 * t.ringPart r + e.body 30 1
    t.exportBusy key = false →
    s.begun r pos 0x22 = some (t, e) → e.body 31 1 = 1 → e.body 33 1 = 0 → 0 < e.body 32 1 → e.body 32 1 < 8 → e.zero 34 30 = true →
    bitsOf node 20 11 = 0 → e.body 28 2 = 0 → e.body 16 8 = 0 → 65536 ≤ size → size % 65536 = 0 → size ≤ 2 ^ 40 → base % 65536 = 0 →
    base + size ≤ 2 ^ 64 → nonCanonical base = false → nonCanonical (base + size - 1) = false →
    exec (.windowSet r pos) s = s.becomes
      (let w : Win := { live := true, asid := t.ringAsid r, base := base, size := size, offset := 0, node := node % 2 ^ 20,
                        anyNode := bitOf node 31, remote := 0, rights := e.body 32 1 }
       State.doneWith { t with xl := { t.xl with exports := t.xl.exports.fput key w {} } } r pos)) ∧
  (∀ c p a (va : Word) need (s u : State) x, c < 4096 → p < 16 → a < 65536 → need < 8 → s.cacheServes c p = true →
    s.xlate c p a va.toNat need = (x, u) →
    exec (.translationWalk c p a va need) s = s.becomesR (match x with
      | .fail _ cause => u.walkFail c p a need cause 1 va.toNat
      | .uncorr pa => u.walkFail c p a need 0x10 2 pa
      | _ => u)) ∧
  (∀ n tag dt (s : State) x k, n < 16 → tag < 1024 →
    (((s.elapse dt).svc n).open_.find? fun (e : Nat × SvcReq) => e.1 == tag) = some (k, x) → x.written = true →
    x.at_ + (s.elapse dt).svcLimit n * 1000 ≤ (s.elapse dt).eng →
    exec (.svcTimeout n tag dt) s = s.becomes (((s.elapse dt).incF .XL_SVC_STATUS_TIMEOUTS n).svcFail n tag 0x06)) ∧
  (∀ r pos dt (s : State) e x, let t := s.elapse dt
    okPos r pos = true → t.entry? r pos = some e → e.stall = some x → x.since + t.waitUs x.queue * 1000 ≤ t.eng →
    exec (.faultWaitExpiry r pos dt) s = s.becomes
      (((t.dropParts r pos).finish r pos { status := stFQFULL, result := x.res.result, vis := x.res.vis }).leaveEngines r pos)) ∧
  (∀ q dt (s : State), let t := s.elapse dt
    q < 17 → (t.fb .XL_FQ_STATUS_FULL q || !(t.fq q).pend.isEmpty || !(t.fq q).waiting.isEmpty || (t.firstStall q).isSome) = true →
    exec (.faultQueuePoll q dt) s = s.becomesR (((s.elapse dt).fqRoom q).2.fqDrain q 8192))

/-- COUNTER_SET and COUNTER_SNAP with legal bodies are listed for their action time with the dies they name, and end DONE at once when they
name no counter; COUNTER_ACTION programs, starts, stops and clears the named counters of every working named die and hub and ends the
command with RESULT System Time; COUNTER_LATCH copies the named counters (and with CLEAR zeroes them), writes the snapshot record and
turns to the next; COUNTER_WRAP adds events to an enabled counter and marks the wrap; DEAL_SET with a legal body ends DONE (its schedule
is applied at its finish); MODE_SET, when no MODE_SET of its partition that started before it still waits, takes the next epoch number. -/
def Obligations.CountersAndDealsRun : Prop :=
  (∀ r pos (s t : State) e, let act := e.body 19 1; let m := e.body 8 8
    s.begun r pos 0x29 = some (t, e) → m < 2 ^ 36 → e.body 18 1 < 16 → act < 16 → ¬ (bitOf act 2 = true ∧ bitOf act 3 = true) →
    e.body 20 1 < 2 → e.body 21 1 < 16 → e.zero 22 42 = true → (bitOf act 0 = true → e.zero 208 48 = true ∧ ∀ i < 36, ctrSel e i < 2 ^ 17) →
    (m = 0 → exec (.counterSet r pos) s = s.becomes (t.doneWith r pos)) ∧
    (m ≠ 0 → t.ctrNames r e = none → (bitOf act 0 = true → ctrSelsOk e = true) → (e.body 20 1 = 1 → (t.ctrSched r e).defined = true) →
      exec (.counterSet r pos) s = s.becomes
        { t with ctrOps := t.ctrOps ++ [{ ring := r, pos := pos, dies := maskOf (t.ctrDies r (e.body 16 2)) }] })) ∧
  (∀ r pos (s t u : State) e hs, let m := e.body 8 8; let n := e.body 36 4; let dest := e.body 24 8
    let dies := maskOf (t.ctrDies r (e.body 16 2))
    s.begun r pos 0x2A = some (t, e) → m < 2 ^ 36 → m ≠ 0 → e.body 18 1 < 16 → e.body 19 1 < 2 → e.body 20 1 < 2 → e.body 21 1 < 16 →
    e.zero 22 2 = true → e.zero 40 24 = true → n ≠ 0 → n ≤ 65536 → (e.body 20 1 = 0 → n = 1) → dest % 64 = 0 →
    t.ctrOps.any (fun o => o.ring == r && o.pos == pos) = false → t.ctrNames r e = none →
    (e.body 20 1 = 1 → (t.ctrSched r e).defined = true) → n * snapLen m dies (e.body 18 1) ≤ e.body 32 4 →
    t.snapHold r pos (spans dest (n * snapLen m dies (e.body 18 1))) [] = (some hs, u) →
    exec (.counterSnap r pos) s = s.becomes
      { (u.modEntry r pos fun e => { e with holds := hs }) with ctrOps := u.ctrOps ++ [{ ring := r, pos := pos, dies := dies }] }) ∧
  (∀ r pos dt (s : State) o e time, let t := s.elapse dt
    okPos r pos = true → t.ctrOps.find? (fun o => o.ring == r && o.pos == pos) = some o → t.entry? r pos = some e → e.op = 0x29 →
    e.active = true → t.hubWorks (t.ringHub r) = true → e.phase ≠ 4 → t.ctrTime o e = some time → time ≤ t.now →
    t.inOrder time = true → t.ctrBlocked o time false = false →
    exec (.counterAction r pos dt) s = s.becomes
      (let u := ((bitList o.dies 16).filter t.dieWorks).foldl (fun s n => s.ctrSetDie e n) t
       let u := ((bitList (e.body 18 1) 4).filter u.hubWorks).foldl (fun s h => s.ctrSetHub e h) u
       (u.dropCtr r pos).doneWith r pos u.now)) ∧
  (∀ r pos dt (s u v : State) o e time b, let t := s.elapse dt; let n := t.snapNext o e; let rl := snapLen (e.body 8 8) o.dies (e.body 18 1)
    okPos r pos = true → t.ctrOps.find? (fun o => o.ring == r && o.pos == pos) = some o → t.entry? r pos = some e → e.op = 0x2A →
    e.active = true → t.hubWorks (t.ringHub r) = true → e.phase ≠ 4 → t.ctrTime o e = some time → time ≤ t.now →
    t.inOrder time = true → t.ctrBlocked o time true = false → o.latched = none → t.latch e o.dies n = (b, u) →
    u.snapWrite r pos (e.body 24 8 + n * rl) b = (.done, v) → n + 1 < e.body 36 4 →
    exec (.counterLatch r pos dt) s = s.becomesR
      ((v.modEntry r pos fun e => { e with phase := 0 }).setCtr r pos { o with done := n + 1, latched := none })) ∧
  (∀ c add (s : State), c < 320 → s.fb .CTR_SEL_ENABLE c = true → s.f .CTR_SEL_SEL c % 256 ≠ 0 → 2 ^ 64 ≤ s.f .CTR_VAL_VALUE c + add →
    ∃ t, exec (.counterWrap c add) s = .next t ∧ t.f .CTR_SEL_WRAPPED c = 1 ∧
      t.f .CTR_VAL_VALUE c = (s.f .CTR_VAL_VALUE c + add) % 2 ^ 64) ∧
  (∀ r pos (s t : State) e, let period := e.body 0 8; let k := e.body 16 1
    s.begun r pos 0x30 = some (t, e) → k < 16 → e.body 17 1 < 2 → e.zero 18 46 = true →
    (if e.body 17 1 = 1 then period = 0 ∧ e.body 8 8 = 0 else 1000 ≤ period ∧ period ≤ 1000000000) →
    (t.ringModule r = true ∨ t.schedUsed (t.ringPart r) k = false) →
    exec (.dealSet r pos) s = s.becomes (t.doneWith r pos)) ∧
  (∀ r pos (s t : State) e, let p := t.ringPart r; let m := t.modeOf p; let k := (m.last + 1) % 2 ^ 32
    s.begun r pos 0x38 = some (t, e) → e.body 8 8 < 64 → e.zero 16 48 = true → t.modeSetBefore r pos = false →
    exec (.modeSet r pos) s = s.becomes
      (State.finishModes (t.setMode p
        { m with last := k, lastMode := e.body 8 8, epochs := m.epochs ++ [⟨k, e.body 0 8, e.body 8 8, r, pos⟩] }) p))

/-- BEACON_SEND sends on every port that is up, once in each microsecond of System Time, a type 2 frame with SEQ 0, the port's ACK and NAK and
the body of Table 14-3 for that moment; BEACON_RECEIVE on a port that is up or retraining notes the partner and the arrival and does no
more with beacons off or NO_TIME set; otherwise it shows the delay, and the dealer notes a competing dealer of lower serial number, or a
follower chooses its upstream port again and, if that is this port, disciplines its counter by the offset (and its rate, when this beacon
measured the delay); BEACON_TIMEOUT after 2 µs of silence drops the port as a candidate; HOLDOVER_EXPIRY after 60 s makes time EXPIRED and
leaves the tables; CONFLICT_EXPIRY after 1 ms without a second dealer clears CONFLICT. -/
def Obligations.TimeEventsRun : Prop :=
  (∀ h q dt (s : State), let t := s.elapse dt; let p := 4 * h + q
    h < 4 → q < 4 → t.tlsUp p = true → (∀ x l, (t.tport p).sent = x :: l → x.1 / 1000 ≠ t.time.now / 1000) →
    ∃ u, exec (.beaconSend h dt) s = .next u ∧ (u.tport p).sent = ((t.time.now, t.time.frac) :: (t.tport p).sent).take 16 ∧
      (∃ a b, (p, tilusFrame 0 (t.tls p).rxSeq (t.tls p).nakOut 2 a b ((t.tls p).back.getD 8 0) (beaconBody (t.beaconOf p))) ∈ u.out.tls) ∧
      u.time.now = t.time.now ∧ u.regs = t.regs) ∧
  (∀ p f dt (s : State), let t := s.elapse dt; let b := beaconOfBody f.body
    p < 16 → f.body.length = 768 → (t.f .TLS_PSTAT_STATE p = 2 ∨ t.f .TLS_PSTAT_STATE p = 3) →
    ((t.noteBeacon p b).fb .TIME_CTRL_BEACON_EN = false ∨ b.noTime = true) →
    exec (.beaconReceive p f dt) s = s.becomes (t.noteBeacon p b)) ∧
  (∀ p f dt (s : State), let t := s.elapse dt; let b := beaconOfBody f.body; let delay := t.measure p b f.behind
    let u := ((t.noteBeacon p b).showDelay p delay).timeBeacon p b; let c := u.rechoose
    p < 16 → f.body.length = 768 → (t.f .TLS_PSTAT_STATE p = 2 ∨ t.f .TLS_PSTAT_STATE p = 3) →
    (t.noteBeacon p b).fb .TIME_CTRL_BEACON_EN = true → b.noTime = false → u.fb .TIME_CTRL_ROLE = false →
    (c.f .TIME_STATUS_UPPORT ≠ p → exec (.beaconReceive p f dt) s = s.becomes c) ∧
    (c.f .TIME_STATUS_UPPORT = p → ∀ d, delay = some d → let up := tick b.txTime b.txFrac + d
      exec (.beaconReceive p f dt) s = s.becomes ((c.trackRate up).followUp (up - tick c.time.now c.time.frac))) ∧
    (c.f .TIME_STATUS_UPPORT = p → delay = none →
      let up := tick b.txTime b.txFrac + toSigned 32 (c.f .TIME_PORT_DELAY p) * 65536 / 1000
      exec (.beaconReceive p f dt) s = s.becomes (c.followUp (up - tick c.time.now c.time.frac)))) ∧
  (∀ p f dt (s : State), let t := s.elapse dt; let b := beaconOfBody f.body
    let u := ((t.noteBeacon p b).showDelay p (t.measure p b f.behind)).timeBeacon p b
    p < 16 → f.body.length = 768 → (t.f .TLS_PSTAT_STATE p = 2 ∨ t.f .TLS_PSTAT_STATE p = 3) →
    (t.noteBeacon p b).fb .TIME_CTRL_BEACON_EN = true → b.noTime = false → u.fb .TIME_CTRL_ROLE = true →
    b.dealer.toNat < u.fuse.serial → u.fb .TIME_STATUS_CONFLICT = false →
    ∃ v, exec (.beaconReceive p f dt) s = .next v ∧ v.f .TIME_STATUS_CONFLICT = 1 ∧ v.time.conflictAt = u.eng) ∧
  (∀ p dt (s : State) x, let t := s.elapse dt
    p < 16 → (t.tls p).lastBeacon + 2000 ≤ t.eng → t.tlsUp p = true → (t.tport p).lastAt = some x → t.fb .TIME_PORT_VALID p = true →
    x + 2000 ≤ t.eng → exec (.beaconTimeout p dt) s = s.becomes ((t.setF .TIME_PORT_LOST p 1).dropBeacons p)) ∧
  (∀ dt (s : State), let t := s.elapse dt
    t.tstate = tsHOLDOVER → t.time.holdFrom + 60000000000 ≤ t.eng →
    exec (.holdoverExpiry dt) s = s.becomes (t.setTstate tsEXPIRED).leaveAll) ∧
  (∀ dt (s : State), let t := s.elapse dt
    t.fb .TIME_STATUS_CONFLICT = true → t.time.conflictAt + 1000000 ≤ t.eng →
    exec (.conflictExpiry dt) s = s.becomes (t.setF .TIME_STATUS_CONFLICT 0 0))

/-- TABLE_JOIN that names a free table on legal operands takes its slot and passes its join on; with LEAVE it ends the table with ABORTED; one
that repeats the index of the member being formed here ends with PARAM and passes its join on. A TABLE_CTL join is counted or passed on by
a table being formed, answered with PARAM beside one refused, or held for a TABLE_JOIN still to come; start forms the table; loss and
leave end it for the neighbours but the sender, a loss with PARAM refuses one being formed, and without a member here joins that wait are
answered. At FIRST_DEAL an unformed table ends with LATE. A step is evaluated by the ready word: ARRIVED when it exceeds the step, else
LATE, then re-read each microsecond for every step it is late for. A marker is combined and passed on; WAIT_LIMIT completes a step with
LATE; a step record in order has its held time counted and joins those to be written; an acknowledgement overdue ends the table with
REMOTE_LOST. -/
def Obligations.TableCommandsRun : Prop :=
  (∀ r pos (s t u v w : State) e ly area nodes, let p := t.ringPart r; let id := e.body 0 4; let n := e.body 4 4; let i := e.body 8 4
    s.begun r pos 0x32 = some (t, e) → e.body 48 1 < 16 → e.body 49 1 < 3 → 4 ≤ e.body 50 1 → e.body 50 1 ≤ 16 → e.body 51 1 = 0 →
    e.zero 52 12 = true → i < n → n ≤ 131072 → e.body 12 4 ≤ 1000000 → e.body 24 8 % 64 = 0 → e.body 32 8 % 8 = 0 →
    (t.sched (schedKey p (e.body 48 1))).defined = true → (t.table (tkey p id)).live = false →
    t.joinRefused p (t.table (tkey p id)) e = false → (t.partTables p).length < 16 →
    t.liveTables.length < 64 → (t.f .TIME_STATUS_STATE = 2 ∨ t.f .TIME_STATUS_STATE = 5) →
    t.cmdXlate (t.cmdCache r) r (e.body 32 8) 1 = (.ok ly, u) →
    u.holdArea r pos (areaPages (e.body 24 8) (64 * 2 ^ e.body 50 1)) = (some area, v) →
    v.readNodes r pos (e.body 16 8) ([i] ++ (if i = 0 then [] else [(i - 1) / 16]) ++ treeKids i n) = (some nodes, w) →
    exec (.tableJoin r pos) s = s.becomesR (w.joinTable r pos e (w.holdOf r (e.body 32 8) ly) area nodes)) ∧
  (∀ r pos (s t : State) e, let k := tkey (t.ringPart r) (e.body 0 4)
    s.begun r pos 0x32 = some (t, e) → e.body 48 1 < 16 → e.body 49 1 < 3 → e.body 50 1 < 32 → e.body 51 1 = 1 → e.zero 52 12 = true →
    (t.table k).live = true → (t.f .TIME_STATUS_STATE = 2 ∨ t.f .TIME_STATUS_STATE = 5) →
    exec (.tableJoin r pos) s = s.becomesR
      ((t.setTable k { t.table k with leaving := some (r, pos) }).endTable (t.ringPart r) (e.body 0 4) stABORTED .leave none)) ∧
  (∀ r pos (s t : State) e, let p := t.ringPart r; let k := tkey p (e.body 0 4)
    s.begun r pos 0x32 = some (t, e) → e.body 48 1 < 16 → e.body 49 1 < 3 → 4 ≤ e.body 50 1 → e.body 50 1 ≤ 16 → e.body 51 1 = 0 →
    e.zero 52 12 = true → e.body 8 4 < e.body 4 4 → e.body 4 4 ≤ 131072 → e.body 12 4 ≤ 1000000 → e.body 24 8 % 64 = 0 →
    e.body 32 8 % 8 = 0 → (t.sched (schedKey p (e.body 48 1))).defined = true → (t.table k).live = true → (t.table k).formed = false →
    (t.table k).index = e.body 8 4 → ((t.table k).ring, (t.table k).pos) ≠ (r, pos) →
    exec (.tableJoin r pos) s = s.becomesR ((t.endWith r pos stPARAM).takeJoin p (e.body 0 4) (t.joinMsg p e))) ∧
  (∀ p id src dt (s : State), let u := s.elapse dt; let t := u.table (tkey p id)
    okTable p id = true →
    (∀ ix n wl fd pol per anc, t.live = true → t.formed = false →
      exec (.tableCtl p id src (.join ix n wl fd pol per anc) dt) s = s.becomesR (u.takeJoin p id (.join ix n wl fd pol per anc))) ∧
    (∀ ix n wl fd pol per anc, let m : TableMsg := .join ix n wl fd pol per anc
      t.live = false → joinLate m u.now = false →
      (t.mismatch = true → exec (.tableCtl p id src m dt) s = s.becomesR (u.answerJoin p id src stPARAM))) ∧
    (∀ ix n wl fd pol per anc, let m : TableMsg := .join ix n wl fd pol per anc
      t.live = false → t.mismatch = false → joinLate m u.now = false →
      exec (.tableCtl p id src m dt) s = s.becomesR (u.setTable (tkey p id) { t with early := t.early ++ [(src, m)] })) ∧
    (t.live = true → t.formed = false → t.index ≠ 0 → exec (.tableCtl p id src .start dt) s = s.becomesR (u.formTable p id)) ∧
    (t.live = true → ∀ st, (t.formed = true ∨ st ≠ stPARAM) →
      exec (.tableCtl p id src (.loss st) dt) s = s.becomesR (u.endTable p id st (.loss st) (some src))) ∧
    (t.live = true → t.formed = false →
      exec (.tableCtl p id src (.loss stPARAM) dt) s = s.becomesR (u.refuseTable p id stPARAM (some src))) ∧
    (t.live = false → ∀ st, exec (.tableCtl p id src (.loss st) dt) s = s.becomesR (u.answerEarly p id st fun _ => true)) ∧
    (t.live = true → exec (.tableCtl p id src .leave dt) s = s.becomesR (u.endTable p id stABORTED .leave (some src)))) ∧
  (∀ p id dt (s : State), let u := s.elapse dt; let t := u.table (tkey p id); let c := u.tableSched p t
    okTable p id = true → t.live = true → c.defined = true →
    (t.formed = false → t.index = 0 → c.boundary t.firstDeal ≤ u.now →
      exec (.tableJoinDeadline p id dt) s = s.becomes
        (let v := u.endTable p id stLATE (.loss stLATE) none
         if (v.table (tkey p id)).live then v else v.answerEarly p id stLATE fun m => joinLate m v.now)) ∧
    (∀ w v, t.running = true → t.evaluated = false → u.stepAt p t ≤ u.now → u.readReady p id t = (.done w, v) →
      exec (.stepEvaluate p id dt) s = s.becomesR
        (let x := v.setTable (tkey p id) { v.table (tkey p id) with evaluated := true, readAt := v.eng }
         (if (v.table (tkey p id)).step < w then x.postArrived p id else x.postLate p id).settleTable p id)) ∧
    (∀ w v, t.running = true → t.owes ≠ [] → t.readAt + 1000 ≤ u.eng → u.readReady p id t = (.done w, v) →
      exec (.readyReread p id dt) s = s.becomesR
        (let y := v.table (tkey p id)
         let met := y.owes.filter fun k => decide (k < w)
         let x := v.setTable (tkey p id)
           { y with readAt := v.eng, owes := y.owes.filter fun k => !decide (k < w)
                    discarded := y.discarded + (met.filter fun k => k != y.step).length }
         (if met.contains y.step then x.postArrived p id else x).settleTable p id)) ∧
    (t.formed = true → t.writing = none → t.index = 0 → t.policy ≠ 2 → t.waitLimit ≠ 0 → u.stepAt p t + t.waitLimit * 1000 ≤ u.now →
      exec (.stepWaitLimit p id dt) s = s.becomesR (u.completeStep p id stLATE))) ∧
  (∀ p id src m dt (s : State), let u := s.elapse dt; let t := u.table (tkey p id)
    okTable p id = true → t.live = true → t.formed = true → t.writing = none → m.step = t.step → t.childNodes.contains src = true →
    (m.isLate = true → exec (.marker p id src m dt) s = s.becomesR
      (((u.setTable (tkey p id) { t with lateCount := t.lateCount + m.lateCount, lateIdx := mergeLate t.lateIdx m.lateIdx }).sendMark p id
        m).settleTable p id)) ∧
    (m.isLate = false → t.doneKids.contains src = false → exec (.marker p id src m dt) s = s.becomesR
      (((u.setTable (tkey p id) { t with doneKids := src :: t.doneKids, arrived := t.arrived + m.arrived }).subtreeStep p id).settleTable
        p id))) ∧
  (∀ p id x dt (s : State), let u := s.elapse dt; let t := u.table (tkey p id); let c := u.countHeld p id x
    okTable p id = true → t.live = true → t.formed = true → t.index ≠ 0 → t.ending = none → t.writing.any (·.ending) = false →
    x.step = t.step + (if t.writing.isSome then 1 else 0) + t.recs.length →
    exec (.record p id x dt) s = s.becomesR ((c.setTable (tkey p id) { c.table (tkey p id) with recs := t.recs ++ [x] }).settleRecs p id)) ∧
  (∀ p id nbr dt at_ (s : State), let u := s.elapse dt; let t := u.table (tkey p id)
    okTable p id = true → t.live = true → (nbr, at_) ∈ t.owed →
    at_ + (if u.f .TLS_CTRL_REMOTE_US 0 = 0 then 1000 else u.f .TLS_CTRL_REMOTE_US 0) * 1000 ≤ u.eng →
    exec (.tableAckTimeout p id nbr dt) s = s.becomesR (u.endTable p id stREMOTELOST (.loss stREMOTELOST) (some nbr)))

/-- SLOT_RESERVE that passes its checks takes the lowest free reservation of its port, ends DONE with its number, and with RELEASE set ends a
reservation of its own partition; PWR_LIMIT with legal limits is listed for its time, in acceptance order; PARTITION_SET with legal
operands waits and then sets the partition and ends DONE once no forced window runs; DOMAIN_RESET of kind PARTITION stops the partition
and then finishes, with every stack still below 100 °C, of kind CORES, while no retrain window runs, writes back the L2 caches and holds
the cores, of kind HUB stops the hub, none of them held by R96; a command with an opcode of no row ends with PARAM. -/
def Obligations.SystemCommandsRun : Prop :=
  (∀ r pos (s t : State) e, let p := e.body 24 1 % 16
    s.begun r pos 0x31 = some (t, e) → bitOf (e.body 26 1) 7 = false → t.ringModule r = false → t.resvCheck r e = none →
    exec (.slotReserve r pos) s = s.becomes
      (let i := ((List.range 16).find? fun i => !t.resValid p i).getD 0
       let ix := resIx p i
       let u := (t.setF .TLS_RES_OFFSET_NS ix (e.body 12 4)).setF .TLS_RES_SLOT_NS ix (e.body 16 4)
       let u := (u.setF .TLS_RES_FLOW_FLOW_ID ix (e.body 20 4)).setF .TLS_RES_FLOW_KIND ix (e.body 26 1)
       let u := (u.setF .TLS_RES_FLOW_PART ix (u.ringPart r)).setF .TLS_RES_FLOW_SCHEDULE ix (e.body 25 1)
       let u := u.setF .TLS_RES_FLOW_VALID ix 1
       let u := u.setResv ix { firstDeal := e.body 0 8, count := e.body 8 4, since := 2 ^ 64 }
       (u.syncResv p).doneWith r pos i)) ∧
  (∀ r pos (s t : State) e, let p := e.body 24 1; let i := e.body 27 1
    s.begun r pos 0x31 = some (t, e) → e.zero 0 24 = true → p < 16 → e.body 25 1 = 0 → e.body 26 1 = 0x80 → i < 16 → e.zero 28 36 = true →
    t.resValid p i = true → (t.ringModule r = true ∨ t.f .TLS_RES_FLOW_PART (resIx p i) = t.ringPart r) →
    exec (.slotReserve r pos) s = s.becomes ((t.release p i).doneWith r pos)) ∧
  (∀ r pos (s t : State) e, let m := e.body 8 2; let d := e.body 10 2
    s.begun r pos 0x80 = some (t, e) → 4000 ≤ m → m ≤ 16500 → 200 ≤ d → d ≤ 800 → trumpOk (e.body 12 1) = true → e.zero 13 51 = true →
    exec (.pwrLimit r pos) s = s.becomes
      { t with power := { t.power with limits := addLimit t.power.limits ⟨r, pos, e.acceptNo, e.body 0 8, t.now, m, d, e.body 12 1⟩ } }) ∧
  (∀ r pos (s t : State) e, let dies := bitList (e.body 0 2) 16; let p := e.body 2 1; let hubs := e.body 3 1
    s.begun r pos 0x81 = some (t, e) → ((s.entry? r pos).filter fun e => e.op == 0x81 && e.waitsOn && s.canStart r e) = none →
    p < 16 → hubs < 16 → e.body 4 1 < 2 → e.zero 5 59 = true → (dies = [] → hubs = 0) → t.partSetBad p (hubs % 4) (hubs / 4 % 4) dies = false →
    exec (.partitionSet r pos) s = s.becomesR (t.modEntry r pos fun e => { e with phase := 9 })) ∧
  (∀ r pos (s : State) e, let dies := bitList (e.body 0 2) 16; let p := e.body 2 1; let hubs := e.body 3 1
    okPos r pos = true → s.entry? r pos = some e → e.op = 0x81 → e.waitsOn = true → s.canStart r e = true →
    (dies = [] ∨ (s.hubWorks (hubs % 4) = true ∧ s.hubWorks (hubs / 4 % 4) = true)) →
    ((List.range 176).any fun x => s.f .CRX_STATUS_STATE x == 3) = false → s.windowOn (s.partDies p ++ dies) = false →
    exec (.partitionSet r pos) s = s.becomesR ((s.setPartition p (hubs % 4) (hubs / 4 % 4) dies (bitOf (e.body 4 1) 0)).doneWith r pos)) ∧
  (∀ r pos (s u : State) e x, let v := s.markRunning r pos
    okPos r pos = true → s.entry? r pos = some e → e.op = 0x84 → s.hubWorks (s.ringHub r) = true → e.res.isSome = false → e.stall.isSome = false →
    (e.st = .accepted ∨ e.waitsOn = true) → ¬(e.waitsOn = true ∧ e.body 0 1 = 0) → v.headCheck r e = none →
    v.flagTaken r pos e = some (u, x) → u.resetCheck r x = none →
    (x.body 0 1 = 0 → exec (.domainReset r pos) s = s.becomesR ((u.partResetStart (x.body 1 1) r pos).modEntry r pos fun e => { e with phase := 9 })) ∧
    (x.body 0 1 = 1 → u.windowOn (u.partDies (x.body 1 1)) = false → exec (.domainReset r pos) s = s.becomesR
      (let l2 := (u.partDies (x.body 1 1)).flatMap fun n => (List.range 16).map fun c => 32 * n + 4 + c
       ((u.giveUpAll l2.contains).holdCores (x.body 1 1)).doneWith r pos)) ∧
    (x.body 0 1 = 2 → (u.rst.hubReset.any fun (y : Nat × (Nat × Nat)) => y.1 == x.body 1 1) = false →
      exec (.domainReset r pos) s = s.becomesR
        (let w := (u.hubDown (x.body 1 1) 0).resetHub (x.body 1 1)
         { w with rst := { w.rst with hubReset := w.rst.hubReset ++ [(x.body 1 1, (r, pos))] } }))) ∧
  (∀ r pos (s : State) e, okPos r pos = true → s.entry? r pos = some e → e.op = 0x84 → s.hubWorks (s.ringHub r) = true → e.res.isSome = false →
    e.stall.isSome = false → e.waitsOn = true → e.body 0 1 = 0 → s.windowOn (s.partDies (e.body 1 1)) = false → s.hotStack (e.body 1 1) = false →
    exec (.domainReset r pos) s = s.becomesR (s.partResetEnd (e.body 1 1) r pos (bitOf (e.body 2 1) 0))) ∧
  (∀ r pos (s : State) e, okPos r pos = true → s.entry? r pos = some e → ringKinds e.op = none → s.canStart r e = true →
    exec (.reservedOpcode r pos) s = s.becomes ((s.markRunning r pos).endWith r pos stPARAM))

/-- KEY_INSTALL into a slot that is not live and KEY_RETIRE of a slot that may be retired ask the identity keeper for the commit (a claim
marks it so); FIREWALL_SET writes its rule, or clears it; GUEST_ADMIT admits a waiting guest on a link its modes allow whose identity
agrees, and expels an admitted one; ATTEST joins the signing queue, or, signed, goes on writing its report; BOOT_RELEASE that reads its
image, key and signature judges it, and with no root key programmed starts the partition's cores exactly when the signature verifies. -/
def Obligations.SecurityCommandsRun : Prop :=
  (∀ r pos (s t : State) e, let i := e.body 0 1
    s.begun r pos 0x82 = some (t, e) → i < 16 → e.body 1 1 < 18 → 0 < e.body 2 2 → e.body 2 2 < 512 → e.body 4 1 < 2 → e.zero 5 3 = true →
    e.zero 48 16 = true → (t.keySlot i).state ≠ 1 →
    exec (.keyInstall r pos) s = s.becomes
      (t.askKeeper (.slot r pos i { state := 1, key := e.newKey, rights := e.body 2 2, scope := e.body 1 1, last := e.body 8 8 } (t.isClaim r e)))) ∧
  (∀ r pos (s t : State) e, let i := e.body 0 1
    s.begun r pos 0x83 = some (t, e) → i < 16 → e.zero 1 63 = true → e.retried = false → t.keeper.retireOk i = none →
    exec (.keyRetire r pos) s = s.becomes (t.askKeeper (.slot r pos i { state := 2 } false))) ∧
  (∀ r pos (s t : State) e, let base := e.body 0 8; let size := e.body 8 8; let k := e.body 16 1; let i := e.body 17 1
    s.begun r pos 0x85 = some (t, e) → k < 2 → i < 16 → e.body 18 1 < 8 → e.body 19 1 < 16 → e.zero 21 43 = true →
    (e.body 20 1 = 1 → e.zero 0 16 = true → e.body 18 1 = 0 → e.body 19 1 = 0 →
      exec (.firewallSet r pos) s = s.becomes (((t.serveGuest k true).clearRule k i).doneWith r pos)) ∧
    (e.body 20 1 = 0 → base % 65536 = 0 → base < 2 ^ 52 → size % 65536 = 0 → 65536 ≤ size → size ≤ 2 ^ 40 → e.body 18 1 ≠ 0 →
      t.partValid (e.body 19 1) = true →
      ((List.range 16).any fun j => j != i && t.ruleValid k j && meets base size (t.ruleBase k j) (t.ruleSize k j)) = false →
      exec (.firewallSet r pos) s = s.becomes
        (let u := (t.serveGuest k true).setF .CRX_GRULE_BASE_BASE (ruleIx k i) (base / 65536)
         let u := (u.setF .CRX_GRULE_SIZE_SIZE (ruleIx k i) (size / 65536)).setF .CRX_GRULE_SIZE_RIGHTS (ruleIx k i) (e.body 18 1)
         ((u.setF .CRX_GRULE_SIZE_PART (ruleIx k i) (e.body 19 1)).setF .CRX_GRULE_SIZE_VALID (ruleIx k i) 1).doneWith r pos))) ∧
  (∀ r pos (s t : State) e, let k := e.body 0 1; let link := t.f .CRX_STATUS_LINK (guestEnd k)
    s.begun r pos 0x86 = some (t, e) → k < 2 → e.body 1 1 = 0 → 0 < e.body 2 2 → e.body 2 2 ≤ 256 → e.body 4 2 ≤ 320 → e.body 6 1 < 4 →
    e.zero 7 1 = true → e.zero 24 40 = true → t.f .CRX_GSTAT_STATE k = 2 → bitOf (e.body 6 1) (if link = 0 then 0 else 1) = true →
    (e.zero 8 16 = true ∨ (e.body 8 8 = t.f .CRX_GID_LO_ID k ∧ e.body 16 8 = t.f .CRX_GID_HI_ID k)) →
    exec (.guestAdmit r pos) s = s.becomes
      (let u := ((t.setF .CRX_GSTAT_STATE k 3).setF .CRX_GSTAT_MAX_OUT k (e.body 2 2)).setF .CRX_GSTAT_RATE k (e.body 4 2)
       (u.setGuest k { u.guest k with moved := 0, since := t.eng, creditAt := 0 }).doneWith r pos link)) ∧
  (∀ r pos (s t : State) e, let k := e.body 0 1
    s.begun r pos 0x86 = some (t, e) → k < 2 → e.body 1 1 = 1 → e.zero 2 5 = true → e.zero 7 1 = true → e.zero 8 16 = true →
    e.zero 24 40 = true → t.f .CRX_GSTAT_STATE k = 3 →
    exec (.guestAdmit r pos) s = s.becomes ((t.setF .CRX_GSTAT_STATE k 4).setGuest k { t.guest k with expel := some (r, pos) })) ∧
  (∀ r pos (s t : State) e, s.begun r pos 0x87 = some (t, e) → e.body 32 8 % 64 = 0 → e.zero 44 20 = true → 11397 ≤ e.body 40 4 →
    (t.keeper.reports.find? fun x => x.1 == r && x.2.1 == pos) = none → t.keeper.exhausted = false →
    exec (.attest r pos) s = s.becomes
      (State.nextSign { t with keeper := { t.keeper with waiting := t.keeper.waiting ++ [(r, pos)] } } (t.keeper.waiting.length + 2))) ∧
  (∀ r pos (s t : State) e a b x, s.begun r pos 0x87 = some (t, e) → e.body 32 8 % 64 = 0 → e.zero 44 20 = true → 11397 ≤ e.body 40 4 →
    (t.keeper.reports.find? fun x => x.1 == r && x.2.1 == pos) = some (a, b, x) →
    exec (.attest r pos) s = s.becomes (t.writeReport r pos x.2)) ∧
  (∀ r pos (s t u v w x : State) e h img pk sig, let p := e.body 0 1; let image := e.body 8 8; let size := fldB h 8 8
    s.begun r pos 0x88 = some (t, e) → p < 16 → e.body 1 1 < 2 → e.zero 2 6 = true → e.zero 32 32 = true →
    (t.ringModule r = true ∨ t.ringPart r = p) → t.partValid p = true →
    (((t.partDies p).filter t.dieWorks).all fun n => t.fb .RST_DIE_CORES_HELD n) = true → image % 4096 = 0 → t.rangeIn p image 64 = true →
    t.bootRead r pos p image 64 = (some h, u) → fldB h 0 4 = 1 → 1 ≤ size → size ≤ 2 ^ 32 → fldB h 16 8 % 4 = 0 → fldB h 16 8 < size + 64 →
    ((sliceB h 26 38).all fun b => b == 0) = true → u.rangeIn p image (64 + size) = true → u.rangeIn p (e.body 16 8) 68 = true →
    u.rangeIn p (e.body 24 8) 2820 = true →
    State.bootRead (State.setF { u with keeper := { u.keeper with bootRange := u.keeper.bootRange.fput p (image, image + 64 + size) (0, 0) } }
      .SEC_BOOT_STATE p 1) r pos p image (64 + size) = (some img, v) →
    v.bootRead r pos p (e.body 16 8) 68 = (some pk, w) → w.bootRead r pos p (e.body 24 8) 2820 = (some sig, x) →
    exec (.bootRelease r pos) s = s.becomes (x.bootJudge r pos p e img pk sig) ∧
    (x.keeper.rootHash = none →
      exec (.bootRelease r pos) s = s.becomes
        (let y := { x with keeper := { x.keeper with bootHash := x.keeper.bootHash.fput p (leNat (shake256 img 32)) 0 } }
         if xmssVerify pk sig img = true then y.startCores r pos p image (fldB img 16 8) (fldB img 4 4)
         else y.bootFail r pos p stTAG 2 true)))

/-- At a due scan time a live ring begins to read its producer word; a value in range above ACCEPT starts fetching, one out of range sets
PROD_ERR; a packet whose slots the producer covers is fetched and journalled while the tally has room; its mirror's acknowledgement
accepts it, and releases an entry already DELIVERED; a finished command that awaits no service reply writes its flag, unless it has none
or the flag has gone, becomes FINISHED, and flushes the port of a flag that another port than the record's carried; the oldest FINISHED
record is delivered, its entry kept as DELIVERED while the ring has a mirror; WAIT_FLAG reads its word again after POLL and ends with LATE
and the last word read at TIMEOUT; WAIT_TIME ends with DONE and RESULT System Time once System Time reaches TIME. -/
def Obligations.RingEventsRun : Prop :=
  (∀ r dt (s : State), let t := s.elapse dt
    r < 256 → t.ringOn r = true → t.ringHeld r = false → t.scanDue r = true → (t.ring r).scan = .idle → (t.scanTime r).all t.inOrder = true →
    exec (.ringScan r dt) s = s.becomes
      (t.setRing r { t.ring r with scan := .reading 0, nextDeal := (t.sched (schedKey (t.ringSet r) (t.f .RING_CTRL_SCHEDULE r))).after t.now })) ∧
  (∀ r dt prev (s u : State) b, let t := s.elapse dt
    r < 256 → (t.ring r).scan = .reading prev → t.ringOn r = true → t.f .RING_CTRL_SCAN r ≠ 0 → t.ringHeld r = false →
    (t.incF .RING_STATUS_SCANS r).readLoc ((t.incF .RING_STATUS_SCANS r).ringLoc r ((t.incF .RING_STATUS_SCANS r).ringProd r)) .narrow 8 =
      (.ok b, u) →
    let w := u.setRing r { u.ring r with scan := .idle, lastRead := u.eng }
    ((leNat b < u.f .RING_ACCEPT_POS r ∨ w.f .RING_DONE_POS r + w.ringSlots r < leNat b) →
      exec (.producerRead r dt) s = s.becomesR (w.setF .RING_STATUS_PROD_ERR r 1)) ∧
    (u.f .RING_ACCEPT_POS r ≤ leNat b → leNat b ≤ w.f .RING_DONE_POS r + w.ringSlots r →
      exec (.producerRead r dt) s = s.becomesR
        (if max (u.f .RING_ACCEPT_POS r) prev < leNat b then w.setScan r (.fetching (leNat b)) else w))) ∧
  (∀ r dt upTo (s v w : State) h pkt, let t := s.elapse dt; let pos := t.f .RING_ACCEPT_POS r
    r < 256 → (t.ring r).scan = .fetching upTo → t.ringOn r = true → t.ringHeld r = false → (t.ring r).fetched = none →
    (t.ring r).committed = none → ((t.ring r).entries.find? fun e => e.st == .written) = none → t.tallyFull r = false →
    t.readSlots r pos 1 = (.ok h, v) → pos + fldB h 1 1 % 16 + 1 ≤ upTo → v.readSlots r pos (fldB h 1 1 % 16 + 1) = (.ok pkt, w) →
    exec (.packetFetch r dt) s = s.becomesR (w.journal r pos pkt)) ∧
  (∀ r pos dt (s : State) e, let t := s.elapse dt
    okPos r pos = true → t.entry? r pos = some e → e.st = .written → t.ringOn r = true → t.ringHeld r = false →
    exec (.tallyAck r pos dt) s = s.becomes (t.acceptEntry r pos)) ∧
  (∀ r pos dt (s : State), let t := s.elapse dt
    okPos r pos = true → t.entry? r pos = none →
    exec (.tallyAck r pos dt) s = s.becomes
      (State.tallySync (t.setRing r { t.ring r with delivered := (t.ring r).delivered.filter fun y => y.pos != pos }) t r)) ∧
  (∀ r pos dt (s : State) e x, let t := s.elapse dt; let ok := x.status == stDONE || x.status == stREPLAYED
    let fin := fun (u : State) =>
      let u := u.modEntry r pos fun e => { e with st := .finished, res := some x }
      let u := if e.op = 0x30 && ok then u.applyDeal r e else u
      if e.op = 0x31 && ok then u.startResv e x.result else u
    okPos r pos = true → t.entry? r pos = some e → e.ready = true → t.hubWorks (t.ringHub r) = true → t.tagHeld r pos = false → e.res = some x →
    ((e.flag = none ∨ e.sent = true) → exec (.commandFinish r pos dt) s = s.becomesR (fin t)) ∧
    (∀ h l u v, e.flag = some h → e.sent = false → t.useHeld (t.cmdCache r) h 2 = (.ok l, u) →
      u.writeLoc l .narrow (leBytes 8 (flagValue e x.status)) = (none, v) →
      exec (.commandFinish r pos dt) s = s.becomesR
        (let w := fin (v.noteHostW r l)
         match l.hostAt?, (w.ringLoc r 0).port? with
         | some (k, a), some y => if k ≠ y then w.sendFlush r pos [(k, a)] else w
         | _, _ => w))) ∧
  (∀ r dt (s : State) e l, let t := s.elapse dt
    r < 256 → (t.ring r).entries = e :: l → e.st = .finished → e.flush = [] → e.remoteOpen = 0 → t.hubWorks (t.ringHub r) = true →
    t.fb .RING_STATUS_HOST_STOPPED r = false → (t.ring r).dropping = false →
    exec (.recordDeliver r dt) s = s.becomes
      (let u := (t.writeRecord r e (e.res.getD {})).chkEnd r e.pos (e.res.getD {}).status
       let x := u.ring r
       let u := u.setRing r { x with entries := x.entries.drop 1
                                     delivered := if (u.ringMirror r).isSome then x.delivered ++ [e] else x.delivered }
       let u := (u.setF .RING_DONE_POS r (e.pos + e.slots + 1)).writeCons r
       let u := (u.syncRing r).tallySync t r
       u.evHub (u.ringHub r) 0x25 0 (if u.ringModule r then 16 else u.ringPart r) 1)) ∧
  (∀ r pos dt (s : State) e h, let t := s.elapse dt
    okPos r pos = true → t.entry? r pos = some e → e.op = 0x03 → e.active = true → t.tagHeld r pos = false →
    t.hubWorks (t.ringHub r) = true → e.pollAt + e.pollNs ≤ t.eng → e.holds.head? = some h →
    exec (.waitFlagPoll r pos dt) s = s.becomesR (t.pollWait r pos e h)) ∧
  (∀ r pos dt (s : State) e, let t := s.elapse dt
    okPos r pos = true → t.entry? r pos = some e → e.active = true →
    (e.op = 0x03 → e.body 24 4 ≠ 0 → e.startAt + e.body 24 4 * 1000 ≤ t.eng →
      exec (.waitFlagTimeout r pos dt) s = s.becomes (t.finish r pos { status := stLATE, result := e.prog })) ∧
    (e.op = 0x04 → e.body 0 8 ≤ t.now → t.inOrder (e.body 0 8) = true → exec (.waitTimeResume r pos dt) s = s.becomes (t.doneWith r pos t.now)))

/-- An issued instruction whose fields are in order does this: scalar arithmetic writes s[D] when any lane executes, with free bits above a
32-bit result; BRANCH moves the running path, or pushes both paths and reconverges at RP while the stack has room (its condition and the
jump's count of backward branches: notes/assumptions/15); the indirect jump pushes one path for each distinct target and reconverges at
RP; END drops its lanes and ends a group with none left; BAR waits at the barrier, and BAR_RELEASE lets a team go on that all waits there;
MEMBAR writes back and drops near-cache lines of its scope; TRAP with no lane executing goes on, else ends the kernel with the operand as
info; TIMERD, UNITID and counter read write s[D], LANEID the lane number to v[D]. -/
def Obligations.ScalarAndControlRun : Prop :=
  (∀ g op w (s t : State), s.issued g 0 none w (fun _ _ => scalarOk op w) = some t →
    exec (.scalarArithmetic g op w) s = s.becomes
      (let x := t.group g
       let v := scalarOut w.fmt (Config.freeBits t.free).toNat (scalarVal op w.fmt (x.sget w.a) (x.sget w.b) (x.thirdS w))
       State.retire { t with free := t.free + 1 } g 0 ((if x.exec w = 0 then x else x.sput w.d v).next w))) ∧
  (∀ g w (s t : State), let x := t.group g; let l := (w.lit.getD 0).toNat; let target := branchTo x.pc (l % 2 ^ 32)
    s.issued g 0 none w (fun _ _ => branchOk w) = some t → (x.exec w = 0 ∨ target % 8 = 0) →
    (x.exec w = 0 ∨ andNot x.lanes (x.exec w) = 0 ∨ x.deep 2 = false) →
    exec (.branch g w) s = s.becomes (t.retire g 0 (x.branch (wordLen w) target (branchTo x.pc (l / 2 ^ 32)) (x.exec w)))) ∧
  (∀ g w (s t : State), let x := t.group g; let m := x.exec w; let off := andNot x.lanes m
    let rp := branchTo x.pc ((w.lit.getD 0).toNat / 2 ^ 32)
    let ts := targetsOf (fun l => x.vgetD w.a l) (bitList m 64)
    let all := if off = 0 then ts else ts ++ [((x.pc + wordLen w) % 2 ^ 64, off)]
    s.issued g 0 none w (fun _ k => jumpOk k.vregs w) = some t → (ts.find? fun (e : Nat × Nat) => e.1 % 8 ≠ 0) = none → ts ≠ [] →
    x.deep all.length = false →
    exec (.jumpIndirect g w) s = s.becomes
      (let order := (List.range 64).filterMap fun l => all.find? fun (e : Nat × Nat) => (bitList e.2 64).headD 64 == l
       let y := x.setPc rp
       let z := { y with stack := (order.map fun (e : Nat × Nat) => (⟨e.1, e.2, rp⟩ : StackEnt)) ++ y.stack }
       t.retire g 0 (if ts.any fun (e : Nat × Nat) => decide (e.1 ≤ x.pc) then z.countBack x.lanes else z))) ∧
  (∀ g w (s t : State), let x := (t.group g).endLanes w
    s.issued g 0 none w (fun _ _ => endOk w) = some t →
    exec (.endInstr g w) s = s.becomes (if x.stack = [] then (t.retire g 0 x).groupEnd g else t.retire g 0 x)) ∧
  (∀ g w (s t : State), s.issued g 10 none w (fun _ _ => syncOk 2 w) = some t →
    exec (.bar g w) s = s.becomes (t.retire g 10 { (t.group g).next w with wait := .barrier })) ∧
  (∀ k tm (s : State), s.teamGroups k tm ≠ [] → (∀ e ∈ s.teamGroups k tm, e.2.wait = .barrier) →
    exec (.barRelease k tm) s = s.becomes
      { s with groups := s.groups.map fun (e : Nat × Group) =>
          if e.2.live && e.2.kernel == k && e.2.team == tm then (e.1, { e.2 with wait := .none }) else e }) ∧
  (∀ g w (s t u : State), s.issued g 10 none w (fun _ _ => syncOk 1 w) = some t → t.membar g (w.mod == 1) = (none, u) →
    exec (.membar g w) s = s.becomesR (u.retire g 10 ((u.group g).next w))) ∧
  (∀ g w (s t : State), s.issued g 10 none w (fun _ _ => syncOk 2 w && thirdOkS w) = some t →
    exec (.trap g w) s = s.becomes
      (if (t.group g).exec w = 0 then t.retire g 10 ((t.group g).next w)
       else t.kfault g kfTRAP 0 0 0 ((t.group g).thirdS w % 2 ^ 32))) ∧
  (∀ g w (s t : State), s.issued g 11 none w (fun _ _ => syncOk 2 w && sOk w.d) = some t →
    exec (.timerd g w) s = s.becomes (t.writeS g w t.now) ∧ exec (.unitid g w) s = s.becomes (t.writeS g w (unitOf g))) ∧
  (∀ g w (s t : State), s.issued g 11 none w (fun _ k => syncOk 2 w && vOk k.vregs false w.d) = some t →
    exec (.laneid g w) s = s.becomes
      (t.retire g 11 (((t.group g).mapLanes false w.d ((t.group g).exec w) fun l => l).next w))) ∧
  (∀ g w (s t : State), s.issued g 11 none w (fun _ _ => syncOk 2 w && sOk w.d) = some t →
    exec (.counterRead g w) s = s.becomes (t.writeS g w (t.f .CTR_UVAL_VALUE (4 * unitOf g + w.mod))))

/-- A group that fetches an instruction of a reserved class ends its kernel with KERNEL_FAULT, ILLEGAL_INSTRUCTION; a sector of a fill that is
next in order is delivered and the groups that wait at the slice try again, and any other delivery changes nothing; a group whose
backward-branch count has reached the kernel's yield count yields: the count returns to 0, the yields rise by one, and the nearest path
with the same reconvergence point runs, or else the group is moved behind the others; a group of 2^24 forced yields ends its kernel with
STALEMATE. -/
def Obligations.GroupEventsRun : Prop :=
  (∀ g cls (s t : State) b, g < 65536 → 9 ≤ cls → cls < 16 → s.canIssue g = true → s.chosen g = true →
    (s.setGroup g (s.group g).atFetch).groupFetch g 8 = (some b, t) → speltReserved cls b = true →
    exec (.reservedClass g cls) s = s.becomes ((t.settleRetire.placed g).kfault g kfILLEGAL)) ∧
  (∀ sl line sec (s : State),
    let mine := fun (f : Fill) => f.slice == sl && f.line == line && s.delivers f sec
    sl < 64 → line < 2 ^ 45 → sec < 4 →
    (s.caches.fills.any mine = true →
      exec (.sectorDelivery sl line sec) s = s.becomes
        ((s.setFills (openFills (s.caches.fills.map fun f => if mine f then { f with arrived := setBit f.arrived sec } else f))).wakeFills sl)) ∧
    (s.caches.fills.any mine = false → exec (.sectorDelivery sl line sec) s = s.becomes s)) ∧
  (∀ g (s : State), let x := s.group g; let k := s.kernel x.kernel
    g < 65536 → x.live = true → k.live = true → k.yieldCount ≤ x.bb → x.fy < 2 ^ 24 → x.wait = .none →
    ∃ y, exec (.forcedYield g) s = s.becomes ((s.setGroup g y).evUnit (unitOf g) 0x07 0 1) ∧ y.bb = 0 ∧ y.fy = x.fy + 1 ∧ y.v = x.v ∧ y.s = x.s ∧
      y.p = x.p ∧ (∀ l, 2 ≤ (popJoins x.stack).length → swapSibling (popJoins x.stack) = some l → y.stack = l ∧ y.order = x.order) ∧
      ((popJoins x.stack).length ≤ 1 ∨ swapSibling (popJoins x.stack) = none → y.stack = popJoins x.stack ∧ y.order = s.lastPlace (unitOf g))) ∧
  (∀ g (s : State), let x := s.group g; let k := s.kernel x.kernel
    g < 65536 → x.live = true → k.live = true → 2 ^ 24 ≤ x.fy → x.wait = .none → k.phase = .running →
    exec (.stalemate g) s = s.becomes (s.kfault g kfSTALEMATE))

/-- An issued vector instruction whose fields are in order writes, in each executing lane and no other, the value of its operation on the
operands as they were: integer operations modulo the width, or a compare's predicate bits; floating operations by FMT in the instruction's
or kernel's rounding mode, with FLUSH; a special function within its bounds; CVT one element, the other bits of a narrower destination
kept; SHFL the value of A in the source lane; VOTE its scalar result over the executing lanes, or for MATCH the lanes of equal value. The
group stands after the instruction. -/
def Obligations.VectorInstructionsRun : Prop :=
  (∀ g op w (s t : State), let x := t.group g; let wide := w.fmt == 2; let m := x.exec w
    s.issued g 1 none w (fun _ k => vintOk k.vregs op w) = some t →
    (vintCmp op = false → exec (.vectorInteger g op w) s = s.becomes
      (t.retire g 1 ((x.mapLanes wide w.d m fun l =>
        vintVal op w.fmt (x.vgetW wide w.a l) (x.vgetW wide w.b l) (x.thirdV wide w l)).next w))) ∧
    (vintCmp op = true → exec (.vectorInteger g op w) s = s.becomes
      (t.retire g 1 ((x.compare w.d m fun l => intRel op (fmtInt w.fmt (x.vgetW wide w.a l)) (fmtInt w.fmt (x.vgetW wide w.b l))).next w)))) ∧
  (∀ g op w (s t : State), let x := t.group g; let k := t.kernelOf g; let wide := w.fmt == 4; let m := x.exec w
    s.issued g 2 none w (fun _ k => vfloatOk k.vregs op w) = some t →
    (vfloatIsCmp op = false → exec (.vectorFloating g op w) s = s.becomes
      (t.retire g 2 ((x.mapLanes wide w.d m fun l =>
        vfloatLane w.fmt (roundMode k w) k.flush op (x.vgetW wide w.a l) (x.vgetW wide w.b l) (x.thirdV wide w l)).next w))) ∧
    (vfloatIsCmp op = true → exec (.vectorFloating g op w) s = s.becomes
      (t.retire g 2 ((x.compare w.d m fun l =>
        vfloatCmp (floatFmt w.fmt) k.flush op (x.vgetW wide w.a l) (x.vgetW wide w.b l)).next w)))) ∧
  (∀ g op w (s t : State), let x := t.group g; let k := t.kernelOf g
    s.issued g 3 none w (fun _ k => sfuOk' k.vregs op w) = some t →
    exec (.specialFunction g op w) s = s.becomes
      (t.retire g 3 ((x.mapLanes false w.d (x.exec w) fun l =>
        sfuElem op k.flush (sfuKey op (flushIn fB32 k.flush (x.vget w.a l))) (x.vget w.a l)).next w))) ∧
  (∀ g op w (s t : State), let x := t.group g; let wd := codeWidth (op % 16) == 64; let ws := codeWidth (op / 16 % 16) == 64
    s.issued g 4 (some op) w (fun _ k => cvtOk k.vregs op w) = some t →
    exec (.cvt g op w) s = s.becomes
      (t.retire g 4 ((x.mapLanes wd w.d (x.exec w) fun l =>
        cvtLane op (roundMode (t.kernelOf g) w) w (x.vgetW ws w.a l) (x.vgetW wd w.d l)).next w))) ∧
  (∀ g op w (s t : State), let x := t.group g; let wide := w.fmt == 2 || w.fmt == 4
    s.issued g 5 none w (fun _ k => shflOk k.vregs op w) = some t →
    exec (.shfl g op w) s = s.becomes
      (t.retire g 5 ((x.mapLanes wide w.d (x.exec w) fun l =>
        x.vgetW wide w.a (shflSrc op (2 ^ w.mod) l (x.vget w.b l) (x.thirdS w))).next w))) ∧
  (∀ g op w (s t : State), let x := t.group g; let m := x.exec w
    s.issued g 5 none w (fun _ k => voteOk k.vregs op w) = some t →
    exec (.vote g op w) s = s.becomes
      (t.retire g 5 ((if op = .matchMask then x.mapLanes true w.d m fun l => lanesWhere m fun j => x.vget w.b j == x.vget w.b l
        else x.sput w.d (voteVal op m (x.pget w.a))).next w)))

/-- With every address aligned and every piece translated and present in this module, and a store's slice with room for it, LD writes the
loaded bytes to its registers; ST writes its lanes' bytes under its policy and BB and FY return to 0; LDS and STS move bytes below SCRATCH
of the team's allocation; ATOM and ATOMS perform their lanes' operations in ascending order, each lane writing the value before its own
operation to D. The group stands after the instruction. -/
def Obligations.GroupMemoryRuns : Prop :=
  (∀ g n w (s t u v : State) bs ws, let accs := (t.group g).laneAccs w n ((t.group g).laneAddr w)
    s.issued g 6 none w (fun _ k => ldOk k.vregs n w) = some t → misaligned accs = none → t.groupLoad g 1 w.mod accs = (some (bs, []), u) → u.allLaneRegs w.d bs = (ws, v) →
    exec (.ld g n w) s = s.becomesR
      (v.retire g 6 ({ v.group g with v := ws.foldl (fun r (e : Nat × Nat) => r.fput e.1 (e.2 % 2 ^ 32) 0) (v.group g).v }.next w))) ∧
  (∀ g n w hi (s t t1 u' u v : State) l, let x := t.group g; let accs := x.laneAccs w n (x.laneAddr w)
    s.issued g 6 none w (fun _ k => stOk k.vregs n w) = some t → misaligned accs = none → t.takeFree = (hi, t1) →
    t1.groupXlate g 2 accs = (some l, u') → remoteOf l = [] → u'.storeWaits (sliceOf (unitOf g)) w.mod (localOf l) = (false, u) →
    u.writePieces g (u.kernelOf g).part w.mod (fun a => x.laneData w n hi a.lane) (localOf l) = (none, v) →
    exec (.st g n w) s = s.becomesR ((v.storeDone g).retire g 6 (((v.storeDone g).group g).next w))) ∧
  (∀ g n w (s t u : State) ws, let x := t.group g; let accs := x.laneAccs w n (x.laneAddr w)
    s.issued g 7 none w (fun _ k => ldsOk k.vregs n w) = some t → (∀ a ∈ accs, t.scratchOk g a.va a.len = true) →
    t.allLaneRegs w.d (accs.map fun a => (a, t.scratchBytes (t.teamOf g) a.va a.len)) = (ws, u) →
    exec (.lds g n w) s = s.becomes
      (u.retire g 7 ({ u.group g with v := ws.foldl (fun r (e : Nat × Nat) => r.fput e.1 (e.2 % 2 ^ 32) 0) (u.group g).v }.next w))) ∧
  (∀ g n w hi (s t u : State), let x := t.group g; let accs := x.laneAccs w n (x.laneAddr w)
    s.issued g 7 none w (fun _ k => stsOk k.vregs n w) = some t → (∀ a ∈ accs, t.scratchOk g a.va a.len = true) → t.takeFree = (hi, u) →
    exec (.sts g n w) s = s.becomes
      (let v := (accs.foldl (fun s a => s.scratchPut (t.teamOf g) a.va (x.laneData w n hi a.lane)) u).storeDone g
       v.retire g 7 ((v.group g).next w))) ∧
  (∀ g op n w (s t u v : State) l ws hit, let x := t.group g; let accs := x.laneAccs w n (x.vgetD w.a)
    s.issued g 8 none w (fun _ k => atomOk k.vregs n op w && (op != .fadd || bitOf (s.f .ID_FEAT_FEAT) 2)) = some t → misaligned accs = none →
    t.groupXlate g 4 accs = (some l, u) → remoteOf l = [] →
    u.atomPieces g (u.kernelOf g).part op w.d (x.atomB w n) (x.atomC w n) (atomGroups (localOf l)) false = (.ok (ws, hit), v) →
    exec (.atom g op n w) s = s.becomesR
      (let y := if hit then v.storeDone g else v
       y.retire g 8 ({ y.group g with v := ws.foldl (fun r (e : Nat × Nat) => r.fput e.1 (e.2 % 2 ^ 32) 0) (y.group g).v }.next w))) ∧
  (∀ g op n w (s t : State) ws hit u, let x := t.group g; let accs := x.laneAccs w n (x.vgetD w.a)
    s.issued g 8 none w (fun _ k => atomOk k.vregs n op w) = some t → misaligned accs = none → (∀ a ∈ accs, t.scratchOk g a.va a.len = true) →
    t.atomScratch (t.teamOf g) op w.d (x.atomB w n) (x.atomC w n) accs false = (ws, hit, u) →
    exec (.atoms g op n w) s = s.becomes
      (let y := if hit then u.storeDone g else u
       y.retire g 8 ({ y.group g with v := ws.foldl (fun r (e : Nat × Nat) => r.fput e.1 (e.2 % 2 ^ 32) 0) (y.group g).v }.next w)))

/-- With all 64 lanes active and the fields in order, MMA writes every element of D the accumulation of its base and products; MLD loads 32
lines, half h of line L into lane 2L + h, from memory under its policy or from scratch; MST writes the 32 converted rows, 32 bytes a
piece, with base and stride multiples of 32 and the stride at least the row. With fewer lanes active each ends its kernel with
PARTIAL_GROUP_MATRIX. -/
def Obligations.MatrixInstructionsRun : Prop :=
  (∀ g w (s t : State), s.issued g 9 (some 0) w (fun _ k => matrixPlain w && mmaOk k.vregs w) = some t →
    ((t.group g).lanes = fullMask → exec (.mma g w) s = s.becomes
      ((State.retire { t with free := t.free + 131072 } g 9 (((t.group g).mma w t.free).next w)).evUnit (unitOf g) 0x06 (w.mod % 8) 1)) ∧
    ((t.group g).lanes ≠ fullMask → exec (.mma g w) s = s.becomes (t.kfault g kfPARTIAL))) ∧
  (∀ g w (s t : State), let x := t.group g
    s.issued g 9 (some 1) w (fun _ k => matrixPlain w && mldOk k.vregs w) = some t →
    (x.lanes = fullMask → x.unaligned32 w = false →
      (∀ (u v : State) bs ws, bitOf w.mod 5 = false → t.groupLoad g 1 (bitsOf w.mod 3 2) (x.mldAccs w) = (some (bs, []), u) → u.allLaneRegs w.d bs = (ws, v) →
        exec (.mld g w) s = s.becomesR
          (v.retire g 9 ({ v.group g with v := ws.foldl (fun r (e : Nat × Nat) => r.fput e.1 (e.2 % 2 ^ 32) 0) (v.group g).v }.next w))) ∧
      (∀ (u : State) ws, bitOf w.mod 5 = true → (∀ a ∈ x.mldAccs w, t.scratchOk g a.va a.len = true) →
        t.allLaneRegs w.d ((x.mldAccs w).map fun a => (a, t.scratchBytes (t.teamOf g) a.va a.len)) = (ws, u) →
        exec (.mld g w) s = s.becomesR
          (u.retire g 9 ({ u.group g with v := ws.foldl (fun r (e : Nat × Nat) => r.fput e.1 (e.2 % 2 ^ 32) 0) (u.group g).v }.next w)))) ∧
    (x.lanes ≠ fullMask → exec (.mld g w) s = s.becomesR (t.kfault g kfPARTIAL))) ∧
  (∀ g w (s t : State), let x := t.group g; let n := mstSize (w.mod % 8)
    let data := fun (a : Acc) => sliceB (x.mstRow w (a.lane / n)) (a.lane % n * 32) 32
    s.issued g 9 (some 2) w (fun _ k => matrixPlain w && mstOk k.vregs w) = some t →
    (x.lanes = fullMask → x.unaligned32 w = false → 32 * n ≤ x.sget w.b →
      (∀ (u' u v : State) l, let pol := if bitOf w.mod 6 then 2 else 0
        bitOf w.mod 5 = false → t.groupXlate g 2 (x.mstAccs w) = (some l, u') → remoteOf l = [] →
        u'.storeWaits (sliceOf (unitOf g)) pol (localOf l) = (false, u) → u.writePieces g (u.kernelOf g).part pol data (localOf l) = (none, v) →
        exec (.mst g w) s = s.becomesR ((v.storeDone g).retire g 9 (((v.storeDone g).group g).next w))) ∧
      (bitOf w.mod 5 = true → (∀ a ∈ x.mstAccs w, t.scratchOk g a.va a.len = true) →
        exec (.mst g w) s = s.becomesR
          (let v := ((x.mstAccs w).foldl (fun s a => s.scratchPut (t.teamOf g) a.va (data a)) t).storeDone g
           v.retire g 9 ((v.group g).next w)))) ∧
    (x.lanes ≠ fullMask → exec (.mst g w) s = s.becomesR (t.kfault g kfPARTIAL)))

/-- On a stack of the requester's partition that serves, with no bad symbol in the codewords read: a read counts its path, ends a retrain
window it waited for, and leaves module memory as it was. With, for writes, no cellar or boot image under the range and no cached copy
owning or in flight for its codewords, a write of d at offset off leaves each byte of memory as d gives it inside the range stored to and
as it was everywhere else (no channel of the stack waiting to be retired). An access of a stack outside the requester's partition is
denied and does nothing else. -/
def Obligations.MemoryAccessesRun : Prop :=
  (∀ req k off (s : State), k < 32 → off < 2 ^ 37 → s.memOutside req k = false → s.stackServes k = true → (∀ a, a / 256 = off / 256 → s.badSyms (granKey k a) = []) →
    exec (.bulkRead req k off) s = s.becomes ((((s.touchStack k).countPath k .bulk 1).endMemWindow k).retireOf k) ∧
    ((s.stack k).retiring = [] → ((((s.touchStack k).countPath k .bulk 1).endMemWindow k).retireOf k).mem = s.mem)) ∧
  (∀ req k off len (s : State), k < 32 → off < 2 ^ 37 → len = 32 ∨ len = 64 → off % len = 0 → s.memOutside req k = false → s.stackServes k = true →
    s.badSyms (granKey k off) = [] →
    exec (.narrowRead req k off len) s = s.becomes ((((s.touchStack k).countPath k .narrow 1).endMemWindow k).retireOf k) ∧
    ((s.stack k).retiring = [] → ((((s.touchStack k).countPath k .narrow 1).endMemWindow k).retireOf k).mem = s.mem)) ∧
  (∀ req k off d (s : State) c, k < 32 → off + d.length ≤ 2 ^ 37 → 0 < d.length → s.memOutside req k = false → s.stackServes k = true → (s.stack k).retiring = [] →
    (∀ a, off / 256 ≤ a / 256 → a / 256 ≤ (off + d.length - 1) / 256 → s.badSyms (granKey k a) = []) →
    (∀ a, off ≤ a → a < off + d.length → s.inCellar k a = false ∧ (req.kind = 1 ∨ s.inBootImage (s.paOf k a) = false) ∧
      s.ownerOf (granKey k a) = none ∧ s.settled (granKey k a) = true) →
    (c = .bulkWrite req k off d ∨ (c = .narrowWrite req k off d ∧ (d.length = 32 ∨ d.length = 64) ∧ off % d.length = 0)) →
    ∃ t, exec c s = .next t ∧
      ∀ a, t.memByte a = if k * 2 ^ 37 + off ≤ a ∧ a < k * 2 ^ 37 + off + d.length then d.getD (a - (k * 2 ^ 37 + off)) 0 else s.memByte a) ∧
  (∀ req k off (s : State), k < 32 → off < 2 ^ 37 → s.memOutside req k = true →
    exec (.bulkRead req k off) s = s.becomes (s.memDeny req .outside k off 1) ∧
    (∀ len, len = 32 ∨ len = 64 → off % len = 0 → exec (.narrowRead req k off len) s = s.becomes (s.memDeny req .outside k off 1)) ∧
    (∀ d, 0 < d.length → off + d.length ≤ 2 ^ 37 → exec (.bulkWrite req k off d) s = s.becomes (s.memDeny req .outside k off 2)) ∧
    (∀ d, d.length = 32 ∨ d.length = 64 → off % d.length = 0 → off + d.length ≤ 2 ^ 37 →
      exec (.narrowWrite req k off d) s = s.becomes (s.memDeny req .outside k off 2)))

/-- A scrub read of a correctable codeword rewrites it corrected and counts it; a refresh that is due notes its bank's time; a temperature
sample sets TEMP and HOT_DIE, the highest PEAK and the rate band, and at 115 degrees stops the stack; a stuck lane is flagged; a due
retrain window clears PENDING, sets WINDOW and SELF_REFRESH, counts in WINDOWS and replaces flagged lanes by free spares; its end clears
WINDOW, SELF_REFRESH and the stack's lane counters. -/
def Obligations.MemoryEventsRun : Prop :=
  (∀ k off (s u : State) b, let g := granKey k off; let t := s.setStack k { s.stack k with scrubAt := granOff g + 64 }
    let x := t.slotRead k (granOff g) .bulk (granOff g) 64 (granOff g)
    k < 32 → off < 2 ^ 37 → s.fb .MEM_CTRL_SCRUB_EN k = true → s.stackServes k = true → s.napping k = false →
    s.fb .MEM_STATUS_SELF_REFRESH k = false ∨ s.fb .MEM_STATUS_WINDOW k = true →
    x.readWord g = (some b, u) →
    exec (.scrubRead k off) s = s.becomes
      ((if x.badSyms g = [] then u else
        (({ u with ecc := u.ecc.fput g [] [] }).putBytes (k * 2 ^ 37 + granOff g) (sliceB b 0 64)).incF .MEM_ERR_SCRUB_FIXED k).retireOf k)) ∧
  (∀ k c b dt (s : State), let t := s.elapse dt; let x := t.stack k; let last := x.refreshed.fget (64 * c + b) 0
    k < 32 → c < 32 → b < 64 → t.fb .MEM_STATUS_SELF_REFRESH k = false → (last = 0 ∨ last + t.refreshNs k ≤ t.eng) →
    exec (.refresh k c b dt) s = s.becomes (t.setStack k { x with refreshed := x.refreshed.fput (64 * c + b) t.eng 0 })) ∧
  (∀ k temp hot dt (s : State), k < 32 → temp < 115 → hot < 16 →
    ∃ t, exec (.stackTempSample k temp hot dt) s = .next t ∧ t.f .MEM_THERM_TEMP k = temp ∧ t.f .MEM_THERM_HOT_DIE k = hot ∧
      t.f .MEM_THERM_PEAK k = max temp (s.f .MEM_THERM_PEAK k) ∧
      (let band := nextBand (if s.fb .MEM_STATUS_THROTTLED k then 3 else s.f .MEM_STATUS_RATE k) temp
       t.f .MEM_STATUS_RATE k = min band 2 ∧ t.f .MEM_STATUS_THROTTLED k = b2n (band == 3)) ∧
      t.f .MEM_STATUS_STOPPED k = s.f .MEM_STATUS_STOPPED k ∧ t.mem = s.mem) ∧
  (∀ k temp hot dt (s : State), k < 32 → 115 ≤ temp → temp < 256 → hot < 16 → s.fb .MEM_STATUS_STOPPED k = false → s.dieOwner (k / 2) = none →
    ∃ t, exec (.stackTempSample k temp hot dt) s = .next t ∧ t.f .MEM_STATUS_STOPPED k = 1 ∧ t.f .MEM_STATUS_SELF_REFRESH k = 1 ∧
      t.f .MEM_STATUS_WINDOW k = 0 ∧ (125 < temp → t.f .MEM_STATUS_CONTENTS_LOST k = 1 ∧ (t.stack k).lost = true)) ∧
  (∀ k c lane (s : State), k < 32 → c < 32 → lane < 292 →
    exec (.memLaneStuck k c lane) s = s.becomes ((s.flagLane k c lane).retireOf k)) ∧
  (∀ k dt (s : State), let t := s.elapse dt
    k < 32 → t.fb .MEM_STATUS_PENDING k = true → t.fb .MEM_STATUS_WINDOW k = false → t.fb .MEM_STATUS_STOPPED k = false →
    (t.stack k).failed = false → t.fb .MEM_STATUS_SELF_REFRESH k = false → t.napping k = false → t.windowDue k = true → (t.memWinTime k).all t.inOrder = true →
    exec (.memRetrainWindow k dt) s = s.becomes
      (((List.range 32).foldl (fun u c => u.spareLanes k c)
        ((((t.setF .MEM_STATUS_PENDING k 0).setF .MEM_STATUS_WINDOW k 1).setF .MEM_STATUS_SELF_REFRESH k 1).incF .MEM_STATUS_WINDOWS k)).retireOf k)) ∧
  (∀ k dt (s : State), k < 32 → (s.elapse dt).fb .MEM_STATUS_WINDOW k = true →
    ∃ t, exec (.memWindowEnd k dt) s = .next t ∧ t.f .MEM_STATUS_WINDOW k = 0 ∧ t.f .MEM_STATUS_SELF_REFRESH k = 0 ∧
      (∀ c l, c < 32 → l < 292 → t.f .MEM_LANE_ERRORS (laneIx k c l) = 0) ∧ t.mem = s.mem)

/-- An agent of the home's partition with no request open for the granule, and a way for it, sends its request (none to own a granule of a
cellar), and with no message of its VC and nodes before it and no window on its route the home acts: BUSY or awaited by a STARVING request
it answers NAK, or records the request after eight NAKs; otherwise ReadShared of U is answered with memory and E, of S with memory and one
sharer more, of an owned granule forwarded to the owner, which becomes O; ReadOwn and Upgrade with no other holder are granted M,
otherwise the sharers are invalidated first; NoAllocRead is answered by the owner or memory, changing nothing; WriteInv and Atomic with no
copies are performed, else the copies are collected. WriteBack and EvictClean of the recorded owner remove it, any other is superseded. -/
def Obligations.CoherenceRequestsRun : Prop :=
  (∀ a g kind full (s u : State) c, let x := s.copy a g
    a < 512 → g < 2 ^ 36 → s.sameDomain a g = true → s.noRequest a g = true → (kind = 1 ∨ s.granClosed g = false) →
    (if kind = 3 then u = s else s.agentWay a g = (true, u)) →
    (∀ y ∈ u.caches.net, y.2.chan ≠ (CMsg.request a g kind full).chan) → u.hopsHeld (reqNode a) (granDie g) = false →
    ((kind = 1 ∧ full = false ∧ x.st = .i ∧ c = .readShared a g) ∨ (kind = 2 ∧ x.st = .i ∧ c = .readOwn a g full) ∨
      (kind = 3 ∧ full = false ∧ (x.st = .s ∨ x.st = .o) ∧ c = .upgrade a g)) →
    exec c s = s.becomesR ((u.setCopy a g { u.copy a g with want := kind, full := full }).onRequest a g kind full)) ∧
  (∀ a g r (s : State) c, a < 1152 → g < 2 ^ 36 → s.sameDomain a g = true → s.noRequest a g = true →
    (∀ y ∈ s.caches.net, y.2.chan ≠ (CMsg.request a g r.kind false).chan) → s.hopsHeld (reqNode a) (granDie g) = false →
    (r = { kind := 4 } ∧ c = .noAllocRead a g → exec c s = s.becomesR ((s.setNc a g r).onRequest a g 4 false)) ∧
    (∀ (mask : Word) (b : Bytes), s.barred a g = false → b.length = 64 → r = { kind := 5, mask := mask.toNat, data := b } ∧ c = .writeInv a g mask b →
      exec c s = s.becomesR (((s.openWrite a).setNc a g r).onRequest a g 5 false)) ∧
    (∀ l, s.barred a g = false → r = { kind := 6, lanes := l } ∧ c = .atomic a g l →
      exec c s = s.becomesR (((s.openWrite a).setNc a g r).onRequest a g 6 false))) ∧
  (∀ a g kind full (s : State), let k := granStack g; let wait := (s.dirOf g).busy || (s.starving k).any fun x => x.1 == g
    (wait = true → ((s.starving k).any fun x => x.1 == g && x.2.1 == a) = false →
      (s.naksOf a g < 8 ∨ 8 ≤ (s.starving k).length →
        s.onRequest a g kind full = (s.sendCoh (.nak (granDie g) a g)).evDie (granDie g) 0x0D 0 1) ∧
      (8 ≤ s.naksOf a g → (s.starving k).length < 8 →
        s.onRequest a g kind full = (s.setStarving k (s.starving k ++ [(g, a, full)])).evDie (granDie g) 0x0E 0 1)) ∧
    (wait = false → s.onRequest a g kind full = s.serveKind a g kind full)) ∧
  (∀ a g (s u : State), let d := if (u.dirOf g).owned && (u.dirOf g).owner == a then (u.dirOf g).dropOwner else u.dirOf g
    s.dirRoom g (g, a, 1, false) = (true, u) →
    (∀ v b, d.st = .u → u.homeRead a g = (some b, v) →
      s.serveKind a g 1 false = (v.setDir g { st := .e, owner := a }).sendCoh (.data (granDie g) a g 2 b)) ∧
    (∀ v b, d.st = .s → u.homeRead a g = (some b, v) →
      s.serveKind a g 1 false = (v.setDir g (d.addSharer a)).sendCoh (.data (granDie g) a g 1 b)) ∧
    (d.st = .e ∨ d.st = .o → s.serveKind a g 1 false = (u.setDir g { d.addSharer a with st := .o }).sendCoh (.fwd 0 d.owner a g))) ∧
  (∀ a g kind full (s u : State), let d := u.dirOf g; let mine : Dir := { st := .e, owner := a }
    kind = 2 ∨ kind = 3 → s.dirRoom g (g, a, 2, full) = (true, u) →
    (d.targets a ≠ [] → s.serveKind a g kind full = u.collect g { kind := 0, req := a, full := full } a false) ∧
    (d.targets a = [] → d.owned = true → d.owner ≠ a → s.serveKind a g kind full = (u.setDir g mine).sendCoh (.fwd (if full then 4 else 1) d.owner a g)) ∧
    (d.targets a = [] → d.owned = false ∨ d.owner = a →
      ((u.copy a g).st ≠ .i → full = false → s.serveKind a g kind full = (u.setDir g mine).sendCoh (.data (granDie g) a g 3 (u.copy a g).data)) ∧
      (full = true → s.serveKind a g kind full = (u.setDir g mine).sendCoh (.data (granDie g) a g 3 [])) ∧
      (∀ b v, (u.copy a g).st = .i → full = false → u.homeRead a g = (some b, v) →
        s.serveKind a g kind full = (v.setDir g mine).sendCoh (.data (granDie g) a g 3 b)))) ∧
  (∀ a g (s : State), let d := s.dirOf g; let r := s.nc a g
    (d.owned = true → s.serveKind a g 4 false = s.sendCoh (.fwd 2 d.owner a g)) ∧
    (∀ b u, d.owned = false → s.homeRead a g = (some b, u) → s.serveKind a g 4 false = u.sendCoh (.data (granDie g) a g 0 b)) ∧
    (r.kind = 5 → s.serveKind a g 5 false =
      if d.targets (2 ^ 20) = [] ∧ d.owned = false then s.performWrite a g r.mask r.data
      else s.collect g { kind := 1, req := a, mask := r.mask, data := r.data, lanes := r.lanes } (2 ^ 20) true) ∧
    (r.kind = 6 → s.serveKind a g 6 false =
      if d.targets (2 ^ 20) = [] ∧ d.owned = false then s.performAtomic a g r.lanes
      else s.collect g { kind := 2, req := a, mask := r.mask, data := r.data, lanes := r.lanes } (2 ^ 20) true)) ∧
  (∀ a g (s : State), let d := s.dirOf g; let c := s.copy a g; let t := s.setCopy a g { c with st := .i, wb := true }
    a < 512 → g < 2 ^ 36 → c.want = 0 → c.wb = false → s.hopsHeld (reqNode a) (granDie g) = false →
    (c.st = .m ∨ c.st = .o → (∀ y ∈ s.caches.net, y.2.chan ≠ (CMsg.writeBack a g).chan) →
      (d.owned = true → d.owner = a → exec (.writeBack a g) s = s.becomes
        (((t.ownerStore a g c.data).setDir g d.dropOwner).sendCoh (.wbAck a g false))) ∧
      (d.owned = false ∨ d.owner ≠ a → exec (.writeBack a g) s = s.becomes (t.sendCoh (.wbAck a g true)))) ∧
    (c.st = .e → (∀ y ∈ s.caches.net, y.2.chan ≠ (CMsg.evictClean a g).chan) →
      (d.owned = true → d.owner = a → exec (.evictClean a g) s = s.becomes ((t.setDir g d.dropOwner).sendCoh (.wbAck a g false))) ∧
      (d.owned = false ∨ d.owner ≠ a → exec (.evictClean a g) s = s.becomes (t.sendCoh (.wbAck a g true)))))

/-- A message that may arrive (no other of its VC, nodes and routes was sent before it, and no window holds its route) is taken from its way
and acted on: an owner with its data answers FwdShared with grant S and becomes O, FwdOwn with grant M (without data under FULL) and gives
its copy up, FwdSnoop with data alone, and a recall by giving the copy up, written back when dirty; an owner whose data has not arrived
queues up to four forwards, and answers a fifth NAK (a FwdOwn is undone, notes/assumptions/49). Inv drops an S copy and acknowledges; Data
gives a waiting holder the granted state and serves its queued forwards; InvAck counts, and the last one performs the transaction; WbAck
frees the write-back buffer; Done ends a write; a NAK sets the retry time of 40 ns times one plus a number below 2^min(n,5), after which
the request is sent again. -/
def Obligations.CoherenceAnswersRun : Prop :=
  (∀ o req g (s : State) x, let t := s.setNet (s.caches.net.erase x)
    o < 512 → req < 1152 → g < 2 ^ 36 →
    (s.arriving (· == .fwd 0 o req g) = some x → x.2 = .fwd 0 o req g → exec (.fwdShared o req g) s = s.becomes (t.onFwd o req g 0)) ∧
    (∀ kind, kind = 1 ∨ kind = 4 → s.arriving (fun m => m == .fwd 1 o req g || m == .fwd 4 o req g) = some x → x.2 = .fwd kind o req g →
      exec (.fwdOwn o req g) s = s.becomes (t.onFwd o req g kind)) ∧
    (s.arriving (· == .fwd 2 o req g) = some x → x.2 = .fwd 2 o req g → exec (.fwdSnoop o req g) s = s.becomes (t.onFwd o req g 2)) ∧
    (s.arriving (· == .recall o g) = some x → x.2 = .recall o g → exec (.recall o g) s = s.becomes (t.onFwd o o g 3)) ∧
    (s.arriving (· == .inv o g) = some x → x.2 = .inv o g → exec (.inv o g) s = s.becomes (t.onInv o g)) ∧
    (s.arriving (· == .invAck o g) = some x → x.2 = .invAck o g → exec (.invAck o g) s = s.becomesR (t.onInvAck o g)) ∧
    (∀ sup, s.arriving (· == .wbAck o g sup) = some x → x.2 = .wbAck o g sup → exec (.wbAck o g sup) s = s.becomes (t.onWbAck o g)) ∧
    (∀ src grant b, grant < 4 → b.length = 64 ∨ (b = [] ∧ grant = 3) → s.arriving (isData req g grant b) = some x → x.2 = .data src req g grant b →
      exec (.data req g grant b) s = s.becomes (t.onData req g grant b)) ∧
    (∀ ps, s.arriving (isDone req g) = some x → x.2 = .done req g ps → exec (.done req g) s = s.becomes (t.onDone req g ps)) ∧
    (∀ src, s.arriving (isNak req g) = some x → x.2 = .nak src req g → exec (.nak req g) s = s.becomes (t.onNak req g))) ∧
  (∀ o req g kind (t : State), let c := t.copy o g; let keep := fun x => if c.wb = true then t else t.setCopy o g x
    (t.early o g = true → c.queue.length < 4 ∨ kind = 3 → t.onFwd o req g kind = t.setCopy o g { c with queue := c.queue ++ [(req, kind)] }) ∧
    (t.early o g = true → 4 ≤ c.queue.length → kind = 0 ∨ kind = 2 → t.onFwd o req g kind = t.sendCoh (.nak (reqNode o) req g)) ∧
    (t.early o g = true → 4 ≤ c.queue.length → kind = 1 ∨ kind = 4 → t.onFwd o req g kind = t.undoOwn o req g) ∧
    (t.early o g = false → c.st = .i → c.wb = false → kind ≠ 3 → t.onFwd o req g kind = t.sendCoh (.nak (reqNode o) req g)) ∧
    (t.early o g = false → c.st ≠ .i ∨ c.wb = true →
      t.onFwd o req g 0 = (keep { c with st := .o }).sendCoh (.data (reqNode o) req g 1 c.data) ∧
      t.onFwd o req g 1 = (keep { c with st := .i, data := [] }).sendCoh (.data (reqNode o) req g 3 c.data) ∧
      t.onFwd o req g 4 = (keep { c with st := .i, data := [] }).sendCoh (.data (reqNode o) req g 3 []) ∧
      t.onFwd o req g 2 = t.sendCoh (.data (reqNode o) req g 0 c.data)) ∧
    (t.early o g = false → c.st = .m ∨ c.st = .o → t.onFwd o o g 3 =
      ((t.setCopy o g { c with st := .i, wb := true }).sendCoh (.writeBack o g)).sendCoh (.invAck o g)) ∧
    (t.early o g = false → c.st ≠ .m → c.st ≠ .o →
      t.onFwd o o g 3 = (t.setCopy o g { c with st := .i, data := if c.wb then c.data else [] }).sendCoh (.invAck o g))) ∧
  (∀ a g grant (b : Bytes) ps (t : State), let c := t.copy a g; let r := t.nc a g
    (c.st = .s → c.want = 0 → t.onInv a g = (t.setCopy a g { c.dropped with inved := false }).sendCoh (.invAck a g)) ∧
    (c.st ≠ .s → c.want = 0 → t.onInv a g = t.sendCoh (.invAck a g)) ∧
    (0 < grant → c.want ≠ 0 → b.length = 64 → t.onData a g grant b =
      (t.setCopy a g (if grant = 1 ∧ c.inved = true then {} else { st := if grant = 1 then .s else if grant = 2 then .e else .m, data := b })).serveQueue
        a g c.queue) ∧
    (r.kind = 4 → t.onData a g 0 b = t.setNc a g { value := b }) ∧
    (∀ x, (t.dirOf g).txn = some x →
      ((t.dirOf g).wait.erase a = [] → t.onInvAck a g = t.endCollect g x) ∧
      ((t.dirOf g).wait.erase a ≠ [] → t.onInvAck a g = t.setDir g { t.dirOf g with wait := (t.dirOf g).wait.erase a })) ∧
    (c.wb = true → t.onWbAck a g = t.setCopy a g { c with wb := false, data := if c.st = .i then [] else c.data }) ∧
    (5 ≤ r.kind → t.onDone a g ps = (t.setNc a g { prior := ps }).closeWrite a) ∧
    (r.kind ≠ 0 → t.onNak a g =
      t.setNc a g { r with naks := r.naks + 1, held := true, retryAt := t.eng + 40 * (1 + t.lfsr a % 2 ^ min (r.naks + 1) 5) }) ∧
    (r.kind = 0 → c.want ≠ 0 → c.queue = [] → t.onNak a g = t.setCopy a g
      { c with naks := c.naks + 1, held := true, retryAt := t.eng + 40 * (1 + t.lfsr a % 2 ^ min (c.naks + 1) 5), inved := false, queue := [] })) ∧
  (∀ a g dt (s : State), let t := s.elapse dt; let c := t.copy a g; let r := t.nc a g
    a < 1152 → g < 2 ^ 36 →
    (r.kind = 0 → c.want ≠ 0 → c.held = true → c.retryAt ≤ t.eng →
      exec (.nakRetry a g dt) s = s.becomesR ((t.setCopy a g { c with held := false }).sendCoh (.request a g c.want c.full))) ∧
    (r.kind ≠ 0 → r.held = true → r.retryAt ≤ t.eng →
      exec (.nakRetry a g dt) s = s.becomesR ((t.setNc a g { r with held := false }).sendCoh (.request a g r.kind false))))

/-- A working hub takes a W_READ, W_WRITE or W_ATOMIC for this node out of the receive buffer, serves it through the export and sends the
reply; a W_DATA, W_DONE, W_DENY or ROUTE_FAIL for a request of its own is taken as that request's answer (one for no open request is
counted late) and what waited for it goes on; a ROUTE_FAIL of a table packet ends its table; a packet for another node is passed on; a
request that was sent and is not answered ends with REMOTE_LOST at REMOTE_US. -/
def Obligations.WindowPacketsRun : Prop :=
  (∀ h x (s : State), h < 4 → s.hubWorks h = true → x.dest = s.node →
    (x.op = 0x01 → exec (.wRead h x) s = s.becomesR ((s.consume x).serveAndReply h x)) ∧
    (x.op = 0x02 → exec (.wWrite h x) s = s.becomesR ((s.consume x).serveAndReply h x)) ∧
    (x.op = 0x03 → exec (.wAtomic h x) s = s.becomesR ((s.consume x).serveAndReply h x))) ∧
  (∀ h x (s : State) c, h < 4 → s.hubWorks h = true → x.dest = s.node →
    ((x.op = 0x08 ∧ c = .wData h x) ∨ (x.op = 0x09 ∧ c = .wDone h x) ∨ (x.op = 0x0A ∧ c = .wDeny h x) →
      exec c s = s.becomesR ((s.consume x).takeResponse x).settleAnswers) ∧
    (x.op = 0x0B → x.tag < 0x8000 → exec (.routeFail h x) s = s.becomes ((s.consume x).takeResponse x).settleAnswers)) ∧
  (∀ h x (s : State), h < 4 → s.hubWorks h = true → x.dest = s.node → x.op = 0x0B → 0x8000 ≤ x.tag →
    exec (.routeFail h x) s = s.becomes ((s.consume x).loseTabTag x.tag x.flow)) ∧
  (∀ h x (s : State), h < 4 → s.hubWorks h = true → x.dest ≠ s.node →
    exec (.tilusTransit h x) s = s.becomes ((s.consume x).sendPkt h x)) ∧
  (∀ h tag dt (s : State) key q, let t := s.elapse dt
    h < 4 → tag < 65536 → (t.rreqs.find? fun (e : Nat × RReq) => e.1 == tag && e.2.hub == h) = some (key, q) → q.unsent = none → q.sentAt + t.remoteNs ≤ t.eng →
    exec (.remoteTimeout h tag dt) s = s.becomes (t.loseReq key))

/-- On an UP port a data frame with a wrong CRC is counted and a NAK owed; a good frame in sequence takes its packets in, one seen before is
dropped, one out of sequence owes a NAK; what is owed goes with the next data frame or in an idle frame. Idle and beacon frames carry
control alone, another bad frame or a reserved type nothing. Sixteen NAKs for one frame retrain the port; its end brings the port UP with
its replay buffer sent again, its time limit makes it LOST; training brings a DISABLED or LOST enabled port UP at 4 or 8 lanes with empty
queues; 2 us without a beacon make it LOST; a failure makes it FAILED; a reservation's slot opens in its time order in each of its deals,
closes at its end and is released once its last is over; the priority interval starts anew each microsecond. -/
def Obligations.TilusPortsRun : Prop :=
  (∀ p n b (s : State), let f := frameOf b; let t := s.incF .TLS_PERR_FEC_FIXED p n; let u := t.frameControl p f; let v := u.hubEnergy (p / 4) 640000
    p < 16 → b.length = 800 → s.tlsUp p = true →
    (f.good = false → exec (.tilusFrame p ⟨n, b⟩) s = s.becomes
      (if f.typ = 0 then ((t.incF .TLS_PERR_CRC_ERRORS p).setTls p { t.tls p with nakOut := true }).answerFrame p else t)) ∧
    (f.good = true → f.typ = 0 → exec (.tilusFrame p ⟨n, b⟩) s = s.becomes
      (State.answerFrame (if f.seq = ((v.tls p).rxSeq + 1) % 65536 then
          f.packets.foldl (fun s x => s.takeIn p x) (v.setTls p { v.tls p with rxSeq := f.seq, nakOut := false })
        else if ((v.tls p).rxSeq + 65536 - f.seq) % 65536 < 32768 then v
        else v.setTls p { v.tls p with nakOut := true }) p)) ∧
    (f.good = true → f.typ = 1 ∨ f.typ = 2 → exec (.tilusFrame p ⟨n, b⟩) s = s.becomes (u.pumpPort p)) ∧
    (f.good = true → 3 ≤ f.typ → exec (.tilusFrame p ⟨n, b⟩) s = s.becomes t)) ∧
  (∀ p (s : State), p < 16 → s.tlsUp p = true → 16 ≤ (s.tls p).nakRun →
    exec (.tilusRetrain p) s = s.becomes
      (let u := (s.setF .TLS_PSTAT_STATE p 3).incF .TLS_PSTAT_RETRAINS p
       u.setTls p { u.tls p with downAt := some u.eng, nakRun := 0 })) ∧
  (∀ p dt (s : State), let t := s.elapse dt
    p < 16 → t.f .TLS_PSTAT_STATE p = 3 → t.hubWorks (p / 4) = true →
    exec (.tilusRetrainEnd p dt) s = s.becomes
      ((((t.setF .TLS_PSTAT_STATE p 2).setTls p { t.tls p with downAt := none }).replayPort p).pumpPort p)) ∧
  (∀ p dt at_ (s : State), let t := s.elapse dt
    p < 16 → (t.tls p).downAt = some at_ → t.f .TLS_PSTAT_STATE p ≠ 2 → at_ + 1000000 ≤ t.eng →
    exec (.tilusRetrainTimeout p dt) s = s.becomes (t.portLost p)) ∧
  (∀ p lanes dt (s : State), let t := s.elapse dt
    let width := if lanes = 255 then 3 else if lanes % 16 = 15 then 1 else if lanes / 16 = 15 then 2 else 0
    p < 16 → lanes < 256 → t.fb .TLS_PCTRL_ENABLE p = true → (t.f .TLS_PSTAT_STATE p = 1 ∨ t.f .TLS_PSTAT_STATE p = 4) →
    t.hubWorks (p / 4) = true → ((t.tls p).lastTry = 0 ∨ (t.tls p).lastTry + 1000000 ≤ t.eng) →
    (width ≠ 0 → exec (.tilusPortTrain p lanes dt) s = s.becomes
      ((((t.setF .TLS_PSTAT_STATE p 2).setF .TLS_PSTAT_WIDTH p width).setF .TIME_PORT_LOST p 0).setTls p
        { lastTry := max t.eng 1, lastBeacon := t.eng, prioAt := t.eng })) ∧
    (width = 0 → exec (.tilusPortTrain p lanes dt) s = s.becomes (t.setTls p { t.tls p with lastTry := max t.eng 1 }))) ∧
  (∀ p dt (s : State), let t := s.elapse dt
    p < 16 → (t.f .TLS_PSTAT_STATE p = 2 ∨ t.f .TLS_PSTAT_STATE p = 3) → (t.tls p).lastBeacon + 2000 ≤ t.eng →
    exec (.tilusPortLost p dt) s = s.becomes (t.portLost p)) ∧
  (∀ p (s : State), p < 16 → s.hubPresent (p / 4) = true → s.f .TLS_PSTAT_STATE p ≠ 5 →
    exec (.tilusPortFail p) s = s.becomes (s.portDown p 5)) ∧
  (∀ p r dt k (s : State), let t := s.elapse dt; let ix := resIx p r; let x := t.resvOf ix; let off := t.f .TLS_RES_OFFSET_NS ix
    p < 16 → r < 16 → t.resValid p r = true → t.hubWorks (p / 4) = true → x.openUntil = none → off ≤ t.now →
    (t.resSched p r).current (t.now - off) = some k → x.firstDeal ≤ k → x.nextDeal ≤ k → x.since < (t.resSched p r).boundary k →
    (x.count = 0 ∨ k < x.firstDeal + x.count) → t.inOrder ((t.resSched p r).boundary k + off) = true →
    exec (.reservedSlotOpen p r dt) s = s.becomes
      ((t.setResv ix { x with openUntil := some (t.now + t.f .TLS_RES_SLOT_NS ix), deal := k, nextDeal := k + 1 }).pumpPort p)) ∧
  (∀ p r dt till (s : State), let t := s.elapse dt; let ix := resIx p r; let x := t.resvOf ix
    p < 16 → r < 16 → t.resValid p r = true → x.openUntil = some till → till ≤ t.now →
    (x.count = 0 ∨ t.now < (t.resSched p r).boundary (x.firstDeal + x.count - 1) + t.f .TLS_RES_OFFSET_NS ix + t.f .TLS_RES_SLOT_NS ix) →
    exec (.reservedSlotClose p r dt) s = s.becomes (t.setResv ix { x with openUntil := none })) ∧
  (∀ p r dt (s : State), let t := s.elapse dt; let ix := resIx p r; let x := t.resvOf ix
    p < 16 → r < 16 → t.resValid p r = true → x.openUntil = none → x.count ≠ 0 →
    (t.resSched p r).boundary (x.firstDeal + x.count - 1) + t.f .TLS_RES_OFFSET_NS ix + t.f .TLS_RES_SLOT_NS ix ≤ t.now →
    exec (.reservedSlotClose p r dt) s = s.becomes (t.release p r)) ∧
  (∀ p dt (s : State), let t := s.elapse dt
    p < 16 → (t.tls p).prioAt + 1000 ≤ t.eng →
    exec (.prioInterval p dt) s = s.becomes
      (let u := if (t.tls p).prioOver then t.incF .TLS_PFRAME_RESV_OVER p else t
       (u.setTls p { t.tls p with prioNs := 0, prioAt := u.eng, prioOver := false }).pumpPort p))

/-- At a port whose hub works and whose link is up, where the function decodes memory requests (Memory Space Enable set, and not in D3hot) and
the request lies inside its BAR (256 MiB of BAR0, and of BAR2 the size the Resizable BAR holds), an allowed inbound read of BAR0 is
answered with the control-space bytes and an allowed write of BAR0 performed on them; one of BAR2 reads or writes memory at the aperture;
a request from a function that is neither the host nor a verified peer with the right, or a poisoned write, counts in PCI_INBOUND.UR and
touches neither memory nor registers but that; a request that the function does not decode is no request of this design: a read is
answered as unsupported, and nothing is counted (the model's reading, log entry 58). -/
def Obligations.InboundRequestsRun : Prop :=
  (∀ k rid bar off len (s : State), let t := s.evHub k 0x22 0 0 len
    k < 2 → rid < 65536 → bar = 0 ∨ bar = 2 → len ≤ 4096 → s.portServes k = true →
    (t.memServes k = true → off + len ≤ t.barBytes k bar → t.inboundOk k rid bar off len false = true →
      exec (.inboundRead k rid bar off len) s = s.becomesR
        (if bar = 0 then t.answerIn k 0 (leBytes len (t.readCtl .host off len)) else t.inboundMemRead k (t.aperture k off) len)) ∧
    (t.memServes k = true → off + len ≤ t.barBytes k bar → t.inboundOk k rid bar off len false = false →
      exec (.inboundRead k rid bar off len) s = s.becomesR ((t.incF .PCI_INBOUND_UR k).answerIn k 1 [])) ∧
    (t.memServes k = false ∨ t.barBytes k bar < off + len →
      exec (.inboundRead k rid bar off len) s = s.becomesR (t.answerIn k 1 []))) ∧
  (∀ k rid bar off d poisoned (s : State), let t := s.evHub k 0x22 0 0 d.length
    k < 2 → rid < 65536 → bar = 0 ∨ bar = 2 → d.length ≤ 512 → s.portServes k = true →
    (t.memServes k = true → off + d.length ≤ t.barBytes k bar → poisoned = false → t.inboundOk k rid bar off d.length true = true →
      exec (.inboundWrite k rid bar off d poisoned) s = s.becomesR
        (if bar = 0 then t.writeCtl .host off d.length (leNat d) else t.inboundMemWrite k (t.aperture k off) d)) ∧
    (t.memServes k = false ∨ t.barBytes k bar < off + d.length →
      exec (.inboundWrite k rid bar off d poisoned) s = s.becomesR t) ∧
    (t.memServes k = true → off + d.length ≤ t.barBytes k bar → poisoned = true ∨ t.inboundOk k rid bar off d.length true = false →
      exec (.inboundWrite k rid bar off d poisoned) s = s.becomesR (t.incF .PCI_INBOUND_UR k) ∧ (t.incF .PCI_INBOUND_UR k).mem = s.mem ∧
        (t.incF .PCI_INBOUND_UR k).hostMem = s.hostMem ∧ (t.incF .PCI_INBOUND_UR k).rings = s.rings))

/-- A configuration request before READY is answered with the retry status; afterwards a read is answered with the register's value and a
write takes effect on the register; link up shows the trained speed, width and flit mode; link down, PERST, hot reset, FLR and clearing
Bus Master Enable lose the host for the port with detail 1 to 4 and are counted; setting Bus Master Enable starts mastering again, and
with it Memory Space Enable is set (the model's choice, log entry 58); a retrain is counted; a completion's data is the host memory now,
and a flushing read's completion lets its command end; a completion that times out, or comes back UR, CA or poisoned, ends its command
with the read's loss, detail 5 to 8; peer verification ends VERIFIED exactly when ID_PART names this design and the serial agrees, both
read at the second place when the first ID_PART is zero, and REFUSED otherwise, a failed read included. -/
def Obligations.PciePortEventsRun : Prop :=
  (∀ k reg w (s : State), k < 2 → CfgReg.ok reg = true → (∀ v, w = some v → v < 2 ^ 32) →
    (s.f .RST_STATUS_PHASE ≠ 5 → exec (.configRequest ⟨k, reg, w⟩) s = s.becomes
      (s.setPort k { s.port k with retryStatus := (s.port k).retryStatus + 1 })) ∧
    (s.f .RST_STATUS_PHASE = 5 → w = none → exec (.configRequest ⟨k, reg, w⟩) s = s.becomes
      (let t := s.takeFree.2
       t.setPort k { t.port k with cfgReads := (reg, t.cfgValue k (s.takeFree.1 % 2 ^ 32) reg) :: (t.port k).cfgReads })) ∧
    (∀ v, s.f .RST_STATUS_PHASE = 5 → w = some v → exec (.configRequest ⟨k, reg, w⟩) s = s.becomes (s.cfgWrite k v reg))) ∧
  (∀ k sp w fl (s : State), okLink k sp w = true → s.fb .PCI_LINK_UP k = false → s.hubWorks k = true →
    exec (.pcieLinkUp k sp w fl) s = s.becomes (s.linkFields k true sp w (fl || sp == 6))) ∧
  (∀ k (s : State), k < 2 → s.fb .PCI_LINK_UP k = true →
    exec (.pcieLinkDown k) s = s.becomes ((s.linkLoss k).incF .PCI_EVENTS_LINK_DOWNS k) ∧
    exec (.pcieHotReset k) s = s.becomes (((s.configReset k).hostLost k 2).incF .PCI_EVENTS_HOT_RESETS k) ∧
    exec (.pcieFlr k) s = s.becomes (((s.configReset k).hostLost k 3).incF .PCI_EVENTS_FLRS k) ∧
    exec (.pcieRetrain k) s = s.becomes (s.incF .PCI_EVENTS_RETRAINS k) ∧
    exec (.busMasterEnableSet k) s = s.becomes
      (let t := (s.setF .PCI_LINK_BME k 1).setF .PCI_LINK_STOPPED k 0
       t.setPort k { s.port k with memEn := true }) ∧
    (s.f .RST_STATUS_PHASE = 5 → exec (.perstDeassert k) s = s.becomes ((s.linkLoss k).incF .PCI_EVENTS_LINK_DOWNS k))) ∧
  (∀ k (s : State), k < 2 → s.fb .PCI_LINK_BME k = true →
    exec (.busMasterEnableCleared k) s = s.becomes ((s.setF .PCI_LINK_BME k 0).hostLost k 4)) ∧
  (∀ k tag addr d (s : State), let x := (s.port k).reads.fget tag ⟨0, 0, false, 0, 0⟩
    let t := { s with hostMem := (List.range d.length).foldl (fun m i => FMap.fput m (hostKey k ((addr + i) % 2 ^ 64)) (d.getD i 0) 0) s.hostMem }
    k < 2 → s.portOk k = true →
    (x.flush = false → exec (.pcieCompletion k tag addr d) s = s.becomes t) ∧
    (x.flush = true → exec (.pcieCompletion k tag addr d) s = s.becomes
      (let u := t.setPort k { t.port k with reads := (t.port k).reads.fput tag ⟨0, 0, false, 0, 0⟩ ⟨0, 0, false, 0, 0⟩ }
       ((u.pumpReads k 1).modEntry x.ring x.pos fun e => { e with flush := e.flush.erase k }).afterFlush x.ring x.pos))) ∧
  (∀ k r pos e (s : State), k < 2 → okPos r pos = true → s.entry? r pos = some e → (e.st = .running ∨ e.st = .finished) → s.usesPort k r e = true →
    (let f := fun (t : State) detail =>
       let p : PciPort := { t.port k with
         reads := (t.port k).reads.filter fun (x : Nat × PRead) => !(x.2.ring == r && x.2.pos == pos)
         queued := (t.port k).queued.filter fun x => !(x.1 == r && x.2.1 == pos) }
       ((t.setPort k p).pumpReads k 1024).loseHost k detail r pos
     exec (.completionUr k r pos) s = s.becomes (f s 6) ∧ exec (.completionCa k r pos) s = s.becomes (f s 7) ∧
     exec (.poisonedCompletion k r pos) s = s.becomes (f s 8))) ∧
  (∀ k r pos dt (s : State), k < 2 → okPos r pos = true → (s.elapse dt).readSent k r pos + 50000000 ≤ (s.elapse dt).eng →
    exec (.completionTimeout k r pos dt) s = s.becomes ((s.elapse dt).readLost k r pos 5)) ∧
  (∀ k i (first second : PeerIdent) (s : State), k < 2 → i < 16 → s.f .PCI_PEER_STATE (16 * k + i) = 1 →
    exec (.peerVerifyDone k i first second) s = s.becomes
      (let again := !first.failed && first.part == 0
       let c := if again then second else first
       let t := if again then s.setPort k { s.port k with idReads := s.peerBlock (16 * k + i) 1 :: (s.port k).idReads } else s
       t.setF .PCI_PEER_STATE (16 * k + i)
         (if c.failed = false ∧ bitsOf c.part.toNat 16 16 = 9 ∧ c.serial.toNat = s.f .PCI_PEER_SERIAL_SERIAL (16 * k + i) then 2 else 3))) ∧
  (∀ k i dt (s : State), let t := s.elapse dt
    k < 2 → i < 16 → t.f .PCI_PEER_STATE (16 * k + i) = 1 → (t.port k).verifyAt.fget i 0 + 10000000 ≤ t.eng →
    exec (.peerVerifyTimeout k i dt) s = s.becomes (t.setF .PCI_PEER_STATE (16 * k + i) 3))

/-- At an UP end a flit that the other end may send (a guest's end too) is sent and arrives with the bits disturbed on its way; one that it
may not send changes nothing. A data flit with a wrong CRC is counted and discarded with a NAK; a good one in sequence is delivered, and
at a guest's hub the packets it completes are acted on; one seen before is dropped; one out of sequence is discarded; an idle flit is
compared with its pattern. Sixteen NAKs for one flit force a window; a lane that differed in 1,024 idle flits in a row is flagged; a due
window starts when neither end is blocked; its end sets the module's goal state, or FAILED when all lanes of an end are dead: UP begins
the run of flits again, measures the route's delay and replays the buffers; otherwise the buffers of both ends are empty afterwards, and
those of a FAILED module are lost, nothing of them sent by other routes; the window is counted, the lane errors are cleared, and routes
and distances are updated when widths or state changed. 1 us without a flit fails the module, and dies no route then reaches fail;
transactions older than 100 us are forgotten. -/
def Obligations.CoroxLinksRun : Prop :=
  (∀ e b errs (s : State), e < 176 → b.length = 256 → s.f .CRX_STATUS_STATE e = 2 →
    (∀ t, ((farEnd e).bind fun y => s.sentBy y (flitOf b)) = some t → exec (.flit e ⟨b, errs⟩) s = s.becomes
      (let u := t.takeFlit e (flipBits b errs)
       match endGuest e with
       | some k => if (u.crxE e).rxSeq = (t.crxE e).rxSeq then u.pumpGuest k 64 else u.guestUnits k (flitOf (flipBits b errs)).payload
       | none => u)) ∧
    (((farEnd e).bind fun y => s.sentBy y (flitOf b)) = none → exec (.flit e ⟨b, errs⟩) s = s.becomes s)) ∧
  (∀ e b (s : State), let f := flitOf b; let ph := (s.crxE e).phase
    let t := s.setCrxE e { s.crxE e with lastFlit := s.eng, phase := (ph + 1) % 3 }
    let c := t.takeControl e f
    let next := ((t.crxE e).rxSeq + 1) % 4096
    (f.typ = 0 → f.good = false → s.takeFlit e b = (t.incF .CRX_ERR_CRC_ERRORS e).discardFlit e (badSeq next f.seq) ph b) ∧
    (f.typ = 0 → f.good = true → f.seq = next → s.takeFlit e b = c.deliverFlit e f.seq b) ∧
    (f.typ = 0 → f.good = true → f.seq ≠ next →
      s.takeFlit e b = if ((c.crxE e).rxSeq + 4096 - f.seq) % 4096 < 2048 then c else c.discardFlit e f.seq ph b) ∧
    (f.typ = 1 → f.good = true → s.takeFlit e b = (t.noteIdle e ph b).takeControl e f) ∧
    (f.typ = 2 → f.good = true → s.takeFlit e b = c) ∧
    (e < 176 → ((s.discardFlit e next ph b).crxE e).nakOut = true)) ∧
  (∀ e (s : State), let u := (crxEnds e).foldl (fun s x => s.incF .CRX_ERR_FORCED x) s; let t := State.pendCrx (u.setCrxE e { s.crxE e with forced := true, nakRun := 0 }) e
    e < 176 → s.f .CRX_STATUS_STATE e = 2 → 16 ≤ (s.crxE e).nakRun →
    exec (.coroxForcedWindow e) s = s.becomes (if t.crxBlocked e then t else t.startCrxWindow e)) ∧
  (∀ e dt (s : State), let t := s.elapse dt
    e < 176 → t.endUp e = true → (t.crxE e).lastFlit + 1000 ≤ t.eng → exec (.coroxModuleFail e dt) s = s.becomes (t.failModule e).settleReach) ∧
  (∀ dt (s : State), let t := s.elapse dt
    exec (.transactionMemoryExpiry dt) s = s.becomes { t with crxTxns := t.crxTxns.filter fun x => decide (t.eng < x.at_ + 100000) }) ∧
  (∀ e l (s : State), let x := s.crxE e
    e < 176 → l < 68 → s.f .CRX_STATUS_STATE e = 2 → 1024 ≤ x.stuck.fget l 0 →
    exec (.coroxLaneStuck e l) s = s.becomes ((s.setCrxE e { x with stuck := x.stuck.fput l 0 0 }).flagCrx e l)) ∧
  (∀ e dt (s : State), let t := s.elapse dt; let c := t.sched (schedKey 16 (t.f .CRX_CTRL_SCHEDULE e))
    e < 176 → (t.f .CRX_STATUS_STATE e = 2 ∨ t.f .CRX_STATUS_STATE e = 4) → t.fb .CRX_STATUS_PENDING e = true →
    ((t.crxE e).forced = true ∨ (t.fb .CRX_CTRL_WIN_SCHED e = true ∧ c.defined = true ∧ c.due t.now (t.crxE e).nextDeal = true) ∨
      ((t.fb .CRX_CTRL_WIN_SCHED e = false ∨ c.defined = false) ∧ (t.crxE e).pendAt + 1000000 ≤ t.eng)) →
    t.crxBlocked e = false → (∀ x ∈ crxEnds e, t.endPartWorks x = true) → (t.crxWinTime e).all t.inOrder = true →
    exec (.coroxWindow e dt) s = s.becomes (t.startCrxWindow e)) ∧
  (∀ e dt (s : State), let t := s.elapse dt; let goal := (t.crxE e).goal
    let dead := (crxEnds e).any fun x => t.deadLanes x == 68
    e < 176 → t.f .CRX_STATUS_STATE e = 3 →
    exec (.coroxWindowEnd e dt) s = s.becomes
      (let u := (crxEnds e).foldl (fun s x =>
         (List.range 68).foldl (fun s l => s.setF .CRX_LANE_ERRORS (crxLane x l) 0) (s.incF .CRX_STATUS_WINDOWS x))
         (t.endWindow e (if goal = 4 && dead then 5 else goal))
       let v := u.settleCrx e
       (if ((t.f .CRX_STATUS_WIDTH_TX e, t.f .CRX_STATUS_WIDTH_RX e), (t.crxE e).prior) =
         ((v.f .CRX_STATUS_WIDTH_TX e, v.f .CRX_STATUS_WIDTH_RX e), v.f .CRX_STATUS_STATE e) then v else v.updateRoutes.keepOrder).settleReach)) ∧
  (∀ e (s : State), s.endWindow e 2 = (crxEnds e).foldl (fun s x =>
      ((s.setCrxE x { s.crxE x with lastFlit := s.eng, nakRun := 0, phase := 0, stuck := [] }).measureCrx x).replayFrom x) (s.setModule e 2)) ∧
  (∀ e x y (s : State), e < 176 → crxPeer e = some y → x = e ∨ x = y →
    ((s.endWindow e 4).crxE x).replay = [] ∧ ((s.endWindow e 5).crxE x).replay = [] ∧ (s.endWindow e 5).out.crxMoved = s.out.crxMoved)

/-- A G_READ, G_WRITE or G_ATOMIC of a guest whose module is UP waits at the guest while it has no credit; else it spends its credit, fills
the hub's buffers and arrives. It is then judged in the order of Table 13-7: the site not admitted, a malformed packet or one too many, no
rule that holds it whole, a right lacking, the partition not working, a hole: each is denied with its reason. A request that passes waits,
and is performed for the rule's partition when a free value or the end of the waiting says so. (A request with the TAG of one outstanding,
of which the spec says nothing, is no part of this statement; log entry 25.) A training attempt each millisecond tries Corox native first,
then UCIe at the highest rate of both: it brings the module up in the mode it found, DISABLED when a direction has no width; the identity
received makes the guest TRAINED with that identity; a link loss takes the guest's state down; an expulsion performs the requests that
wait, returns the guest to TRAINED and ends the GUEST_ADMIT with DONE. -/
def Obligations.GuestCommandsRun : Prop :=
  (∀ k b op (s : State) c, let p := guestPacketOf b; let t := s.pumpGuest k 64; let far := t.crxE (176 + k); let e := guestEnd k
    k < 2 → s.f .CRX_STATUS_STATE e = 2 → s.hubWorks (2 + k) = true → p.whole = true →
    ((op = 0x40 ∧ c = .gRead k b) ∨ (op = 0x41 ∧ c = .gWrite k b) ∨ (op = 0x42 ∧ c = .gAtomic k b)) →
    (far.maySend p.units = true → exec c s = s.becomes
      (let u := t.setCrxE (176 + k) { far with credit := spendUnits far.credit p.units }
       let x := u.crxE e
       ((u.setCrxE e { x with held := (List.range 5).map fun v => x.held.getD v 0 + p.units.count v }).guestRequest k op p).pumpGuest k 64)) ∧
    (far.maySend p.units = false → exec c s = s.becomes t)) ∧
  (∀ k op (p : GPacket) (s : State), let t := if op = 0x40 then s else s.meterGuest k p.span; let open_ := (t.guest k).waiting
    let rule := (List.range 16).find? fun i => t.ruleValid k i && decide (t.ruleBase k i ≤ p.addr) &&
      decide (p.addr + p.span ≤ t.ruleBase k i + t.ruleSize k i)
    (open_.any fun (x : Nat × GPacket) => x.2.tag == p.tag) = false →
    (t.f .CRX_GSTAT_STATE k ≠ 3 → s.guestRequest k op p = t.denyGuest k p 1) ∧
    (t.f .CRX_GSTAT_STATE k = 3 → (p.op ≠ op ∨ p.ok k = false ∨ t.f .CRX_GSTAT_MAX_OUT k ≤ open_.length) →
      s.guestRequest k op p = t.denyGuest k p 7) ∧
    (t.f .CRX_GSTAT_STATE k = 3 → p.op = op → p.ok k = true → open_.length < t.f .CRX_GSTAT_MAX_OUT k →
      (rule = none → s.guestRequest k op p = t.denyGuest k p 2) ∧
      (∀ i, let q := t.f .CRX_GRULE_SIZE_PART (ruleIx k i); let st := t.f .RST_PART_STATE q
        let granted := p.need &&& t.f .CRX_GRULE_SIZE_RIGHTS (ruleIx k i) = p.need
        rule = some i →
        (¬ granted → s.guestRequest k op p = t.denyGuest k p 3) ∧
        (granted → st = 0 ∨ st = 2 ∨ st = 3 → s.guestRequest k op p = t.denyGuest k p 8) ∧
        (granted → (st ≠ 0 ∧ st ≠ 2 ∧ st ≠ 3) → t.guestHole q p = true → s.guestRequest k op p = t.denyGuest k p 4) ∧
        (granted → (st ≠ 0 ∧ st ≠ 2 ∧ st ≠ 3) → t.guestHole q p = false →
          s.guestRequest k op p = (t.setWaiting k (open_ ++ [(q, p)])).serveGuest k false)))) ∧
  (∀ k q p all (s : State), (s.guest k).waiting = [(q, p)] → (all = true ∨ bitOf (Config.freeBits s.free).toNat 0 = true) →
    s.serveGuest k all = (State.setWaiting { s with free := s.free + 1 } k []).performGuest k q p) ∧
  (∀ k (g : GuestOffer) dt (s : State), let t := s.elapse dt; let e := guestEnd k
    let mode := if g.native then 1 else if bitOf g.rates 1 then 3 else if bitOf g.rates 0 then 2 else 0
    k < 2 → g.width < 4 → g.rates < 4 → t.f .CRX_GSTAT_STATE k = 1 → t.hubWorks (2 + k) = true → t.f .CRX_STATUS_STATE e = 1 →
    (t.guest k).lastTry + 1000000 ≤ t.eng →
    exec (.guestTrainRetry k g dt) s = s.becomes
      (let u := t.setGuest k { t.guest k with lastTry := t.eng }
       if mode = 0 then u
       else
         let v := (u.setGuest k { u.guest k with width := g.width, queue := [], part := [], lost := [] }).setF .CRX_STATUS_LINK e (mode - 1)
         let w := v.setModule e (if v.rxWidth e = 0 ∨ v.txWidth e = 0 then 4 else 2)
         (((w.setCrxE e { lastFlit := w.eng }).setCrxE (176 + k) {}).measureCrx e).settleCrx e)) ∧
  (∀ k (lo hi : Word) (s : State), k < 2 → s.f .CRX_GSTAT_STATE k = 1 → s.endUp (guestEnd k) = true →
    exec (.guestIdentity k lo hi) s = s.becomes
      (((s.setF .CRX_GID_LO_ID k lo.toNat).setF .CRX_GID_HI_ID k hi.toNat).setF .CRX_GSTAT_STATE k 2)) ∧
  (∀ k (s : State), k < 2 → s.endUp (guestEnd k) = true → exec (.guestLinkDown k) s = s.becomes (s.guestDown k)) ∧
  (∀ k r pos (s : State), let u := s.serveGuest k true; let t := u.setGuest k { u.guest k with expel := none }
    k < 2 → (s.guest k).expel = some (r, pos) → t.f .CRX_GSTAT_STATE k = 4 → t.isActive r pos = true →
    exec (.guestExpelDone k) s = s.becomes ((t.setF .CRX_GSTAT_STATE k 2).doneWith r pos))

/-- At READY a 2 us window boundary forms the budgets and caps (R391). A regulator alert shows in PWR_STATUS and forces the dies it feeds; 10
us after its release the effect ends. A droop is counted and stretches the clock; 20 ns above the threshold stretching ends and its cycles
are counted; 2 us later a held step begins. A unit domain away from its state steps, or a droop holds the step, which is counted once; a
die that stays forced in PSTATE 7 has its stack and node domains at 0.625 GHz too, and leaves that with its return (slow). A sample stores
the temperature and the peak, forces at 110 C until below 100 C, and fails the part at 125 C. A quiet die is idle. NAP entry writes back
and puts the stacks in self-refresh; its exit returns to RUN. -/
def Obligations.PowerEventsRun : Prop :=
  (∀ dt (s : State), let t := (s.elapse dt).coolSettle
    t.clockRuns = true → t.power.nextWin ≤ t.now ∨ t.now + 2000 < t.power.nextWin → exec (.powerWindow dt) s = s.becomes (t.window (t.now / 2000 * 2000))) ∧
  (∀ i dt (s : State), let t := s.elapse dt
    let u := if i < 8 then t.setF .PWR_STATUS_ALERT_C 0 (setBit (t.f .PWR_STATUS_ALERT_C) i)
      else t.setF (if i = 8 then .PWR_STATUS_ALERT_M else .PWR_STATUS_ALERT_H) 0 1
    let w := { u with power := { u.power with alertOn := setBit u.power.alertOn i, alertAt := u.power.alertAt.fput i 0 0 } }
    i < 10 → exec (.regulatorAlertAssert i dt) s = s.becomes
      ((alertDies i).foldl (fun s n => (s.setCause n 0 true).setDiePwr n { (s.setCause n 0 true).diePwr n with alertWin := true }) w)) ∧
  (∀ i (s : State), i < 10 → s.alertLow i = true → exec (.regulatorAlertRelease i) s = s.becomes
      (let u := if i < 8 then s.setF .PWR_STATUS_ALERT_C 0 (clrBit (s.f .PWR_STATUS_ALERT_C) i)
         else s.setF (if i = 8 then .PWR_STATUS_ALERT_M else .PWR_STATUS_ALERT_H) 0 0
       { u with power := { u.power with alertAt := u.power.alertAt.fput i (u.eng + 1) 0 } })) ∧
  (∀ i dt (s : State), let t := s.elapse dt; let a := t.power.alertAt.fget i 0
    i < 10 → bitOf t.power.alertOn i = true → t.alertLow i = false → a ≠ 0 → a + 9999 ≤ t.eng →
    exec (.alertHoldExpiry i dt) s = s.becomes ((alertDies i).foldl (fun s n => s.setCause n 0 false)
      { t with power := { t.power with alertOn := clrBit t.power.alertOn i, alertAt := t.power.alertAt.fput i 0 0 } })) ∧
  (∀ n (s : State), let d := s.diePwr n
    n < 16 → d.droop = false → exec (.droopDetect n) s = s.becomes
      (((s.incF .PWR_DIE_EVT_DROOPS n).setF .PWR_DIE_STRETCH n 1).setDiePwr n
        { d with droop := true, stretchAt := if d.stretchAt ≠ 0 then d.stretchAt else s.eng })) ∧
  (∀ n (s : State), let d := s.diePwr n
    n < 16 → d.droop = true → exec (.droopClear n) s = s.becomes (s.setDiePwr n { d with droop := false, holding := true, clearAt := s.eng })) ∧
  (∀ n dt (s : State), let t := s.elapse dt; let d := t.diePwr n
    let c := (t.eng - d.stretchAt) * pstateMHz (t.f .PWR_DIE_PSTATE n) / 2000
    n < 16 → t.fb .PWR_DIE_STRETCH n = true → d.droop = false → d.clearAt + 20 ≤ t.eng →
    exec (.stretchEnd n dt) s = s.becomes
      ((((t.setF .PWR_DIE_STRETCH n 0).incF .PWR_STRETCH_CYCLES n c).evDie n 0x02 0 c).setDiePwr n { d with stretchAt := 0 })) ∧
  (∀ n dt (s : State), let t := s.elapse dt; let d := t.diePwr n; let u := t.setDiePwr n { d with holding := false }
    n < 16 → d.holding = true → d.droop = false → d.clearAt + 2000 ≤ t.eng → exec (.stepHoldExpiry n dt) s = s.becomes
      (if d.waiting = true ∧ u.f .PWR_DIE_PSTATE n ≠ u.pTarget n then u.beginStep n else (u.setDiePwr n { u.diePwr n with waiting := false }).setSlow n)) ∧
  (∀ n dt (s : State), let t := (s.elapse dt).coolSettle; let u := t.setReq n; let d := u.diePwr n
    n < 16 →
    (∀ at_ st, d.stepEnd = some (at_, st) → at_ ≤ u.eng → exec (.pstateStep n dt) s = s.becomes
      (let w := (u.setF .PWR_DIE_PSTATE n st).setDiePwr n { d with stepEnd := none }
       if st ≠ w.pTarget n then w.beginStep n else w.setSlow n)) ∧
    (d.stepEnd = none → (u.f .PWR_DIE_PSTATE n ≠ u.pTarget n ∨ d.slow = true) → u.fb .PWR_DIE_FORCED n = false → u.stepHeld n = true →
      exec (.pstateStep n dt) s = s.becomes
        (if d.waiting then u else (u.incF .PWR_DIE_EVT_HELD_STEPS n).setDiePwr n { d with waiting := true })) ∧
    (d.stepEnd = none → u.f .PWR_DIE_PSTATE n = u.pTarget n → (u.fb .PWR_DIE_FORCED n = true ∨ d.slow = false ∨ u.stepHeld n = false) →
      exec (.pstateStep n dt) s = s.becomes ((u.setDiePwr n { d with waiting := false }).setSlow n)) ∧
    (d.stepEnd = none → u.f .PWR_DIE_PSTATE n ≠ u.pTarget n → (u.fb .PWR_DIE_FORCED n = true ∨ u.stepHeld n = false) →
      exec (.pstateStep n dt) s = s.becomes (u.beginStep n))) ∧
  (∀ n temp dt (s : State), let t := s.elapse dt
    let u := (t.setF .PWR_TEMP_TEMP n temp).setF .PWR_TEMP_PEAK n (max (t.f .PWR_TEMP_PEAK n) temp)
    let hot := decide (110 ≤ temp) || ((u.diePwr n).hot && decide (100 ≤ temp))
    let w := (u.setDiePwr n { u.diePwr n with hot := hot }).setCause n 1 hot
    n < 16 → temp < 256 → exec (.dieTempSample (.die n) temp dt) s = s.becomes (if 125 ≤ temp then w.dieFailed n 2 else w)) ∧
  (∀ h temp dt (s : State), let t := s.elapse dt
    let u := (t.setF .PWR_HUB_TEMP h temp).setF .PWR_HUB_PEAK h (max (t.f .PWR_HUB_PEAK h) temp)
    let hot := decide (110 ≤ temp) || (bitOf u.power.hotHubs h && decide (100 ≤ temp))
    let w := { u with power := { u.power with hotHubs := if hot then setBit u.power.hotHubs h else clrBit u.power.hotHubs h } }
    h < 4 → temp < 256 → exec (.dieTempSample (.hub h) temp dt) s = s.becomes (if 125 ≤ temp then w.hubFailed h 4 else w)) ∧
  (∀ n (s : State), n < 16 → s.dieWorks n = true → s.dieQuiet n = true →
    exec (.dieIdleEntry n) s = s.becomes (s.setDiePwr n { s.diePwr n with idle := true })) ∧
  (∀ p dt (s : State), let t := s.elapse dt; let ds := t.partDies p; let u := ((t.flushNear ds).2.postLost p (t.flushNear ds).1)
    let v := u.giveUpAll (u.partAgents p).contains
    let w := (((ds.flatMap fun n => (List.range 4).map fun i => 4 * n + i).foldl (fun s sl => s.clearWays sl) v).dropTlb ds).dropClean
      fun c => ds.contains (nearDie c)
    let x := (w.partStacks p).foldl (fun s k => s.setF .MEM_STATUS_SELF_REFRESH k 1) w
    p < 16 → t.f .PWR_IDLE_STATE p = 1 → exec (.napEntryDone p dt) s = s.becomes
      (({ x with power := { x.power with napCores := setBit x.power.napCores p } }).setF .PWR_IDLE_STATE p 2)) ∧
  (∀ p dt (s : State), p < 16 → (s.elapse dt).f .PWR_IDLE_STATE p = 3 → exec (.napExitDone p dt) s = s.becomes ((s.elapse dt).leaveNap p)) ∧
  (∀ k p dt (s : State), let t := s.elapse dt
    k < 32 → t.dieOwner (k / 2) = some p → t.f .PWR_IDLE_STATE p = 2 → t.power.woken.fget k 0 ≠ 0 → t.power.woken.fget k 0 + 9999 ≤ t.eng →
    exec (.napStackIdle k dt) s = s.becomes
      { t.setF .MEM_STATUS_SELF_REFRESH k 1 with power := { t.power with woken := t.power.woken.fput k 0 0 } })

/-- POWER_GOOD takes AUX to COOL; COOL_OK held 100 ms takes COOL to HUB with all hubs in TEST and time at 0; hub tests end HUB in TRAIN, or
HALTED with code 1 (fewer than two hubs), 2 (no H0 or H1) or 4 (keeper); training marks the dies and stacks that passed, carries or
retires what its failed lanes take, and ends TRAIN in CLEAR, or HALTED with code 3 (no die); clearing zeroes memory, forms partition 0 of
the largest connected set of present dies and the two lowest present hubs, DEGRADED when a die of it has failed meanwhile, whose roles a
failed hub leaves, and ends in READY with START_MS. VAUX applied is phase AUX with CAUSE 0; loss of VAUX resets; MRESET_N low 1 us and
MODULE_RESET restart with CAUSE 1 and 2, in COOL while the rails are good, else in AUX; a module rail fault goes to AUX, a core rail fault
fails the die. COOL_OK lost at READY forces every die, before READY it restarts, else it only shows; its return is noted; after 2 s of
loss COOL_STOP stops the stacks of every partition. REFCLK lost after AUX runs on an oscillator within 100 ppm until it returns. -/
def Obligations.ResetPhasesRun : Prop :=
  (∀ dt (s : State), let t := s.elapse dt
    t.f .RST_STATUS_PHASE = 0 → t.rst.vaux = true → t.rst.refclk = true →
    exec (.powerGood dt) s = s.becomes ({ t with rst := { t.rst with railsGood := true } }.setPhase 1)) ∧
  (∀ dt at_ (s : State), let t := s.elapse dt
    t.f .RST_STATUS_PHASE = 1 → t.fb .PWR_STATUS_COOL_OK = true → t.rst.coolAt = some at_ → at_ + 100000000 ≤ t.eng →
    exec (.coolQualified dt) s = s.becomes
      (((List.range 4).foldl (fun (s : State) h => s.setF .RST_HUB_STATE h 1)
        { t with time := { engine := t.eng }, rst := { t.rst with qualAt := t.eng } }).setPhase 2)) ∧
  (∀ pass keeper dt (s : State), let t := s.elapse dt
    let u := (List.range 4).foldl (fun s h =>
      (s.setF .RST_HUB_STATE h (if bitOf pass h then 2 else 0)).setF .ID_HUB_STEP_STEP h (if bitOf pass h then s.fuse.hubStep.getD h 0 else 0))
      (t.setF .ID_PRESENT_HUBS 0 pass)
    let v := { u with keeper := { u.keeper with ok := keeper } }
    pass < 16 → t.f .RST_STATUS_PHASE = 2 → exec (.hubTestDone pass keeper dt) s = s.becomes
      (if popCount pass 4 < 2 then v.halt 1
       else if bitOf pass 0 = false ∧ bitOf pass 1 = false then v.halt 2
       else if keeper = false then v.halt 4
       else v.setPhase 3)) ∧
  (∀ dies guests ml cl dt (s : State), let t := s.elapse dt
    let ok := (List.range 16).filter fun n => bitOf dies n && !bitOf (t.f .RST_FAILED_DIES) n
    let here := t.setF .ID_PRESENT_DIES 0 (maskOf ok)
    let u := (here.setF .ID_PRESENT_GUESTS 0 (maskOf ((List.range 2).filter fun k => bitOf guests k && here.hubPresent (2 + k)))).setCaps
    let v := ok.foldl (fun s n =>
      ((s.setF .RST_DIE_STATE n 1).setF .MEM_STATUS_TRAINED (2 * n) 1).setF .MEM_STATUS_TRAINED (2 * n + 1) 1) u
    let w := ((List.range 1024).filter fun c => ok.contains (c / 64) && ml.any fun (x : Nat × Nat) => x.1 == c).foldl
      (fun s c => s.trainChannel (c / 32) (c % 32) (lanesOf ml c)) v
    let x := ok.foldl (fun s n => (s.firstTemp (2 * n)).firstTemp (2 * n + 1)) w
    let y := ((List.range 176).filter fun e => cl.any fun (x : Nat × Nat) => x.1 == e).foldl (fun s e => s.trainEnd e (lanesOf cl e)) x
    dies < 65536 → guests < 4 → (ml.all fun x => decide (x.1 < 1024) && decide (x.2 < 292)) = true →
    (cl.all fun x => decide (x.1 < 176) && decide (x.2 < 68)) = true → t.f .RST_STATUS_PHASE = 3 →
    exec (.trainDone dies guests ml cl dt) s = s.becomes
      (if ok = [] then u.halt 3 else ((List.range 176).foldl (fun s e => s.trainModule e) y).setPhase 4)) ∧
  (∀ dt (s : State), let t := s.elapse dt
    let dies := (List.range 16).filter t.diePresent; let u := (List.range 32).foldl (fun s k => s.wipeStack k) t
    let set := largestSet dies; let hubs := (List.range 4).filter u.hubPresent; let lost := set.filter fun n => !u.dieWorks n
    let v := (((u.setMap 0 set).setHubs 0 (hubs.headD 0) ((hubs.drop 1).headD 1)).setF .RST_PART_STATE 0 (if lost = [] then 1 else 4)).setF
      .RST_PART_FAILED_DIES 0 (maskOf lost)
    let w := (List.range 2).foldl (fun s k => s.setMirrorHub (16 + k) (s.moduleMirror k)) v
    let z := (hubs.filter fun h => !w.hubWorks h).foldl (fun s h => s.leaveRoles h) w
    let x := ((dies.filter z.dieWorks).foldl (fun s n => (s.setF .RST_DIE_STATE n (b2n (set.contains n) * 2)).setF .RST_DIE_CORES_HELD n 1) z).updateRoutes
    let y := { x with rst := { x.rst with heard := (List.range 20).foldl (fun m k => FMap.fput m k x.eng 0) [], beatAt := x.eng } }
    t.f .RST_STATUS_PHASE = 4 → exec (.clearDone dt) s = s.becomes
      ((y.setF .RST_STATUS_START_MS 0 (min ((y.eng - y.rst.qualAt) / 1000000) 65535)).setPhase 5).settleReach.settleRetire) ∧
  (∀ s : State, exec .auxiliaryPowerApplied s = s.becomes (s.auxReset true) ∧ exec .vauxLoss s = s.becomes (s.auxReset false) ∧
    (s.auxReset true).f .RST_STATUS_PHASE = 0 ∧ (s.auxReset true).f .RST_STATUS_CAUSE = 0 ∧ (s.auxReset true).rst.vaux = true ∧
    (s.auxReset false).rst.vaux = false) ∧
  (∀ dt (s : State), (s.elapse dt).rst.vaux = true → 1000 ≤ dt → exec (.mresetNAssert dt) s = s.becomes ((s.elapse dt).restart 1)) ∧
  (∀ s : State, s.rst.vaux = true → exec .moduleReset s = s.becomes (s.restart 2)) ∧
  (∀ (s : State) c, c < 8 → (s.restart c).f .RST_STATUS_CAUSE = c ∧ (s.restart c).f .RST_STATUS_PHASE = if s.rst.railsGood then 1 else 0) ∧
  (∀ rail dt (s : State), let t := s.elapse dt
    10000 < dt → 1 ≤ t.f .RST_STATUS_PHASE → t.f .RST_STATUS_PHASE ≤ 5 →
    (rail < 16 → 4 ≤ t.f .RST_STATUS_PHASE → exec (.railFault rail dt) s = s.becomes (t.dieFailed rail 1)) ∧
    (rail < 16 → t.f .RST_STATUS_PHASE < 4 → exec (.railFault rail dt) s = s.becomes
      (((t.setF .RST_FAILED_DIES 0 (setBit (t.f .RST_FAILED_DIES) rail)).setF .RST_DIE_STATE rail 3).setF .RST_DIE_FAIL_CAUSE rail 1)) ∧
    (16 ≤ rail → rail < 21 → exec (.railFault rail dt) s = s.becomes
      ((({ t with rst := { t.rst with railsGood := false } }.restart 0).setF .RST_STATUS_HALT 0 0).setF .RST_STATUS_START_MS 0 0))) ∧
  (∀ s : State, s.fb .PWR_STATUS_COOL_OK = true → let u := { s with rst := { s.rst with coolAt := none } }
    (s.f .RST_STATUS_PHASE = 5 → exec .coolOkDeassert s = s.becomes u.coolLost) ∧
    (1 ≤ s.f .RST_STATUS_PHASE → s.f .RST_STATUS_PHASE ≤ 4 → exec .coolOkDeassert s = s.becomes
      ((u.setF .PWR_STATUS_COOL_OK 0 0).restart ((u.setF .PWR_STATUS_COOL_OK 0 0).f .RST_STATUS_CAUSE))) ∧
    (s.f .RST_STATUS_PHASE = 0 ∨ 5 < s.f .RST_STATUS_PHASE → exec .coolOkDeassert s = s.becomes (u.setF .PWR_STATUS_COOL_OK 0 0))) ∧
  (∀ s : State, s.fb .PWR_STATUS_COOL_OK = false → exec .coolOkAssert s = s.becomes
    (let u := { s.setF .PWR_STATUS_COOL_OK 0 1 with rst := { s.rst with coolAt := some s.eng } }
     if s.power.coolForced then { u with power := { s.power with coolBackAt := some s.eng } } else u)) ∧
  (∀ at_ dt (s : State), let t := s.elapse dt
    t.power.coolLostAt = some at_ → t.f .RST_STATUS_PHASE = 5 → t.fb .PWR_STATUS_COOL_OK = false → t.fb .PWR_STATUS_COOL_STOP = false →
    at_ + 2000000000 ≤ t.eng → exec (.coolStopTimeout dt) s = s.becomes
      (((List.range 32).foldl (fun s k => if (s.dieOwner (k / 2)).isSome then s.stopStack k else s) t).setF .PWR_STATUS_COOL_STOP 0 1)) ∧
  (∀ dt (s : State), let t := s.elapse dt; let v := (t.takeFree.1 % 200001 : Nat)
    1000 ≤ dt → t.rst.refclk = true →
    (t.f .RST_STATUS_PHASE = 0 → exec (.refclkLoss dt) s = s.becomes { t with rst := { t.rst with refclk := false } }) ∧
    (t.f .RST_STATUS_PHASE ≠ 0 → exec (.refclkLoss dt) s = s.becomes
      { t.takeFree.2 with rst := { t.rst with refclk := false, refclkLost := true, osc := (v : Int) - 100000 } } ∧
      -100000 ≤ (v : Int) - 100000 ∧ (v : Int) - 100000 ≤ 100000)) ∧
  (∀ dt (s : State), exec (.refclkReturn dt) s = s.becomes { s.elapse dt with rst := { (s.elapse dt).rst with refclk := true, osc := 0 } })

/-- At READY, heartbeats 1 us after the last mark every hub heard by another and every working die on a route to its home hub as heard. A die
silent 10 us fails with cause 3; a silent hub that does not hear more than half of the working dies treats itself as failed (FENCED), else
it is failed where another hub hears them. A failed hub, die or stack goes down once. A reset hub that passes is UP and its command ends
DONE, else it is failed and the command ends PART_FAILED. A tally copy done makes the mirror of each set it copied where the mirror has
room for the entries, and returns its hub to UP when no copy of it is left. A keeper commit takes the front of its queue. A ready
signature frees the signer and has its report written: after the window answers the command still waits for, as far as a span lets it, and
whole it ends the command with the leaf that signed it and 11,397 bytes. -/
def Obligations.FailuresAndKeeperRun : Prop :=
  (∀ dt (s : State), let t := s.elapse dt
    let hubs := (List.range 4).filter fun b => t.hubWorks b && (List.range 4).any fun a => a != b && t.hubWorks a && t.hubHears a b
    let dies := (List.range 16).filter fun n => t.dieWorks n &&
      (if t.hubWorks (homeHub n) then t.reaches n (homeHub n) else (List.range 4).any fun h => t.reaches n h)
    t.f .RST_STATUS_PHASE = 5 → t.rst.beatAt + 1000 ≤ t.eng → exec (.heartbeatSend dt) s = s.becomes
      { t with rst := { t.rst with heard := (hubs ++ dies.map (4 + ·)).foldl (fun m k => m.fput k t.eng 0) t.rst.heard, beatAt := t.eng } }) ∧
  (∀ n dt (s : State), let t := s.elapse dt
    n < 16 → t.f .RST_STATUS_PHASE = 5 → t.dieWorks n = true → t.rst.heard.fget (4 + n) 0 + 10000 ≤ t.eng →
    exec (.heartbeatTimeout (.die n) dt) s = s.becomes (t.dieFailed n 3)) ∧
  (∀ h dt (s : State), let t := s.elapse dt
    let hears := fun a => 2 * (((List.range 16).filter t.dieWorks).filter fun n => t.reaches n a).length > ((List.range 16).filter t.dieWorks).length
    h < 4 → t.f .RST_STATUS_PHASE = 5 → t.hubWorks h = true → t.rst.heard.fget h 0 + 10000 ≤ t.eng →
    (¬ hears h → exec (.heartbeatTimeout (.hub h) dt) s = s.becomes (t.hubFailed h 5)) ∧
    (hears h → (∃ a, a < 4 ∧ a ≠ h ∧ t.hubWorks a = true ∧ hears a) → exec (.heartbeatTimeout (.hub h) dt) s = s.becomes (t.hubFailed h 4))) ∧
  (∀ h (s : State), h < 4 → exec (.hubFail h) s = s.becomes (s.hubFailed h 4) ∧
    (s.hubWorks h = true → s.hubFailed h 4 = (s.setF .RST_FAILED_HUBS 0 (setBit (s.f .RST_FAILED_HUBS) h)).hubDown h 4) ∧
    (s.hubWorks h = false → s.hubFailed h 4 = s)) ∧
  (∀ n (s : State), n < 16 → exec (.dieFail n) s = s.becomes (s.dieFailed n 1) ∧
    (s.dieWorks n = true → s.dieFailed n 1 = (s.dieDown n 1).settleReach) ∧ (s.dieWorks n = false → s.dieFailed n 1 = s)) ∧
  (∀ k (s : State), k < 32 → s.dieWorks (k / 2) = true → exec (.stackFail k) s = s.becomes (s.failStack k)) ∧
  (∀ h r pos dt (s : State), let t := s.elapse dt
    let u := { t with rst := { t.rst with hubReset := t.rst.hubReset.filter fun (x : Nat × (Nat × Nat)) => x.1 != h } }
    h < 4 → t.rst.hubReset.find? (fun (x : Nat × (Nat × Nat)) => x.1 == h) = some (h, (r, pos)) →
    exec (.hubResetDone h false dt) s = s.becomes
      ((((u.setF .RST_HUB_STATE h 4).setF .RST_FAILED_HUBS 0 (setBit (u.f .RST_FAILED_HUBS) h)).incF .RST_COUNTS_PART_FAILED 0).endWith r pos stPARTFAILED) ∧
    exec (.hubResetDone h true dt) s = s.becomes
      (let v := (u.setF .RST_HUB_STATE h 2).setF .RST_FAILED_HUBS 0 (clrBit (u.f .RST_FAILED_HUBS) h)
       let v := { v with rst := { v.rst with heard := v.rst.heard.fput h v.eng 0 } }
       let w := (List.range 18).foldl (fun s t =>
         if s.takesMirror h t then (s.setCopying t h).setF .RST_HUB_STATE (s.actingHub t) 3 else s) v
       let w := if 2 ≤ h then w.trainModule (hubEnd h 7) else w
       (w.rerouted u).doneWith r pos)) ∧
  (∀ h dt (s : State), let t := s.elapse dt
    let u := (List.range 18).foldl (fun s t => s.endCopy h t) t
    h < 4 → t.hubWorks h = true → exec (.tallyCopyDone h dt) s = s.becomes (if u.copyBusy h then u else u.setF .RST_HUB_STATE h 2)) ∧
  (∀ h k (s : State), let m := s.rst.copying.fget k 99
    (s.copyReady h k = true → s.endCopy h k = ((if s.hubWorks m then s.setMirrorHub k (some m) else s).setCopying k 99).roleSync s k) ∧
    (s.copyReady h k = false → s.endCopy h k = s)) ∧
  (∀ h k (s : State), s.actingHub k = h → s.rst.copying.fget k 99 < 4 → s.tallyLive k = true → s.hubWorks (s.rst.copying.fget k 99) = true →
    s.copyReady h k = decide (s.tallyUsed (s.rst.copying.fget k 99) + s.setHeld k ≤ 65536)) ∧
  (∀ c q dt (s : State), let t := s.elapse dt
    t.keeper.queue = c :: q → exec (.keeperCommitDone dt) s = s.becomes
      (({ t with keeper := { (t.keeper.commit c).2 with queue := q } }).afterCommit c (t.keeper.commit c).1)) ∧
  (∀ h g dt (s : State), let t := s.elapse dt; let u := { t with keeper := { t.keeper with signing := none } }
    let next := fun (v : State) => (v.nextSign (v.keeper.waiting.length + 1))
    h < 4 → t.keeper.signing = some g → g.hub = h → g.ready = true → t.hubWorks h = true →
    (u.isActive g.ring g.pos = false → exec (.signatureDone h dt) s = s.becomes (next u)) ∧
    (∀ e, u.isActive g.ring g.pos = true → u.entry? g.ring g.pos = some e →
      let b := u.report (sliceB e.pkt 64 32) g
      exec (.signatureDone h dt) s = s.becomes
        (next ({ u with keeper := { u.keeper with reports := u.keeper.reports ++ [(g.ring, g.pos, g.leaf, b)] } }.writeReport g.ring g.pos b)))) ∧
  (∀ r pos b e (s : State), s.entry? r pos = some e →
    (e.remoteOpen ≠ 0 → s.writeReport r pos b = s.modEntry r pos fun e => { e with phase := 9 }) ∧
    (e.remoteOpen = 0 → let w := s.writeSpans r pos (e.body 32 8) e.prog b
      (w.1 = false → s.writeReport r pos b = if w.2.isActive r pos then w.2 else w.2.dropReport r pos) ∧
      (∀ x, w.1 = true → w.2.entry? r pos = some x → x.active = true → x.remoteOpen = 0 → s.writeReport r pos b = w.2.attestDone r pos x))) ∧
  (∀ r pos e x (s : State), s.keeper.reports.find? (fun y => y.1 == r && y.2.1 == pos) = some x →
    s.attestDone r pos e = (s.dropReport r pos).endFlushed r pos e x.2.2.1 11397)

/-- With auxiliary power: READ64 makes the offset's register the next private read's value; GETSTATUS answers COOL_OK in bit 7 and REFCLK_LOST
in bit 6 and clears the latter; ENTDAA, or SETDASA at the static address 0x3A, gives an address to a port that has none. On the chain:
BYPASS selects the bypass register; IDCODE captures the device's code; SAMPLE/PRELOAD preloads and samples; EXTEST and CLAMP take the pins
in AUX and COOL and act as BYPASS in any other phase. Sampled pin levels are free values (notes/assumptions/3). -/
def Obligations.ManagementPortsRun : Prop :=
  (∀ off (s : State), off < 2 ^ 32 → s.rst.vaux = true →
    exec (.read64 off) s = s.becomes (s.setMgmt { s.mgmt with reply := some (s.i3cRead off) }) ∧
    (s.f .RST_STATUS_PHASE = 5 → s.i3cRead off = s.readCtl .host off 8)) ∧
  (∀ s : State, s.rst.vaux = true → ∃ t, exec .getstatus s = .next t ∧
    t.mgmt.status = (if s.rst.coolAt.isSome then 128 else 0) + (if s.rst.refclkLost then 64 else 0) ∧
    t.rst = { s.rst with refclkLost := false } ∧ t.regs = s.regs ∧ t.mem = s.mem) ∧
  (∀ addr (s : State), addr < 128 → s.rst.vaux = true → s.mgmt.addr = none →
    exec (.entdaa addr) s = s.becomes (s.setMgmt { s.mgmt with addr := some addr, pid := some (s.fuse.serial % 2 ^ 32) }) ∧
    exec (.setdasa 0x3A addr) s = s.becomes (s.setMgmt { s.mgmt with addr := some addr }) ∧
    (∀ sa, sa < 128 → sa ≠ 0x3A → exec (.setdasa sa addr) s = s.becomes s)) ∧
  (∀ addr a sa (s : State), addr < 128 → sa < 128 → s.mgmt.addr = some a →
    exec (.entdaa addr) s = s.becomes s ∧ exec (.setdasa sa addr) s = s.becomes s) ∧
  (∀ d (s : State), d.ok = true → s.onChain d = true →
    let code := match d with
      | .hub h => s.fuse.hubStep.getD h 0 % 16 * 2 ^ 28 + 0x9B04 * 2 ^ 12 + 0x5A3 * 2 + 1
      | .die n => s.fuse.dieStep.getD n 0 % 16 * 2 ^ 28 + 0x9C16 * 2 ^ 12 + 0x5A3 * 2 + 1
    exec (.bypass d) s = s.becomes (s.tapIr d 0 0) ∧ exec (.idcode d) s = s.becomes (s.tapIr d 1 code)) ∧
  (∀ d l (s : State), d.ok = true → s.onChain d = true → ∃ t v, exec (.samplePreload d l) s = .next t ∧
    t.mgmt.ir = s.mgmt.ir.fput (tapIx d) 2 1 ∧ t.mgmt.shifted = s.mgmt.shifted.fput (tapIx d) v 0 ∧
    t.mgmt.boundary = (match l with
      | some b => s.mgmt.boundary.fput (tapIx d) b []
      | none => s.mgmt.boundary) ∧ t.regs = s.regs ∧ t.mem = s.mem ∧ t.pinsDriven d = none) ∧
  (∀ d (s : State), d.ok = true → s.onChain d = true → s.f .RST_STATUS_PHASE < 2 →
    (∃ t, exec (.extest d) s = .next t ∧ t.mgmt.ir = s.mgmt.ir.fput (tapIx d) 3 1 ∧ t.pinsDriven d = some (s.cells d) ∧ t.regs = s.regs) ∧
    (∃ t, exec (.clamp d) s = .next t ∧ t.mgmt.ir = s.mgmt.ir.fput (tapIx d) 4 1 ∧ t.pinsDriven d = some (s.cells d) ∧ t.regs = s.regs)) ∧
  (∀ d (s : State), d.ok = true → s.onChain d = true → 2 ≤ s.f .RST_STATUS_PHASE →
    exec (.extest d) s = exec (.bypass d) s ∧ exec (.clamp d) s = exec (.bypass d) s)

/-- A node core that runs (released, its die working, its partition out of NAP, at READY) completes: a load or fetch with the bytes of its
granules, a store with the bytes put in granules it holds in M, an AMO with the prior value and the result stored, an LR with its granule
reserved, an SC, once the messages about its granule have arrived and it holds the granule in M, with 0 and the store when its reservation
still held then and with 1 and no store otherwise; FENCE.I drops its instruction cache; rdtime reads System Time; mhartid reads the core's
index; loads and stores of control space are register accesses of its partition, uncached. -/
def Obligations.NodeCoreAccessesRun : Prop :=
  ∀ c p (s : State), c < 256 → s.dieOwner (coreDie c) = some p → s.coreRuns c p = true →
    (∀ a n b t, (n = 1 ∨ n = 2 ∨ n = 4 ∨ n = 8) → a < controlBase → s.coreRead c p 1 (pieces a n) = (some b, t) →
      exec (.nodeCoreAccess c (.load a n)) s = s.becomesR (t.coreDone c (leNat b))) ∧
    (∀ a n b t, (n = 2 ∨ n = 4) → a < controlBase → s.coreRead c p 8 (pieces a n) = (some b, t) →
      exec (.nodeCoreAccess c (.fetch a n)) s = s.becomesR (t.coreDone c (leNat b))) ∧
    (∀ a n (v : Word) b t, (n = 1 ∨ n = 2 ∨ n = 4 ∨ n = 8) → a < controlBase → s.coreRead c p 2 (pieces a n) = (some b, t) →
      exec (.nodeCoreAccess c (.store a n v)) s = s.becomesR ((t.corePut c (leBytes n v.toNat) a).coreDone c 0)) ∧
    (∀ a n o (v : Word) b t, (n = 4 ∨ n = 8) → o ≠ .cas → o ≠ .fadd → o ≠ .reserved → a < controlBase → a % n = 0 →
      s.coreRead c p 4 (pieces a n) = (some b, t) →
      exec (.nodeCoreAccess c (.amo a n o v)) s = s.becomesR
        ((t.corePut c (leBytes n (atomApply o (8 * n) (leNat b) v.toNat 0).1) a).coreDone c (leNat b))) ∧
    (∀ a n k off b t, (n = 4 ∨ n = 8) → a < controlBase → a % n = 0 → s.coreAt p a false = some (k, off) →
      s.coreGran c 4 (granKey k off) = (some b, t) →
      exec (.nodeCoreAccess c (.lr a n)) s = s.becomesR
        ((t.setCore c { t.core c with resv := some (granKey k off) }).coreDone c (leNat (sliceB b (off % 64) n)))) ∧
    (∀ a n (v : Word), (n = 4 ∨ n = 8) → a < controlBase → a % n = 0 → (s.coreAt p a true).isSome = true →
      let w := ((s.granOf a).map s.settle).getD s
      let holds := (w.core c).resv.isSome && (w.core c).resv == w.granOf a
      let u := w.setCore c { w.core c with resv := none }
      ∀ b t, u.coreRead c p 4 (pieces a n) = (some b, t) →
        exec (.nodeCoreAccess c (.sc a n v)) s = s.becomesR
          (if holds then (t.corePut c (leBytes n v.toNat) a).coreDone c 0 else t.coreDone c 1)) ∧
    exec (.nodeCoreAccess c .fenceI) s = s.becomesR ((s.setCore c { s.core c with icache := [] }).coreDone c 0) ∧
    exec (.nodeCoreAccess c .rdtime) s = s.becomesR (s.coreDone c s.now) ∧
    exec (.nodeCoreAccess c .mhartid) s = s.becomesR (s.coreDone c c) ∧
    (∀ a n (v : Word), (n = 1 ∨ n = 2 ∨ n = 4 ∨ n = 8) → controlBase ≤ a →
      exec (.nodeCoreAccess c (.load a n)) s = s.becomesR (s.coreDone c (s.readCtl (.core p) (a - controlBase) n)) ∧
      exec (.nodeCoreAccess c (.store a n v)) s = s.becomesR ((s.writeCtl (.core p) (a - controlBase) n v.toNat).coreDone c 0))

/-- For integer and floating instructions that are no compare, special functions, CVT, SHFL and LANEID: after the issued instruction every
vector register other than D (and D + 1 of a pair), and D in every lane that does not execute, every s and p register, every other group,
all of module and host memory, caches, scratch, rings, kernels, tables and every register field but the event counters' values and WRAPPED
bits are as they were once its words had been fetched. -/
def Obligations.VectorInstructionFrame : Prop :=
  ∀ (g : Nat) (w : IWord) (s t : State) (wide : Bool) (c : Instr),
    ((∃ op, c = .vectorInteger g op w ∧ vintCmp op = false ∧ wide = (w.fmt == 2) ∧ s.issued g 1 none w (fun _ k => vintOk k.vregs op w) = some t) ∨
     (∃ op, c = .vectorFloating g op w ∧ vfloatIsCmp op = false ∧ wide = (w.fmt == 4) ∧ s.issued g 2 none w (fun _ k => vfloatOk k.vregs op w) = some t) ∨
     (∃ op, c = .specialFunction g op w ∧ wide = false ∧ s.issued g 3 none w (fun _ k => sfuOk' k.vregs op w) = some t) ∨
     (∃ op, c = .cvt g op w ∧ op < 1024 ∧ wide = (codeWidth (op % 16) == 64) ∧ s.issued g 4 (some op) w (fun _ k => cvtOk k.vregs op w) = some t) ∨
     (∃ op, c = .shfl g op w ∧ wide = (w.fmt == 2 || w.fmt == 4) ∧ s.issued g 5 none w (fun _ k => shflOk k.vregs op w) = some t) ∨
     (c = .laneid g w ∧ wide = false ∧ s.issued g 11 none w (fun _ k => syncOk 0 w && vOk k.vregs false w.d) = some t)) →
    ∃ u, exec c s = .next u ∧
      (∀ r l, l < 64 → ((r ≠ w.d ∧ (wide = false ∨ r ≠ w.d + 1)) ∨ bitOf ((t.group g).exec w) l = false) →
        (u.group g).vget r l = (t.group g).vget r l) ∧
      (u.group g).s = (t.group g).s ∧ (u.group g).p = (t.group g).p ∧ (∀ j, j ≠ g → u.group j = t.group j) ∧
      u.mem = t.mem ∧ u.hostMem = t.hostMem ∧ u.caches = t.caches ∧ u.xl = t.xl ∧ u.rings = t.rings ∧ u.scratch = t.scratch ∧
      u.kernels = t.kernels ∧ u.teams = t.teams ∧ u.tables = t.tables ∧ u.engines = t.engines ∧ u.time = t.time ∧
      (∀ x i, i < 2 ^ 20 → x ≠ .CTR_UVAL_VALUE → x ≠ .CTR_USEL_WRAPPED → x ≠ .CTR_VAL_VALUE → x ≠ .CTR_SEL_WRAPPED → u.f x i = t.f x i)

/-- For every group, register, mask and value function: after the write every lane of the mask (lanes 0 to 63) reads its value modulo 2^32, or
modulo 2^64 for a pair, and every other lane reads what it did; a write of p[D] puts the bits of its mask and leaves the others; p0 is not
written and reads as the active mask. -/
def Obligations.LanesWritten : Prop :=
  (∀ (x : Group) (wide : Bool) d m (f : Nat → Nat) l, l < 64 →
    (x.mapLanes wide d m f).vgetW wide d l =
      if bitOf m l then f l % (if wide then 2 ^ 64 else 2 ^ 32) else x.vgetW wide d l) ∧
  (∀ (x : Group) d m v l, d ≠ 0 → l < 64 → bitOf ((x.pput d m v).pget d) l = if bitOf m l then bitOf v l else bitOf (x.pget d) l) ∧
  (∀ (x : Group) m v, x.pput 0 m v = x ∧ x.pget 0 = x.lanes)

/-- An issued counter read whose fields are in order writes, when a lane executes, the value of counter MOD [1:0] of the group's own unit to
s[D], and leaves the counter's selection and ENABLE bit as they were, so that it keeps counting. With any other MOD bit set the kernel
ends with KERNEL_FAULT / ILLEGAL_INSTRUCTION. Spec: “The counter-read instruction of class 11 writes the value of its own unit's counter
MOD [1:0] to s register D.” -/
def Obligations.CounterReadTakesOwnUnit : Prop :=
  (∀ g w (s t : State), s.issued g 11 none w (fun _ _ => syncOk 2 w && sOk w.d) = some t →
    w.mod < 4 ∧ ∃ u, exec (.counterRead g w) s = .next u ∧
      (u.group g).sget w.d = (if (t.group g).exec w = 0 then (t.group g).sget w.d else t.f .CTR_UVAL_VALUE (4 * (g / 32) + w.mod) % 2 ^ 64) ∧
      (∀ i, i < 2 ^ 20 → u.f .CTR_USEL_ENABLE i = t.f .CTR_USEL_ENABLE i ∧ u.f .CTR_USEL_SEL i = t.f .CTR_USEL_SEL i)) ∧
  (∀ g w (s t : State), 4 ≤ w.mod → s.issued g 11 none w (fun _ _ => true) = some t → exec (.counterRead g w) s = s.becomes (t.kfault g kfILLEGAL))

/-- An issued END with lanes m: of each entry of the group's stack the entry without the lanes of m remains, in its order, unless it has no
lane left; no entry that remains holds a lane of m or is empty; when none remains the group has left its slot and its kernel counts one
more group ended, else the group goes on. Spec: “END removes the lanes that execute it from every entry of the stack.” -/
def Obligations.EndLeavesEveryEntry : Prop :=
  ∀ g w (s t : State), s.issued g 0 none w (fun _ _ => endOk w) = some t →
    let m := (t.group g).exec w; let before := ((t.group g).next w).stack; let y := (t.group g).endLanes w
    (∀ e ∈ y.stack, e.mask ≠ 0 ∧ ∀ l, l < 64 → bitOf m l = true → bitOf e.mask l = false) ∧
    (∀ e ∈ before, andNot e.mask m ≠ 0 → { e with mask := andNot e.mask m } ∈ y.stack) ∧
    (y.stack.map fun e => (e.pc, e.rpc)).Sublist (before.map fun e => (e.pc, e.rpc)) ∧
    (y.stack ≠ [] → exec (.endInstr g w) s = s.becomes (t.retire g 0 y)) ∧
    (y.stack = [] → ∃ u, exec (.endInstr g w) s = .next u ∧ (u.group g).live = false ∧
      (u.kernel (t.group g).kernel).ended = (t.kernel (t.group g).kernel).ended + 1)

/-- An issued divergent BRANCH to an aligned target, and a JUMP_INDIRECT of every lane to one or more aligned targets: when the entries it
would push exceed 32, the stack of the group is as it was and its fault KERNEL_FAULT / DIVERGENCE_DEPTH is on its way; when they do not,
the stack of a BRANCH afterwards holds at most 32 entries. Spec: “A branch that would push a 33rd entry does not execute, and the kernel
ends with KERNEL_FAULT / DIVERGENCE_DEPTH.” -/
def Obligations.BranchDepthFault : Prop :=
  (∀ g w (s t : State), let x := t.group g; let l := (w.lit.getD 0).toNat
    s.issued g 0 none w (fun _ _ => branchOk w) = some t → x.exec w ≠ 0 → andNot x.lanes (x.exec w) ≠ 0 → branchTo x.pc (l % 2 ^ 32) % 8 = 0 →
    (32 < x.stack.length + 2 → ∃ u, exec (.branch g w) s = .next u ∧ (u.group g).stack = x.stack ∧ (u.group g).wait = .stopped ∧
      u.gfaults = (t.kfault g kfDEPTH).gfaults ∧ u.mem = t.mem) ∧
    (x.stack ≠ [] → x.stack.length + 2 ≤ 32 → ∃ u, exec (.branch g w) s = .next u ∧ (u.group g).stack.length = x.stack.length + 2 ∧
      (u.group g).wait = x.wait)) ∧
  (∀ g w (s t : State), let x := t.group g; let m := x.exec w; let ts := targetsOf (fun l => x.vgetD w.a l) (bitList m 64)
    s.issued g 0 none w (fun _ k => jumpOk k.vregs w) = some t → (∀ e ∈ ts, e.1 % 8 = 0) → andNot x.lanes m = 0 → ts ≠ [] →
    32 < x.stack.length + ts.length → exec (.jumpIndirect g w) s = s.becomes (t.kfault g kfDEPTH))

/-- A resident group of a running kernel that waits for nothing and whose FY has reached 2^24 issues no instruction: a BRANCH, BAR or NOP-like
step of it leaves the state as it is; and STALEMATE stops the group with its fault KERNEL_FAULT / STALEMATE at its present instruction,
leaving memory, registers and every other group alone. Below 2^24 STALEMATE does nothing. Spec: “When FY reaches 2^24, the kernel ends
with KERNEL_FAULT / STALEMATE.” -/
def Obligations.StalemateEndsKernel : Prop :=
  (∀ g (s : State), let x := s.group g; let k := s.kernel x.kernel
    g < 65536 → x.live = true → k.live = true → x.wait = .none → k.phase = .running → 2 ^ 24 ≤ x.fy →
    exec (.stalemate g) s = s.becomes (s.kfault g kfSTALEMATE) ∧
    (s.kfault g kfSTALEMATE).gfaults = s.gfaults ++ [⟨g, x.kernel, g / 32,
      { status := stKFAULT, sub := 5, result := x.pc, detail := s.groupIndex g }, s.groupRec g 0x25 0 0 0 x.pc 0⟩] ∧
    ((s.kfault g kfSTALEMATE).group g).wait = .stopped ∧ (∀ j, j ≠ g → (s.kfault g kfSTALEMATE).group j = s.group j) ∧
    (s.kfault g kfSTALEMATE).mem = s.mem ∧ (s.kfault g kfSTALEMATE).regs = s.regs ∧
    (∀ w, w.ok = true → exec (.branch g w) s = s.becomes s ∧ exec (.bar g w) s = s.becomes s ∧ exec (.endInstr g w) s = s.becomes s)) ∧
  (∀ g (s : State), g < 65536 → (s.group g).fy < 2 ^ 24 → exec (.stalemate g) s = s.becomes s)

/-- An issued MLD or MST of a full group: when s[A] or s[B] is not a multiple of 32, or the stride s[B] of an MST is below 32 times the output
element size (8, 4, 2, 2, 1, 1, 4 bytes by OUT), the kernel's fault is KERNEL_FAULT / MISALIGNED, and module memory, scratch, caches and
the group's registers are as they were once its word had been fetched. Spec: “A value that breaks either rule ends the kernel with
KERNEL_FAULT / MISALIGNED, and the instruction moves no data.” -/
def Obligations.MatrixAddressMisaligned : Prop :=
  ∀ g w (s t : State), let x := t.group g
    x.lanes = 2 ^ 64 - 1 →
    (s.issued g 9 (some 1) w (fun _ k => matrixPlain w && mldOk k.vregs w) = some t → (x.sget w.a % 32 ≠ 0 ∨ x.sget w.b % 32 ≠ 0) →
      ∃ u, exec (.mld g w) s = .next u ∧ u.gfaults = (t.kfault g kfMISALIGNED (x.sget w.a) 1 1).gfaults ∧ u.mem = t.mem ∧
        u.scratch = t.scratch ∧ u.caches = t.caches ∧ (u.group g).v = x.v ∧ (u.group g).s = x.s) ∧
    (s.issued g 9 (some 2) w (fun _ k => matrixPlain w && mstOk k.vregs w) = some t →
      (x.sget w.a % 32 ≠ 0 ∨ x.sget w.b % 32 ≠ 0 ∨ x.sget w.b < 32 * [8, 4, 2, 2, 1, 1, 4].getD (w.mod % 8) 4) →
      ∃ u, exec (.mst g w) s = .next u ∧ u.gfaults = (t.kfault g kfMISALIGNED (x.sget w.a) 1 2).gfaults ∧ u.mem = t.mem ∧
        u.scratch = t.scratch ∧ u.caches = t.caches ∧ (u.group g).v = x.v ∧ (u.group g).s = x.s)

/-- For scalar, branch, jump, END, vector integer, floating, special-function, CVT, SHFL, VOTE, BAR, MEMBAR, TRAP, TIMERD, UNITID, LANEID and
counter-read instructions: when the group can issue, its words are fetched and a field is reserved, unused but not zero, or names a
register the group lacks (the acceptance test of the row), the next state is the fault KERNEL_FAULT / ILLEGAL_INSTRUCTION of that group
and nothing else. -/
def Obligations.IllegalEncodingsEndKernel : Prop :=
  ∀ (g : Nat) (w : IWord) (s t : State) (c : Instr),
    let is := fun cls op => s.issued g cls op w (fun _ _ => true) = some t
    (let v := (t.kernelOf g).vregs
     (∃ op, c = .scalarArithmetic g op w ∧ is 0 none ∧ scalarOk op w = false) ∨ (c = .branch g w ∧ is 0 none ∧ branchOk w = false) ∨
     (c = .jumpIndirect g w ∧ is 0 none ∧ jumpOk v w = false) ∨ (c = .endInstr g w ∧ is 0 none ∧ endOk w = false) ∨
     (∃ op, c = .vectorInteger g op w ∧ is 1 none ∧ vintOk v op w = false) ∨
     (∃ op, c = .vectorFloating g op w ∧ is 2 none ∧ vfloatOk v op w = false) ∨
     (∃ op, c = .specialFunction g op w ∧ is 3 none ∧ sfuOk' v op w = false) ∨
     (∃ op, c = .cvt g op w ∧ is 4 (some op) ∧ op < 1024 ∧ cvtOk v op w = false) ∨
     (∃ op, c = .shfl g op w ∧ is 5 none ∧ shflOk v op w = false) ∨ (∃ op, c = .vote g op w ∧ is 5 none ∧ voteOk v op w = false) ∨
     (c = .bar g w ∧ is 10 none ∧ syncOk 0 w = false) ∨ (c = .membar g w ∧ is 10 none ∧ syncOk 1 w = false) ∨
     (c = .trap g w ∧ is 10 none ∧ (syncOk 0 w && thirdOkS w) = false) ∨
     (c = .timerd g w ∧ is 11 none ∧ (syncOk 0 w && sOk w.d) = false) ∨ (c = .unitid g w ∧ is 11 none ∧ (syncOk 0 w && sOk w.d) = false) ∨
     (c = .laneid g w ∧ is 11 none ∧ (syncOk 0 w && vOk v false w.d) = false) ∨
     (c = .counterRead g w ∧ is 11 none ∧ (syncOk 2 w && sOk w.d) = false)) →
    exec c s = s.becomes (t.kfault g kfILLEGAL)

/-- A running node core of partition p that accesses a memory address below control space where the partition has no serving memory (or, for a
store, AMO or SC, inside the cellar) takes the load, store or instruction access fault with that address: no byte of module or host
memory, no register field, no cached copy, no ring and no other core's state changes (a channel that was already waiting to be retired,
R259, is retired with it). A misaligned AMO, LR or SC does the same (that it does is the model's, notes/assumptions/31). -/
def Obligations.NodeCoreStaysInside : Prop :=
  ∀ c p (s : State) a n (v : Word) o op trap, c < 256 → s.dieOwner (coreDie c) = some p → s.coreRuns c p = true → a < controlBase →
    ((op = .load a n ∧ (n = 1 ∨ n = 2 ∨ n = 4 ∨ n = 8) ∧ s.coreAt p a false = none ∧ trap = 1) ∨
     (op = .fetch a n ∧ (n = 2 ∨ n = 4) ∧ s.coreAt p a false = none ∧ trap = 3) ∨
     (op = .store a n v ∧ (n = 1 ∨ n = 2 ∨ n = 4 ∨ n = 8) ∧ s.coreAt p a true = none ∧ trap = 2) ∨
     (op = .amo a n o v ∧ (n = 4 ∨ n = 8) ∧ o ≠ .cas ∧ o ≠ .fadd ∧ o ≠ .reserved ∧ (a % n ≠ 0 ∨ s.coreAt p a true = none) ∧ trap = 2) ∨
     (op = .lr a n ∧ (n = 4 ∨ n = 8) ∧ (a % n ≠ 0 ∨ s.coreAt p a false = none) ∧ trap = 1) ∨
     (op = .sc a n v ∧ (n = 4 ∨ n = 8) ∧ (a % n ≠ 0 ∨ s.coreAt p a true = none) ∧ trap = 2)) →
    ∃ u, exec (.nodeCoreAccess c op) s = s.becomesR u ∧ (u.core c).trap = trap ∧ (u.core c).trapAddr = a ∧ (u.core c).value = (s.core c).value ∧
      (u.core c).resv = (s.core c).resv ∧ (∀ j, j ≠ c → u.core j = s.core j) ∧ u.mem = s.mem ∧ u.hostMem = s.hostMem ∧ u.regs = s.regs ∧
      u.caches = s.caches ∧ u.rings = s.rings ∧ u.free = s.free

/-- For every requester, size and value: at an offset of control space that no register and no entry of the distance table occupies, and
anywhere in the block of a die or hub that is not present, a read returns zero and REGISTER_WRITE leaves the state as it was. Spec:
“Reserved space, every offset within a block that no register occupies, and the whole block of an absent die or hub read zero and ignore
writes.” -/
def Obligations.ReservedSpaceIgnored : Prop :=
  ∀ (s : State) (who : Who) (off size : Nat) (v : Word), who.ok = true → off < 2 ^ 28 →
    (s.blockHere (blockOf off) = false ∨
      (regAt (off / 8 * 8) = none ∧ (blockOf off < 20 → off % 2 ^ 20 < 0x800 ∨ 0x1200 ≤ off % 2 ^ 20))) →
    s.readCtl who off size = 0 ∧ exec (.registerWrite who off size v) s = s.becomes s

/-- For every state and die: the requested state is the PSTATE of the mode of one of the die's 128 units and at most that of every other, so a
unit that has not applied a slower epoch keeps the die at the faster state. The state the die moves to is 7 while it is forced and
PWR_DIE.REQ otherwise; a cause set forces it, and it is forced exactly while a cause remains. A step that begins ends 125 ns later one
state nearer to its target. -/
def Obligations.PerformanceStateFollowsUnits : Prop :=
  (∀ (s : State) n, (∃ v, v < 128 ∧ s.requested n = s.f .TIME_EPOCH_MODE (128 * n + v) % 8) ∧
    ∀ v, v < 128 → s.requested n ≤ s.f .TIME_EPOCH_MODE (128 * n + v) % 8) ∧
  (∀ (s : State) n, n < 16 → s.pTarget n = if s.f .PWR_DIE_FORCED n ≠ 0 then 7 else s.f .PWR_DIE_REQ n) ∧
  (∀ (s : State) n bit, n < 16 → bit < 3 → (s.setCause n bit true).f .PWR_DIE_FORCED n = 1 ∧ (s.setCause n bit true).pTarget n = 7 ∧
    ((s.setCause n bit false).f .PWR_DIE_FORCED n = 0 ↔ (s.setCause n bit false).f .PWR_DIE_CAUSE n = 0)) ∧
  (∀ (s : State) n, n < 16 → s.f .PWR_DIE_PSTATE n ≠ s.pTarget n → ∃ z, ((s.beginStep n).diePwr n).stepEnd = some (s.eng + 125, z) ∧
    ((s.f .PWR_DIE_PSTATE n < s.pTarget n ∧ z = s.f .PWR_DIE_PSTATE n + 1) ∨ (s.pTarget n < s.f .PWR_DIE_PSTATE n ∧ z + 1 = s.f .PWR_DIE_PSTATE n)))

/-- A ring's commands stand in acceptance order. While the oldest has not finished, RECORD_DELIVER delivers nothing, whichever later command
has finished; a delivery at all is one of the oldest, finished, with its flushing reads and window requests answered. After DISCARD,
exactly the oldest entry leaves, RING_DONE passes its slots, and no record is written. -/
def Obligations.RecordsHeldInOrder : Prop :=
  (∀ r dt (s : State) e l, let t := s.elapse dt
    r < 256 → (t.ring r).entries = e :: l → e.st ≠ .finished → exec (.recordDeliver r dt) s = s.becomes t) ∧
  (∀ r dt (s : State), r < 256 → ((s.elapse dt).ring r).entries = [] → exec (.recordDeliver r dt) s = s.becomes (s.elapse dt)) ∧
  (∀ r (s u : State), s.deliverHead r = some u → ∃ e l, (s.ring r).entries = e :: l ∧ e.st = .finished ∧ e.flush = [] ∧ e.remoteOpen = 0) ∧
  (∀ r dt (s : State) e l, let t := s.elapse dt
    r < 256 → (t.ring r).entries = e :: l → (t.ring r).dropping = true → e.st = .finished → e.flush = [] → e.remoteOpen = 0 →
    t.hubWorks (t.ringHub r) = true →
    ∃ u, exec (.recordDeliver r dt) s = .next u ∧ (u.ring r).entries = l ∧ u.f .RING_DONE_POS r = (e.pos + e.slots + 1) % 2 ^ 64 ∧
      u.mem = t.mem ∧ u.hostMem = t.hostMem ∧ ∀ q, q ≠ r → u.ring q = t.ring q)

/-- For every state, die, source, qualifier and number of events: each of the die's counters with ENABLE set whose selection names the source
and the qualifier gains that number modulo 2^64, and its WRAPPED bit is set when it wraps and kept otherwise; every other die, hub and
unit counter, every other register field and all memory stay as they were. -/
def Obligations.DieCountersCount : Prop :=
  ∀ (s : State) n src qual k, n < 16 → k ≠ 0 →
    let t := s.evDie n src qual k
    (∀ c, c < 16 → let ix := 16 * n + c
      (s.f .CTR_SEL_ENABLE ix ≠ 0 ∧ selHits (s.f .CTR_SEL_SEL ix) src qual 0 = true →
        t.f .CTR_VAL_VALUE ix = (s.f .CTR_VAL_VALUE ix + k) % 2 ^ 64 ∧
        t.f .CTR_SEL_WRAPPED ix = if 2 ^ 64 ≤ s.f .CTR_VAL_VALUE ix + k then 1 else s.f .CTR_SEL_WRAPPED ix) ∧
      (s.f .CTR_SEL_ENABLE ix = 0 ∨ selHits (s.f .CTR_SEL_SEL ix) src qual 0 = false →
        t.f .CTR_VAL_VALUE ix = s.f .CTR_VAL_VALUE ix ∧ t.f .CTR_SEL_WRAPPED ix = s.f .CTR_SEL_WRAPPED ix)) ∧
    (∀ x i, i < 2 ^ 20 → ((x ≠ .CTR_VAL_VALUE ∧ x ≠ .CTR_SEL_WRAPPED) ∨ i / 16 ≠ n) → t.f x i = s.f x i) ∧ t.mem = s.mem ∧ t.rings = s.rings

/-- For every state: the next state of READ64, GETSTATUS, BYPASS, IDCODE, SAMPLE/PRELOAD, EXTEST, CLAMP, ENTDAA and SETDASA has the same
register fields, module and host memory, rings, tables, caches, kernels, groups, node cores, keeper and System Time; only GETSTATUS
changes the reset state, clearing the note of a lost REFCLK. Without auxiliary power none of them changes anything. -/
def Obligations.ManagementPortsWriteNothing : Prop :=
  ∀ (s t : State) (c : Instr),
    ((∃ off, c = .read64 off) ∨ c = .getstatus ∨ (∃ d, c = .bypass d) ∨ (∃ d, c = .idcode d) ∨ (∃ d l, c = .samplePreload d l) ∨
      (∃ d, c = .extest d) ∨ (∃ d, c = .clamp d) ∨ (∃ a, c = .entdaa a) ∨ (∃ d a, c = .setdasa d a)) → exec c s = .next t →
    t.regs = s.regs ∧ t.mem = s.mem ∧ t.hostMem = s.hostMem ∧ t.rings = s.rings ∧ t.tables = s.tables ∧ t.caches = s.caches ∧
      t.kernels = s.kernels ∧ t.groups = s.groups ∧ t.cores = s.cores ∧ t.keeper = s.keeper ∧ t.time = s.time ∧
      (c ≠ .getstatus → t.rst = s.rst) ∧ t.rst = { s.rst with refclkLost := t.rst.refclkLost } ∧ (s.rst.vaux = false → t = s)
end

