-- ==== Sys2Proof/Laws/Exec.lean ====
section
/-!
SUPPORT. What `exec` can answer, once for every command.
-/

namespace Sys2Proof.Machine

open Sys2Proof

set_option maxHeartbeats 1000000 in
/-- Every command acts through `runIf` on its own operand check. -/
theorem exec_shape (c : Instr) (s : State) : ∃ k, exec c s = runIf c.wellFormed s k := by
  cases c <;> simp only [exec, run, runR, Instr.wellFormed,
    execRegisterWrite, execRingEnable, execRingDisable, execRingResume, execRingDiscard, execDealerRoleSet, execDealerRoleClear,
    execTimeDealerSet, execClrEnable, execClrDisable, execMemPmapWrite, execMemRetrain, execMemPeakClr, execFaultQueueEnable,
    execSvcQueueEnable, execSvcReplyRetry, execSvcReplyFault, execSvcConsWrite, execPeerEnable, execPeerDisable, execChkClear,
    execCoroxRetrain, execCoroxDisableSet, execCoroxDisableClear, execTlsNodeWrite, execTilusPortEnable, execNapEnter, execNapExit,
    execNop, execFence, execSignal, execWaitFlag, execWaitTime, execLaunch, execLaunchAt, execCopy, execCopyInline, execFill,
    execCopyStrided, execCaskAlloc, execCaskRack, execCaskFree, execCaskMove, execTap, execXlatePrime, execXlateInval, execWindowSet,
    execCheckBind, execCounterSet, execCounterSnap, execDealSet, execSlotReserve, execTableJoin, execModeSet, execPwrLimit,
    execPartitionSet, execKeyInstall, execKeyRetire, execDomainReset, execFirewallSet, execGuestAdmit, execAttest, execBootRelease,
    execRingScan, execProducerRead, execPacketFetch, execTallyAck, execCommandFinish, execRecordDeliver, execWaitFlagPoll,
    execWaitFlagTimeout, execWaitTimeResume, execScalarArithmetic, execBranch, execJumpIndirect, execEndInstr, execVectorInteger,
    execVectorFloating, execSpecialFunction, execCvt, execShfl, execVote, execLd, execSt, execLds, execSts, execAtom, execAtoms,
    execMma, execMld, execMst, execBar, execBarRelease, execMembar, execTrap, execTimerd, execLaneid, execUnitid, execCounterRead,
    execSectorDelivery, execForcedYield, execStalemate, execKernelStart, execTeamDispatch, execKernelEnd, execKernelFault,
    execKernelTimeLimit, execLaunchAtRelease, execEpochApply, execBeaconSend, execBeaconReceive, execBeaconTimeout,
    execHoldoverExpiry, execTableCtl, execTableJoinDeadline, execStepEvaluate, execReadyReread, execMarker, execStepWaitLimit,
    execRecord, execCaskTake, execPinsZero, execClrFormatDone, execClrRegionDrop, execTapResolve, execTapPassDispatch,
    execTapPassStart, execTapPassEnd, execBulkRead, execBulkWrite, execNarrowRead, execNarrowWrite, execScrubRead, execRefresh,
    execStackTempSample, execMemLaneStuck, execMemRetrainWindow, execMemWindowEnd, execReadShared, execReadOwn, execUpgrade,
    execNoAllocRead, execWriteInv, execAtomic, execWriteBack, execEvictClean, execFwdShared, execFwdOwn, execFwdSnoop, execInv,
    execRecall, execData, execInvAck, execWbAck, execDone, execNak, execNakRetry, execTranslationWalk, execSvcTimeout,
    execFaultWaitExpiry, execTranslationInv, execTranslationAck, execFaultQueuePoll, execWRead, execWWrite, execWAtomic, execWData,
    execWDone, execWDeny, execRouteFail, execRemoteTimeout, execInboundRead, execInboundWrite, execConfigRequest, execPcieLinkDown,
    execPcieHotReset, execPcieFlr, execBusMasterEnableCleared, execBusMasterEnableSet, execPcieRetrain, execPerstDeassert,
    execPcieCompletion, execCompletionTimeout, execCompletionUr, execCompletionCa, execPoisonedCompletion, execPeerVerifyDone,
    execPeerVerifyTimeout, execCopyEngineStart, execCopySpan, execCheckMessage, execFlit, execCoroxForcedWindow, execCoroxModuleFail,
    execTransactionMemoryExpiry, execCoroxLaneStuck, execCoroxWindow, execCoroxWindowEnd, execGRead, execGWrite, execGAtomic,
    execGuestTrainRetry, execGuestIdentity, execGuestLinkDown, execGuestExpelDone, execTilusFrame, execTilusTransit, execTilusRetrain,
    execTilusRetrainEnd, execTilusRetrainTimeout, execTilusPortTrain, execTilusPortLost, execTilusPortFail, execReservedSlotOpen,
    execReservedSlotClose, execPrioInterval, execPowerWindow, execRegulatorAlertAssert, execRegulatorAlertRelease,
    execAlertHoldExpiry, execDroopDetect, execDroopClear, execStretchEnd, execStepHoldExpiry, execPstateStep, execDieTempSample,
    execDieIdleEntry, execNapEntryDone, execNapExitDone, execNapStackIdle, execCoolOkDeassert, execCoolOkAssert, execCoolStopTimeout,
    execPowerGood, execCoolQualified, execHubTestDone, execTrainDone, execClearDone, execMresetNAssert, execRailFault, execRefclkLoss,
    execRefclkReturn, execHubResetDone, execHeartbeatSend, execHeartbeatTimeout, execHubFail, execDieFail, execStackFail,
    execTallyCopyDone, execKeeperCommitDone, execSignatureDone, execCounterAction, execCounterLatch, execCounterWrap, execRead64,
    execModuleReset, execGetstatus, execBypass, execIdcode, execSamplePreload, execExtest, execClamp, execAuxiliaryPowerApplied,
    execVauxLoss, execNodeCoreAccess, execPcieLinkUp, execTilusPortDisable, execConflictExpiry, execTableAckTimeout, execEntdaa,
    execSetdasa, execReservedOpcode, execReservedClass] <;>
    exact ⟨_, rfl⟩

end Sys2Proof.Machine
end

