-- ==== Sys2Proof/Tests/Slice0.lean ====
section
/-!
SUPPORT. The model's own tests: each check of WellFormed refuses an ill-formed command, the hypotheses of each statement are met by a small
state, and single steps on small states give what the spec's text says.
-/

namespace Sys2Proof.Tests

open Sys2Proof Sys2Proof.Machine

-- one proof at a time, so that the kernel's evaluations share one stack
set_option Elab.async false

/-- A state with the register fields of a list (field, instance, value) written. -/
def State.withFields (s : State) (l : List (Fld × Nat × Nat)) : State := l.foldl (fun s e => s.setF e.1 e.2.1 e.2.2) s

/-- A module in READY with every die and hub present and up, the rails good, all dies in partition 0, hub 0 acting. -/
def readyState : State :=
  State.withFields { State.reset with rst := { State.reset.rst with railsGood := true } }
    ([(Fld.RST_STATUS_PHASE, 0, 5), (.ID_PRESENT_DIES, 0, 0xFFFF), (.ID_PRESENT_HUBS, 0, 15), (.ID_PART_VALID_DIES, 0, 0xFFFF),
      (.ID_PART_HUB_VALID, 0, 1), (.RST_HUB_STATE, 0, 2), (.RST_HUB_STATE, 1, 2), (.RST_HUB_STATE, 2, 2), (.RST_HUB_STATE, 3, 2)])

/-- A packet of `n` body slots: opcode, BODY, and numbers (offset, bytes, value) in its body. -/
def packet (op n : Nat) (l : List (Nat × Nat × Nat)) : Bytes :=
  l.foldl (fun b x => b.take (64 + x.1) ++ leBytes x.2.1 x.2.2 ++ b.drop (64 + x.1 + x.2.1))
    ([BitVec.ofNat 8 op, BitVec.ofNat 8 n] ++ zeroBytes (62 + 64 * n))

/-- `readyState` with hub 0 and the tap controller of stack 0 holding the translation of virtual page 0 to the first page of stack 0, all rights. -/
def mappedState : State :=
  { readyState with
      xl := { tlb := [(528, [⟨0, 0, 0, 65536, 0, 0, 7⟩]), (664, [⟨0, 0, 0, 65536, 0, 0, 7⟩])] } }

/-- Ring 0 (partition 0) or, with MODULE set, a module ring behind port 0, with one accepted command at position 0. -/
def withCmd (s : State) (pkt : Bytes) : State := s.setRing 0 { entries := [{ pos := 0, pkt := pkt, st := .accepted }] }
def withModCmd (s : State) (pkt : Bytes) : State :=
  State.withFields (withCmd s pkt) [(.RING_CTRL_MODULE, 0, 1), (.RING_CTRL_LOC, 0, 1)]

/-- The same with the command running since engine time 0. -/
def withRun (s : State) (pkt : Bytes) : State := s.setRing 0 { entries := [{ pos := 0, pkt := pkt, st := .running }] }

/-- `mappedState` with a kernel descriptor of 16 vector registers and 4 KiB of code at its first bytes (Table 4-11). -/
def descState : State := mappedState.putBytes 0 ([1, 9, 16, 0] ++ zeroBytes 12 ++ leBytes 8 4096)


/-- A held translation of virtual address `va` of partition 0 to the same physical address. -/
def aHeld (va : Nat) : Held := { part := 0, asid := 0, va := va, loc := some (.phys 0 va) }

/-- A kernel of partition 0 running on unit 0, whose group 0 (at code address 0, lanes as given) has its first code line and another line of data
(at 128) in the near cache of its unit, with 16 vector registers. -/
def groupState (lanes : Nat) : State :=
  let s := { mappedState with xl := { tlb := [(0, [⟨0, 0, 0, 65536, 0, 0, 15⟩]), (528, [⟨0, 0, 0, 65536, 0, 0, 7⟩])] } }
  let s := (s.setNline 0 0 { data := zeroBytes 128, valid := 2 ^ 128 - 1 }).setNline 0 1 { data := zeroBytes 128, valid := 2 ^ 128 - 1 }
  (s.setKernel 0 { live := true, phase := .running, codeSize := 4096, groups := 1 }).setGroup 0
    { live := true, stack := [⟨0, lanes, 2 ^ 64 - 1⟩] }

/-- An instruction word of the given fields, with a literal of 0. -/
def word (d a b fmt : Nat) : IWord := { d := d, a := a, b := b, c := 0, pred := 0, pneg := false, fmt := fmt, rnd := 0, mod := 0, lit := some 0 }

/-- `s` with the instruction `w` of a class (and OP) at the first bytes of the near-cache line of code of unit 0. -/
def coded (s : State) (cls op : Nat) (w : IWord) : State :=
  s.setNline 0 0 { data := leBytes 8 (wordBits w cls op) ++ leBytes 8 ((w.lit.map (·.toNat)).getD 0) ++ zeroBytes 112, valid := 2 ^ 128 - 1 }
/-- The instruction issued by group 0 of `s`, its word placed first. -/
def issues (s : State) (cls : Nat) (w : IWord) (ok : Group → Kernel → Bool) (op : Option Nat := none) : Bool :=
  ((coded s cls (op.getD 0) w).issued 0 cls op w ok).isSome

/-- `readyState` with a directory entry of granule 0 and a copy at agent 3. -/
def dirState (d : Dir) (c : Copy) : State := (readyState.setDir 0 d).setCopy 3 0 c

theorem witness_StepRunsFront : ∃ (s : State) (c : Instr) (rest : List Instr), s.pending = c :: rest :=
  ⟨{ pending := [.nop 0 0] }, .nop 0 0, [], rfl⟩

theorem witness_IdleStepPassesOneNanosecond : State.reset.pending = [] := rfl

theorem witness_CommandsInRangeAlwaysAnswer :
    Instr.wellFormed (.nop 0 0) = true ∧ Instr.wellFormed (.nop 255 (2 ^ 64 - 1)) = true ∧ Instr.wellFormed (.nop 256 0) = false := by decide

theorem witness_CommandsKeepQueueAndFuses : ∃ t, exec (.nop 0 0) State.reset = .next t := ⟨_, rfl⟩

theorem witness_QueueInvariantKept : ∃ (s t : State), s.queueOk = true ∧ step s = .next t ∧ s.pending ≠ [] :=
  ⟨{ pending := [.nop 0 0] }, _, by decide, rfl, by decide⟩

theorem witness_GoodQueueRunsToItsEnd :
    State.queueOk { pending := [.nop 3 0, .ringScan 0 100, .moduleReset] } = true := by decide

theorem witness_RegisterWriteActs : let s := readyState
    s.f .RST_STATUS_PHASE = 5 ∧ s.blockHere (blockOf 0x1002010) = true ∧ regAt (0x1002010 / 8 * 8) = some ⟨.TIME_CTRL, 0, 16⟩ ∧
      s.mayWrite .host ⟨.TIME_CTRL, 0, 16⟩ = true := by decide +kernel
theorem witness_RegisterWriteActs_odd : ¬ ((2 = 8 ∧ 0x1002010 % 8 = 0) ∨ (2 = 4 ∧ 0x1002010 % 4 = 0)) := by decide

theorem witness_RegisterRows_hub : let s := readyState
    (s.mayReach .host (s.hubOff (0x4000 + 64 * 255)) .RING_CTRL 255 && s.mayReach .host (s.hubOff 0x2010) .TIME_CTRL 0 &&
      s.mayReach .host (s.hubOff 0x2018) .TIME_DEALER_SET 0 && s.mayReach .host (s.hubOff (0x8000 + 8 * 15)) .MEM_PMAP 15 &&
      s.mayReach .host (s.hubOff (0x9088 + 0x20 * 16)) .XL_FQ_CTRL 16 && s.mayReach .host (s.hubOff 0xD000) .TLS_NODE 0 &&
      s.mayReach .host (s.hubOff (0xE040 + 8 * 15)) .PWR_IDLE 15) = true := by decide +kernel
theorem witness_RegisterRows_blocks : let s := readyState
    (s.mayReach .host (dieAt (31 / 2) (0x6000 + 0x40 * (31 % 2))) .CLR_CTRL 31 &&
      s.mayReach .host (dieAt (31 / 2) (0x8000 + 0x400 * (31 % 2))) .MEM_CTRL 31 && s.mayReach (.core 0) (dieAt 15 0x9008) .XL_SVC_CTRL 15 &&
      s.mayReach .host (dieAt 15 0x9020) .XL_SVC_REPLY 15 && s.mayReach .host (dieAt 15 0x9018) .XL_SVC_CONS 15 &&
      s.mayReach .host (hubAt 1 (0xA100 + 0x20 * 15)) .PCI_PEER (16 * 1 + 15) &&
      s.mayReach .host (hubAt 3 (0xB028 + 0x40 * 7)) .CHK_CTRL (8 * 3 + 7) && (Wr.all 1).sets .CHK_CTRL_CLEAR &&
      s.mayReach .host (hubAt ((175 - 144) / 8) (0xC000 + 0x40 * (175 % 8))) .CRX_CTRL 175 &&
      s.mayReach .host (dieAt (143 / 9) (0xC000 + 0x40 * (143 % 9))) .CRX_CTRL 143 &&
      s.mayReach .host (hubAt (15 / 4) (0xD100 + 0x40 * (15 % 4))) .TLS_PCTRL 15) = true := by decide +kernel

theorem witness_ReservedEncodingLeavesField :
    [Fld.RING_CTRL_SCAN, .RING_CTRL_SCHEDULE, .RING_CTRL_GAP].Nodup ∧
    (∀ y ∈ [Fld.RING_CTRL_SCAN, .RING_CTRL_SCHEDULE, .RING_CTRL_GAP], y.info.acc = .rw ∧ y.info.reps = 1) := by decide
theorem witness_ReservedEncodingLeavesField_bounds : ∀ y j, State.reset.f y j < 2 ^ y.info.width := by
  intro y j; show y.info.rst < _; cases y <;> decide

theorem witness_RingControlCommandsRun_nop : ((withCmd readyState (packet 0 0 [])).begun 0 0 0x00).isSome = true := by decide +kernel
theorem witness_RingControlCommandsRun_fence :
    (match (withCmd readyState (packet 1 1 [(0, 1, 63)])).begun 0 0 0x01 with
     | some (_, e) => decide (e.body 0 1 < 64) && e.zero 1 63
     | none => false) = true := by decide +kernel
theorem witness_RingControlCommandsRun_signal :
    (match (withCmd mappedState (packet 2 1 [(0, 8, 0x40), (16, 1, 2), (17, 1, 1)])).begun 0 0 0x02 with
     | some (t, e) => decide (e.body 16 1 = 2) && decide (e.body 17 1 < 64) && e.zero 18 46 && decide (e.body 0 8 % 4 = 0) &&
       (match t.cmdXlate (t.cmdCache 0) 0 (e.body 0 8) 2 with | (.ok l, _) => l.port? == none | _ => false)
     | none => false) = true := by decide +kernel
theorem witness_RingControlCommandsRun_waitFlag :
    (match (withCmd mappedState (packet 3 1 [(0, 8, 0x40), (8, 8, 1), (16, 8, 3), (28, 4, 100)])).begun 0 0 0x03 with
     | some (t, e) => decide (e.body 32 1 < 4) && e.zero 33 31 && decide (e.body 0 8 % 8 = 0) && decide (e.body 16 8 ≠ 0) &&
       decide (e.body 8 8 &&& e.body 16 8 = e.body 8 8) && decide (100 ≤ e.body 28 4) &&
       (match t.cmdXlate (t.cmdCache 0) 0 (e.body 0 8) 1 with | (.ok _, _) => true | _ => false)
     | none => false) = true := by decide +kernel
theorem witness_RingControlCommandsRun_waitTime :
    (match (withCmd readyState (packet 4 1 [(0, 8, 5)])).begun 0 0 0x04 with
     | some (_, e) => e.zero 8 56
     | none => false) = true := by decide +kernel
theorem witness_RingControlCommandsRun_copyInline :
    (match (withCmd mappedState (packet 0x11 4 [(0, 8, 0x40), (8, 2, 192), (64, 4, 7)])).begun 0 0 0x11 with
     | some (t, e) => e.zero 10 54 && decide (e.body 8 2 ≤ 192) && e.zero (64 + e.body 8 2) (divUp (e.body 8 2) 64 * 64 - e.body 8 2) &&
       (match (((t.chkBegin 0 0 1).chkHub 0 0 (some (t.ringHub 0))).chkFeed 0 0 0 (sliceB e.pkt 128 (e.body 8 2))).writeSpans 0 0 (e.body 0 8) e.prog (sliceB e.pkt 128 (e.body 8 2)) with
        | (true, u) => (match u.entry? 0 0 with | some x => x.active && x.phase != 4 && e.remoteOpen == 0 | none => false)
        | _ => false)
     | none => false) = true := by decide +kernel

theorem witness_NopCompletesDone :
    (match (withCmd readyState (packet 0 0 [])).entry? 0 0 with
     | some e => !e.flagEn && e.op == 0 && (withCmd readyState (packet 0 0 [])).canStart 0 e &&
       ((withCmd readyState (packet 0 0 [])).markRunning 0 0 |>.headCheck 0 e) == none
     | none => false) = true := by decide +kernel
theorem witness_NopCompletesDone_slots :
    (match (withCmd readyState (packet 0 15 [(0, 8, 77)])).entry? 0 0 with
     | some e => ((withCmd readyState (packet 0 15 [(0, 8, 77)])).markRunning 0 0 |>.headCheck 0 e) == none
     | none => false) = true := by decide +kernel

theorem witness_FinalResultGivenOnce :
    ((withRun readyState (packet 0 0 [])).entry? 0 0).map (·.res) = some none := by decide +kernel
theorem witness_FinalResultGivenOnce_twice :
    (((withRun readyState (packet 0 0 [])).doneWith 0 0).entry? 0 0).map (·.res) = some (some {}) := by decide +kernel

theorem witness_LaunchesAndKernelEvents_launch :
    (match (withCmd readyState (packet 8 1 [(16, 4, 0), (20, 1, 16)])).begun 0 0 0x08 with
     | some (t, e) => t.launchBodyOk (t.ringPart 0) e false && e.launch.groups == 0
     | none => false) = true := by decide +kernel
theorem witness_LaunchesAndKernelEvents_desc :
    (match (withCmd descState (packet 8 1 [(16, 4, 2 ^ 31), (20, 1, 16)])).begun 0 0 0x08 with
     | some (t, e) => t.launchBodyOk (t.ringPart 0) e false && e.launch.groups != 0 &&
       (match t.readDesc 0 0 e with | (some d, u) => u.descCheck d == none | _ => false)
     | none => false) = true := by decide +kernel
theorem witness_LaunchesAndKernelEvents_at :
    (match (withCmd descState (packet 9 1 [(16, 4, 1), (20, 1, 1)])).begun 0 0 0x09 with
     | some (t, e) => t.launchBodyOk (t.ringPart 0) e true && e.launch.groups != 0 && e.body 40 1 == 0 &&
       (match t.readDesc 0 0 e with | (some d, u) => u.descCheck d == none | _ => false)
     | none => false) = true := by decide +kernel
theorem witness_LaunchesAndKernelEvents_at0 :
    (match (withCmd readyState (packet 9 1 [(16, 4, 0), (20, 1, 1)])).begun 0 0 0x09 with
     | some (t, e) => t.launchBodyOk (t.ringPart 0) e true && e.launch.groups == 0 && e.body 40 1 == 0
     | none => false) = true := by decide +kernel
theorem witness_LaunchesAndKernelEvents_release :
    let s := (readyState.setRing 0 { entries := [{ pos := 0, pkt := packet 9 1 [], st := .running, phase := 1 }] }).elapse 5
    (match s.entry? 0 0 with
     | some e => e.active && e.op == 9 && e.phase == 1 && e.body 40 1 == 0 && s.launchDue 0 e && (s.actionTime 0 e).all s.inOrder
     | none => false) = true := by decide +kernel
theorem witness_LaunchesAndKernelEvents_start :
    let t := (readyState.setKernel 0 { live := true, groups := 1 }).elapse 5
    ((t.kernel 0).live && (t.kernel 0).phase == .queued && decide (t.runningIn 0 < 32) && t.dieSet (t.kernel 0) != []) = true := by decide +kernel
theorem witness_LaunchesAndKernelEvents_dispatch :
    let t := (readyState.setKernel 0 { live := true, groups := 1, phase := .running }).elapse 5
    ((t.kernel 0).pending && (t.pickCluster (t.kernel 0)).isSome &&
      !(t.kernels.any fun (e : Nat × Kernel) =>
        e.2.pending && e.2.part == (t.kernel 0).part && e.2.before (t.kernel 0))) = true := by
  decide +kernel
theorem witness_LaunchesAndKernelEvents_end :
    let t := (readyState.setKernel 0 { live := true, groups := 1, phase := .running, nextTeam := 1, ended := 1 }).elapse 5
    ((t.kernel 0).live && (t.kernel 0).phase == .running && (t.kernel 0).allEnded && t.gfaults == [] && (t.kernel 0).fault == none) = true := by
  decide +kernel
theorem witness_LaunchesAndKernelEvents_fault :
    let s := { (readyState.setKernel 0 { live := true, groups := 2, phase := .running }) with
                 gfaults := [⟨160, 0, 5, {}, {}⟩, ⟨96, 0, 3, {}, {}⟩, ⟨97, 0, 3, {}, {}⟩] }
    (((s.elapse 5).gfaults.filter fun x => x.kernel == 0) = [⟨160, 0, 5, {}, {}⟩] ++ ⟨96, 0, 3, {}, {}⟩ :: [⟨97, 0, 3, {}, {}⟩]) ∧
      ((s.elapse 5).kernel 0).live = true := by decide +kernel
theorem witness_LaunchesAndKernelEvents_limit :
    let t := (readyState.setKernel 0 { live := true, groups := 1, phase := .running, timeLimit := 1, firstAt := some 0 }).elapse 1000
    ((t.kernel 0).firstAt == some 0 && !(t.kernel 0).allEnded && decide (0 + (t.kernel 0).timeLimit * 1000 ≤ t.eng)) = true := by decide +kernel
theorem witness_LaunchesAndKernelEvents_epoch :
    let t := (readyState.setMode 0 { last := 1, lastMode := 2, epochs := [⟨1, 0, 2, 0, 0⟩] }).elapse 5
    (t.dieOwner (2047 / 128) == some 0 && (match t.applicable 0 2047 with
      | some x => decide (t.f .TIME_EPOCH_EPOCH 2047 < x.epoch) && t.inOrder x.effect
      | none => false)) = true := by decide +kernel

theorem witness_CopiesAndCheckUnits_copy :
    (match (withCmd mappedState (packet 0x10 1 [(0, 8, 0x1000), (8, 8, 0x2000), (16, 8, 64)])).begun 0 0 0x10 with
     | some (t, e) => e.xferCheck == none && (match e.xfer.src with
        | some a => (match t.cmdXlate (t.cmdCache 0) 0 a 1 with
          | (.ok m, u) => (match u.cmdXlate (t.cmdCache 0) 0 e.xfer.dst 2 with
            | (.ok l, v) => (v.pickEngine (v.candidates (some m) l)).isSome && v.candidates (some m) l != []
            | _ => false)
          | _ => false)
        | none => false)
     | none => false) = true := by decide +kernel
theorem witness_CopiesAndCheckUnits_fill :
    (match (withCmd mappedState (packet 0x12 1 [(0, 8, 0x2000), (8, 8, 64), (16, 8, 7), (24, 1, 2)])).begun 0 0 0x12 with
     | some (t, e) => e.xferCheck == none && e.xfer.src == none && (match t.cmdXlate (t.cmdCache 0) 0 e.xfer.dst 2 with
            | (.ok l, v) => (v.pickEngine (v.candidates none l)).isSome && v.candidates none l != []
            | _ => false)
     | none => false) = true := by decide +kernel
theorem witness_CopiesAndCheckUnits_strided :
    (match (withCmd mappedState (packet 0x13 1 [(0, 8, 0x1000), (8, 8, 0x2000), (16, 4, 64), (20, 4, 2), (24, 8, 64), (32, 8, 64)])).begun 0 0 0x13 with
     | some (t, e) => e.xferCheck == none && (match t.cmdXlate (t.cmdCache 0) 0 (e.xfer.src.getD 0) 1 with
          | (.ok m, u) => (match u.cmdXlate (t.cmdCache 0) 0 e.xfer.dst 2 with
            | (.ok l, v) => (v.pickEngine (v.candidates (some m) l)).isSome
            | _ => false)
          | _ => false)
     | none => false) = true := by decide +kernel
theorem witness_CopiesAndCheckUnits_empty :
    (match (withCmd mappedState (packet 0x10 1 [])).begun 0 0 0x10 with
     | some (_, e) => e.xferCheck == some stDONE
     | none => false) = true := by decide +kernel
theorem witness_CopiesAndCheckUnits_engine :
    let s := (withRun readyState (packet 0x10 1 [(16, 8, 64)])).setEngine 63 { queue := [(0, 0)] }
    ((s.freeEngine 63).engine 63).run = none ∧ (s.freeEngine 63).engineWorks 63 = true ∧ (s.freeEngine 63).liveQueue 63 = [(0, 0)] := by
  decide +kernel
theorem witness_CopiesAndCheckUnits_span :
    let s := { ((withRun mappedState (packet 0x10 1 [(0, 8, 0x1000), (8, 8, 0x2000), (16, 8, 64)])).setEngine 0 { run := some (0, 0) }) with
                 movers := [{ ring := 0, pos := 0, engine := 0 }] }
    let t := s.freeEngine 0
    (match t.movers.find? (fun m => m.engine == 0) with
     | some m => (match t.entry? m.ring m.pos with
       | some y => t.engineWorks 0 && y.fwd == [] && y.remoteOpen == 0 && decide (m.off < y.xfer.size) &&
         (((t.moveSpan m y.xfer).movers.find? (fun m => m.engine == 0)).isSome && ((t.moveSpan m y.xfer).entry? 0 0).isSome)
       | none => false)
     | none => false) = true := by decide +kernel
theorem witness_CopiesAndCheckUnits_unbind :
    (match (withCmd (State.withFields readyState [(.CHK_BIND_BOUND, 31, 1)]) (packet 0x28 1 [(24, 1, 31), (25, 1, 0x80)])).begun 0 0 0x28 with
     | some (t, e) => e.body 25 1 == 0x80 && e.zero 0 24 && e.zero 26 38 && t.fb .CHK_BIND_BOUND (e.body 24 1) && t.chkMine 0 (e.body 24 1)
     | none => false) = true := by decide +kernel
theorem witness_CopiesAndCheckUnits_bind :
    (match (withCmd readyState (packet 0x28 1 [(0, 8, 0x40), (24, 1, 31), (25, 1, 2), (27, 1, 16), (16, 2, 255)])).begun 0 0 0x28 with
     | some (t, e) => decide (e.body 24 1 = 31) && e.zero 18 2 && decide (bitsOf (e.body 20 4) 20 11 = 0) && !t.ringModule 0 && e.zero 29 35 &&
        !t.fb .CHK_BIND_BOUND 31 && decide (e.body 0 8 % 64 = 0) && t.hubPresent 3
     | none => false) = true := by decide +kernel
theorem witness_CopiesAndCheckUnits_message :
    let m : ChkMsg := { key := (0, 0), parts := [(0, zeroBytes 16)], ended := some false }
    let s := (State.withFields readyState [(.CHK_BIND_BOUND, 31, 1)]).setChk 31 { msgs := [m] }
    (s.fb .CHK_BIND_BOUND 31 && s.hubWorks 3 && s.f .CHK_BIND_KIND 31 == 0 && s.nextMsg 31 == some m && m.seen && decide (16 ≤ m.bytes.length)) = true := by decide +kernel

/-- A stack 0 region of 4 casks (one of records) with 3 free, and a descriptor at virtual address 0 of a table of one entry in 16-bit floats. -/
def celState : State :=
  ((State.withFields mappedState [(.CLR_STATUS_READY, 0, 1), (.CLR_CTRL_ENABLE, 0, 1), (.CLR_STATUS_FREE, 0, 3)]).setCel 0
    { base := 0x40000000, casks := 4, top := 1 }).putBytes 0
    (leBytes 8 0x1000 ++ leBytes 4 1 ++ leBytes 4 1 ++ leBytes 2 1 ++ leBytes 2 1 ++ [2, 0] ++ leBytes 2 0 ++ leBytes 4 1)
theorem witness_CellarCommandsRun_alloc :
    (match (withCmd celState (packet 0x18 1 [(16, 4, 1), (22, 2, 1), (26, 2, 1)])).begun 0 0 0x18 with
     | some (t, e) => decide (e.body 28 1 = 0) && decide (e.body 29 1 = 0) && e.zero 30 34 && (match t.celDesc (t.cmdCache 0) 0 0 (e.body 0 8) with
       | (some d, u) => rangeCheck e d == none && decide (andNot d.mask (maskOf (u.partStacks (u.ringPart 0))) = 0) && d.mask != 0 &&
         (match u.allocScan 0 0 d (e.body 8 4) (rangeList e) with
          | (some false, v) => (reserveWalk 0 d (e.body 8 4) (bitList d.mask 32) (rangeList e) ((bitList d.mask 32).map v.celListed) [] 0).isSome
          | _ => false)
       | _ => false)
     | none => false) = true := by decide +kernel
theorem witness_CellarCommandsRun_rack :
    (match (withCmd celState (packet 0x19 1 [(32, 4, 1), (44, 2, 1), (46, 1, 2), (56, 4, 0x3F800000), (60, 4, 0x3F800000)])).begun 0 0 0x19 with
     | some (t, e) => decide (e.body 47 1 = 0) && decide (e.body 32 4 = 1) && decide (e.body 44 2 = 1) && t.cop? 0 0 == none &&
       (match t.celDesc (t.cmdCache 0) 0 0 (e.body 0 8) with
        | (some d, _) => decide (e.body 46 1 = 2) && decide (e.body 42 2 + e.body 44 2 ≤ d.heads) && decide (e.body 40 2 < d.layers) &&
          decide (e.body 36 4 < d.contexts) && decide ((e.body 24 8 + e.body 32 4 - 1) / d.cap < d.blocks) &&
          (match unpackF fB32 (e.body 56 4) with | .fin .. => true | _ => false)
        | _ => false)
     | none => false) = true := by decide +kernel
theorem witness_CellarCommandsRun_rack0 :
    (match (withCmd celState (packet 0x19 1 [])).begun 0 0 0x19 with
     | some (_, e) => decide (e.body 47 1 = 0) && decide (e.body 32 4 = 0)
     | none => false) = true := by decide +kernel
theorem witness_CellarCommandsRun_free :
    (match (withCmd celState (packet 0x1A 1 [(16, 4, 1), (22, 2, 1), (26, 2, 1)])).begun 0 0 0x1A with
     | some (t, e) => decide (e.body 28 2 = 0) && e.zero 30 34 && t.cop? 0 0 == none && (match t.celDesc (t.cmdCache 0) 0 0 (e.body 0 8) with
       | (some d, _) => rangeCheck e d == none
       | _ => false)
     | none => false) = true := by decide +kernel
theorem witness_CellarCommandsRun_move :
    (match (withCmd celState (packet 0x1B 1 [(20, 1, 31)])).begun 0 0 0x1B with
     | some (t, e) => decide (e.body 20 1 = 31) && e.zero 21 43 && t.cop? 0 0 == none && (match t.celDesc (t.cmdCache 0) 0 0 (e.body 0 8) with
       | (some d, u) => decide (e.body 8 4 < d.contexts) && decide (e.body 12 4 < d.blocks) && decide (e.body 16 2 < d.layers) &&
         decide (e.body 18 2 < d.heads) && u.dieOwner (31 / 2) == some (u.ringPart 0)
       | _ => false)
     | none => false) = true := by decide +kernel
theorem witness_CellarCommandsRun_waits :
    let s := withRun celState (packet 0x1A 1 [])
    let a := { s with cops := [{ ring := 0, pos := 0, phase := .take, stack := 0, cask := 1 }] }
    let b := { s with cops := [{ ring := 0, pos := 0, phase := .pins, stack := 0, cask := 1 }] }
    (a.isActive 0 0 && (match a.cop? 0 0 with | some c => c.phase == .take && !a.celBlocked 0 0 c | none => false) &&
      (match b.cop? 0 0 with | some c => c.phase == .pins && crPins (b.crec c.stack c.cask) == 0 | none => false)) = true := by decide +kernel
theorem witness_CellarCommandsRun_format :
    let t := (State.withFields celState [(.CLR_STATUS_FORMATTING, 31, 1)]).elapse 9
    (t.fb .CLR_STATUS_FORMATTING 31 && !t.stackRetired 31) = true := by decide +kernel
theorem witness_CellarCommandsRun_drop :
    let s := celState.setCel 31 { base := 0, casks := 4, dropping := true }
    ((s.cel 31).dropping && !s.celHeld 31) = true := by decide +kernel

/-- A TAP packet of one row of 64 bf16 elements over token 0, at query address 0x2000, result address 0x3000. -/
def tapPacket : Bytes :=
  packet 0x1C 2 [(8, 8, 0x2000), (16, 8, 0x3000), (32, 4, 1), (44, 2, 1), (46, 1, 2), (48, 4, 128), (52, 4, 0x3F800000), (58, 1, 1)]
theorem witness_TapsRun_tap :
    (match (withCmd celState tapPacket).begun 0 0 0x1C with
     | some (t, e) => t.tap? 0 0 == none && tapFields e && decide (tapRows e = 1) && decide (e.body 32 4 = 1) && decide (tapTopk e = 0) &&
       (match t.celDesc (tapCache (t.coordinator 0)) 0 0 (e.body 0 8) with
        | (some d, u) => decide (e.body 36 4 < d.contexts) && decide (e.body 40 2 < d.layers) && decide (e.body 42 2 < d.heads) &&
          decide ((e.body 24 8 + e.body 32 4 - 1) / d.cap < d.blocks) &&
          (match u.tapHold 0 0 (tapPages e d) [] with | (some _, _) => true | _ => false)
        | _ => false)
     | none => false) = true := by decide +kernel
theorem witness_TapsRun_tap0 :
    (match (withCmd celState (packet 0x1C 2 [(46, 1, 1), (58, 1, 1)])).begun 0 0 0x1C with
     | some (t, e) => t.tap? 0 0 == none && tapFields e && decide (tapRows e = 0)
     | none => false) = true := by decide +kernel
/-- The TAP running, its table's entry naming cask 1 of stack 0, allocated with one token. -/
def tapState : State :=
  let s := (withRun celState tapPacket).putBytes 0x1000 (leBytes 8 (handleOf 0 1 0 + 2 ^ 32))
  let d := Desc.ofBytes (s.memBytes 0 64)
  let s := s.setCrec 0 1 (putAt (allocRec (zeroBytes 64) d 0 0 0 0 0) 4 (leBytes 2 1))
  { s with taps := [{ ring := 0, pos := 0, desc := d.toBytes }] }
theorem witness_TapsRun_resolve :
    (match tapState.tap? 0 0, tapState.entry? 0 0 with
     | some t, some e => !t.resolved && t.blocked == none && e.active &&
       (let d := Desc.ofBytes t.desc
        let b0 := e.body 24 8 / d.cap
        let b1 := (e.body 24 8 + e.body 32 4 - 1) / d.cap
        match tapState.tapPin 0 0 e d ((List.range (b1 - b0 + 1)).map (b0 + ·)) [] with
        | (.ok pins, _, _) => decide ((sortNats (pins.map (·.stack)) 32).length ≤ e.body 58 1)
        | _ => false)
     | _, _ => false) = true := by decide +kernel
/-- The TAP resolved, with its one pass held for stack 0; queued; and running with its record formed. -/
def tapHeld : State := { tapState with taps := tapState.taps.map fun t => { t with resolved := true, held := [(0, ⟨0, 0, 0, 0⟩)], left := 1, slices := [0] } }
def tapQueued : State := tapHeld.setTapE 0 { queue := [⟨0, 0, 0, 0⟩] }
theorem witness_TapsRun_dispatch :
    (match tapHeld.tap? 0 0 with
     | some t => (t.held.find? fun x => x.1 == 0) == some (0, ⟨0, 0, 0, 0⟩) && decide ((tapHeld.tapE 0).queue.length < 64)
     | none => false) = true := by decide +kernel
theorem witness_TapsRun_start :
    let w := (tapQueued.wakeDie 0).ranOn 0 1
    ((tapQueued.tapE 0).run == none && (match w.entry? 0 0, w.tap? 0 0 with
      | some e, some t => e.active && (match w.passRows 0 0 0 e (Desc.ofBytes t.desc) [0] [] with
        | (some rows, u) => (match u.passCasks 0 e (Desc.ofBytes t.desc) (t.pins.filter fun x => x.stack == 0) rows with
          | (.ok _, _) => true
          | _ => false)
        | _ => false)
      | _, _ => false)) = true := by decide +kernel
theorem witness_TapsRun_end :
    let s := tapHeld.setTapE 0 { run := some (⟨0, 0, 0, 0⟩, [(0, zeroBytes 64)]) }
    (match s.entry? 0 0, s.tap? 0 0 with
     | some e, some _ => (s.tapWrite 0 0 0 e [(0, zeroBytes 64)]).1
     | _, _ => false) = true := by decide +kernel

theorem witness_TranslationCommandsRun_prime :
    (match (withCmd readyState (packet 0x20 1 [(8, 8, 65536)])).begun 0 0 0x20 with
     | some (t, e) => decide (e.body 18 1 < 8) && e.zero 19 45 && decide (e.body 8 8 = 65536) && !nonCanonical (0 + 65536 - 1) &&
       (let x := (t.primeWalk (t.cmdCache 0) 0 0 (0 % 2 ^ 57 + 65536) false [] (2 ^ 25) 0 {}).1
        x.bad == none && x.waits == [] && e.skips == [])
     | none => false) = true := by decide +kernel
theorem witness_TranslationCommandsRun_inval :
    (match (withCmd (State.withFields readyState [(.XL_AST_LOG2, 0, 4)]) (packet 0x21 1 [(8, 8, 65536), (16, 2, 15)])).begun 0 0 0x21 with
     | some (t, e) => decide (e.body 18 1 = 0) && e.zero 19 45 && decide (e.body 8 8 % 65536 = 0) && decide (e.body 8 8 ≠ 0) &&
       decide (e.body 16 2 < 2 ^ t.f .XL_AST_LOG2 0)
     | none => false) = true := by decide +kernel
theorem witness_TranslationCommandsRun_inv :
    let s := { (withRun mappedState (packet 0x21 1 [(8, 8, 65536)])) with xl := { mappedState.xl with acks := [(0, 0, 528)] } }
    (match s.entry? 0 0 with
     | some e => e.active && e.op == 0x21 && s.xl.acks.contains (0, 0, 528) && (s.xl.tlb.fget 528 []).any fun x => invCovers e 0 x.part x.asid x.va x.size
     | none => false) = true := by decide +kernel
theorem witness_TranslationCommandsRun_ack :
    let s := readyState.setRing 0 { entries := [{ pos := 0, pkt := packet 0x21 1 [], st := .running, phase := 5 }] }
    (match s.entry? 0 0 with
     | some e => e.active && e.op == 0x21 && e.phase == 5 && s.xl.acks == []
     | none => false) = true := by decide +kernel
theorem witness_TranslationCommandsRun_clear :
    (match (withCmd readyState (packet 0x22 1 [(30, 1, 255), (31, 1, 1), (33, 1, 1)])).begun 0 0 0x22 with
     | some (t, e) => decide (e.body 31 1 < 2) && decide (e.body 33 1 = 1) && decide (e.body 32 1 = 0) && e.zero 34 30 && decide (e.body 0 8 = 0) &&
       !t.exportBusy 255
     | none => false) = true := by decide +kernel
theorem witness_TranslationCommandsRun_import :
    (match (withCmd readyState (packet 0x22 1 [(0, 8, 65536), (8, 8, 65536), (24, 4, 2 ^ 20 - 1), (28, 2, 4095), (32, 1, 7)])).begun 0 0 0x22 with
     | some (t, e) => decide (e.body 31 1 = 0) && decide (e.body 33 1 = 0) && decide (e.body 32 1 < 8) && e.zero 34 30 &&
       decide (e.body 24 4 < 2 ^ 20) && decide (e.body 28 2 < 4096) && decide (65536 ≤ e.body 8 8) && decide (e.body 0 8 % 65536 = 0) &&
       !nonCanonical (e.body 0 8) && !nonCanonical (e.body 0 8 + e.body 8 8 - 1) && t.xl.imports == [] && !t.importBusy (e.body 30 1)
     | none => false) = true := by decide +kernel
theorem witness_TranslationCommandsRun_export :
    (match (withCmd readyState (packet 0x22 1 [(0, 8, 65536), (8, 8, 65536), (24, 4, 2 ^ 31), (31, 1, 1), (32, 1, 1)])).begun 0 0 0x22 with
     | some (t, e) => decide (e.body 31 1 = 1) && !t.exportBusy 0 && decide (e.body 33 1 = 0) && decide (e.body 32 1 = 1) && e.zero 34 30 &&
       decide (bitsOf (e.body 24 4) 20 11 = 0) && decide (e.body 28 2 = 0) && decide (e.body 16 8 = 0) && decide (e.body 8 8 = 65536) &&
       !nonCanonical (e.body 0 8) && !nonCanonical (e.body 0 8 + e.body 8 8 - 1)
     | none => false) = true := by decide +kernel
theorem witness_TranslationCommandsRun_walk :
    (mappedState.cacheServes 528 0 && match mappedState.xlate 528 0 0 4096 7 with | (.ok _, _) => true | _ => false) = true := by decide +kernel
theorem witness_TranslationCommandsRun_walkfail :
    (mappedState.cacheServes 528 0 && match mappedState.xlate 528 0 0 (2 ^ 40) 7 with | (.fail .., _) => true | _ => false) = true := by decide +kernel
theorem witness_TranslationCommandsRun_timeout :
    let t := (readyState.setSvc 15 { open_ := [(1023, { part := 0, asid := 0, page := 0, entry := 0, level := 1, access := 1, written := true })] }).elapse 70000000
    (match (t.svc 15).open_.find? (fun (e : Nat × SvcReq) => e.1 == 1023) with
     | some (_, x) => x.written && decide (x.at_ + t.svcLimit 15 * 1000 ≤ t.eng)
     | none => false) = true := by decide +kernel
theorem witness_TranslationCommandsRun_expiry :
    let x : Stall := { queue := 16, frec := {}, res := {}, since := 0 }
    let t := (readyState.setRing 0 { entries := [{ pos := 0, pkt := packet 0x10 1 [], st := .running, stall := some x }] }).elapse 70000000
    (match t.entry? 0 0 with
     | some e => (match e.stall with | some x => decide (x.since + t.waitUs x.queue * 1000 ≤ t.eng) | none => false)
     | none => false) = true := by decide +kernel
theorem witness_TranslationCommandsRun_poll :
    ((State.withFields readyState [(.XL_FQ_STATUS_FULL, 16, 1)]).elapse 9).fb .XL_FQ_STATUS_FULL 16 = true := by decide +kernel

theorem witness_CountersAndDealsRun_set :
    (match (withCmd readyState (packet 0x29 1 [(8, 8, 2 ^ 36 - 1), (16, 2, 1), (19, 1, 4)])).begun 0 0 0x29 with
     | some (t, e) => decide (e.body 8 8 < 2 ^ 36) && decide (e.body 19 1 = 4) &&  e.zero 22 42 && t.ctrNames 0 e == none && decide (e.body 20 1 = 0)
     | none => false) = true := by decide +kernel
theorem witness_CountersAndDealsRun_set0 :
    (match (withCmd readyState (packet 0x29 1 [])).begun 0 0 0x29 with
     | some (_, e) => decide (e.body 8 8 = 0) && e.zero 22 42
     | none => false) = true := by decide +kernel
theorem witness_CountersAndDealsRun_snap :
    (match (withCmd mappedState (packet 0x2A 1 [(8, 8, 1), (16, 2, 1), (32, 4, 65536), (36, 4, 1)])).begun 0 0 0x2A with
     | some (t, e) => e.zero 22 2 && e.zero 40 24 && t.ctrOps == [] && t.ctrNames 0 e == none &&
       decide (1 * snapLen (e.body 8 8) (maskOf (t.ctrDies 0 (e.body 16 2))) (e.body 18 1) ≤ e.body 32 4) &&
       (match t.snapHold 0 0 (spans 0 (1 * snapLen (e.body 8 8) (maskOf (t.ctrDies 0 (e.body 16 2))) (e.body 18 1))) [] with
        | (some _, _) => true | _ => false)
     | none => false) = true := by decide +kernel
theorem witness_CountersAndDealsRun_action :
    let t := { (withRun readyState (packet 0x29 1 [(8, 8, 1), (16, 2, 1)])) with ctrOps := [{ ring := 0, pos := 0, dies := 1 }] }.elapse 9
    (match t.ctrOps.find? (fun o => o.ring == 0 && o.pos == 0), t.entry? 0 0 with
     | some o, some e => e.op == 0x29 && e.active && t.hubWorks (t.ringHub 0) && e.phase != 4 &&
       (match t.ctrTime o e with | some x => decide (x ≤ t.now) && t.inOrder x && !t.ctrBlocked o x false | none => false)
     | _, _ => false) = true := by decide +kernel
theorem witness_CountersAndDealsRun_latch :
    let t := { (withRun mappedState (packet 0x2A 1 [(8, 8, 1), (16, 2, 1), (20, 1, 1), (36, 4, 2)])).setSched 0 { period := 1000 } with
                 ctrOps := [{ ring := 0, pos := 0, dies := 1 }] }.elapse 9
    let t := t.modEntry 0 0 fun e => { e with holds := [⟨0, 0, 0, some (.phys 0 0)⟩] }
    (match t.ctrOps.find? (fun o => o.ring == 0 && o.pos == 0), t.entry? 0 0 with
     | some o, some e => e.op == 0x2A && e.active && t.hubWorks (t.ringHub 0) && e.phase != 4 && o.latched == none && decide (t.snapNext o e + 1 < e.body 36 4) &&
       (match t.ctrTime o e with | some x => decide (x ≤ t.now) && t.inOrder x && !t.ctrBlocked o x true | none => false) &&
       (let (b, u) := t.latch e o.dies (t.snapNext o e)
        match (u.snapWrite 0 0 (e.body 24 8 + t.snapNext o e * 64) b).1 with | .done => true | _ => false)
     | _, _ => false) = true := by decide +kernel
theorem witness_CountersAndDealsRun_wrap :
    let s := State.withFields readyState [(.CTR_SEL_ENABLE, 319, 1), (.CTR_SEL_SEL, 319, 0x20), (.CTR_VAL_VALUE, 319, 2 ^ 64 - 1)]
    (s.fb .CTR_SEL_ENABLE 319 && s.f .CTR_SEL_SEL 319 % 256 != 0 && decide (2 ^ 64 ≤ s.f .CTR_VAL_VALUE 319 + 1)) = true := by decide +kernel
theorem witness_CountersAndDealsRun_deal :
    (match (withCmd readyState (packet 0x30 1 [(0, 8, 1000), (16, 1, 15)])).begun 0 0 0x30 with
     | some (t, e) => decide (e.body 16 1 < 16) && decide (e.body 17 1 = 0) && e.zero 18 46 && decide (1000 ≤ e.body 0 8) && !t.schedUsed 0 15
     | none => false) = true := by decide +kernel
theorem witness_CountersAndDealsRun_dealClear :
    (match (withModCmd readyState (packet 0x30 1 [(17, 1, 1)])).begun 0 0 0x30 with
     | some (t, e) => decide (e.body 17 1 = 1) && decide (e.body 0 8 = 0) && e.zero 18 46 && t.ringModule 0
     | none => false) = true := by decide +kernel
theorem witness_CountersAndDealsRun_mode :
    (match (withCmd readyState (packet 0x38 1 [(8, 8, 63)])).begun 0 0 0x38 with
     | some (t, e) => decide (e.body 8 8 < 64) && e.zero 16 48 && !t.modeSetBefore 0 0
     | none => false) = true := by decide +kernel

/-- `readyState` with Tilus ports 0 and 15 up, time locked, beacons enabled, and 3 µs of engine time passed. -/
def linkedState : State :=
  (State.withFields readyState [(.TLS_PSTAT_STATE, 0, 2), (.TLS_PSTAT_STATE, 15, 2), (.TLS_PCTRL_ENABLE, 0, 1), (.TLS_PCTRL_ENABLE, 15, 1),
    (.TLS_NODE_VALID, 0, 1), (.TIME_CTRL_BEACON_EN, 0, 1), (.TIME_STATUS_UPPORT, 0, 15)]).elapse 3000
/-- The beacon of node 7 at time 5000, which has heard none of this module's. -/
def aBeacon : BeaconFrame :=
  { body := beaconBody { txTime := 5000, txFrac := 0, rxTime := none, rxFrac := 0, dealer := 0, depth := 0, noTime := false, node := 7, nodeValid := true } }
theorem witness_TimeEventsRun_send : (linkedState.elapse 1).tlsUp (4 * 3 + 3) = true ∧ ((linkedState.elapse 1).tport 15).sent = [] := by
  decide +kernel
theorem witness_TimeEventsRun_off :
    let t := (State.withFields linkedState [(.TIME_CTRL_BEACON_EN, 0, 0)]).elapse 1
    (t.f .TLS_PSTAT_STATE 15 == 2 && aBeacon.body.length == 768 && !(t.noteBeacon 15 (beaconOfBody aBeacon.body)).fb .TIME_CTRL_BEACON_EN) = true := by
  decide +kernel
theorem witness_TimeEventsRun_follow :
    let t := linkedState.elapse 1
    let b := beaconOfBody aBeacon.body
    let u := ((t.noteBeacon 15 b).showDelay 15 (t.measure 15 b 0)).timeBeacon 15 b
    (t.f .TLS_PSTAT_STATE 15 == 2 && (t.noteBeacon 15 b).fb .TIME_CTRL_BEACON_EN && !b.noTime && !u.fb .TIME_CTRL_ROLE &&
      u.rechoose.f .TIME_STATUS_UPPORT == 15 && t.measure 15 b 0 == none) = true := by decide +kernel
/-- The same beacon from a partner that received at 2100 the beacon sent by port 15 at 2000 and answered at 2400. -/
def anAnswer : BeaconFrame :=
  { body := beaconBody { txTime := 2400, txFrac := 0, rxTime := some 2100, rxFrac := 0, dealer := 0, depth := 0, noTime := false, node := 7, nodeValid := true } }
theorem witness_TimeEventsRun_measured :
    let t := (linkedState.setTport 15 { sent := [(2000, 0)] }).elapse 1
    let b := beaconOfBody anAnswer.body
    let u := ((t.noteBeacon 15 b).showDelay 15 (t.measure 15 b 0)).timeBeacon 15 b
    ((t.measure 15 b 0).isSome && u.rechoose.f .TIME_STATUS_UPPORT == 15) = true := by decide +kernel
theorem witness_TimeEventsRun_other :
    let t := ((State.withFields linkedState [(.TIME_PORT_VALID, 0, 1), (.TIME_STATUS_UPPORT, 0, 0)]).setTport 0 { lastAt := some 3000 }).elapse 1
    let b := beaconOfBody { aBeacon with body := beaconBody { beaconOfBody aBeacon.body with dealer := 1 } }.body
    let u := ((t.noteBeacon 15 b).showDelay 15 (t.measure 15 b 0)).timeBeacon 15 b
    (!u.fb .TIME_CTRL_ROLE && u.rechoose.f .TIME_STATUS_UPPORT == 0) = true := by decide +kernel
theorem witness_TimeEventsRun_conflict :
    let s := { (State.withFields linkedState [(.TIME_CTRL_ROLE, 0, 1)]) with fuse := { serial := 9 } }
    let t := s.elapse 1
    let b := beaconOfBody aBeacon.body
    let u := ((t.noteBeacon 15 b).showDelay 15 (t.measure 15 b 0)).timeBeacon 15 b
    (u.fb .TIME_CTRL_ROLE && decide (b.dealer.toNat < u.fuse.serial) && !u.fb .TIME_STATUS_CONFLICT) = true := by decide +kernel
theorem witness_TimeEventsRun_timeout :
    let t := ((State.withFields linkedState [(.TIME_PORT_VALID, 15, 1)]).setTport 15 { lastAt := some 0 }).elapse 1
    (decide ((t.tls 15).lastBeacon + 2000 ≤ t.eng) && t.tlsUp 15 && (t.tport 15).lastAt == some 0 && t.fb .TIME_PORT_VALID 15 && decide (0 + 2000 ≤ t.eng)) = true := by
  decide +kernel
theorem witness_TimeEventsRun_holdover :
    let t := (readyState.setTstate tsHOLDOVER).elapse 60000000000
    (t.tstate == tsHOLDOVER && decide (t.time.holdFrom + 60000000000 ≤ t.eng)) = true := by decide +kernel
theorem witness_TimeEventsRun_expiry :
    let t := (State.withFields readyState [(.TIME_STATUS_CONFLICT, 0, 1)]).elapse 1000000
    (t.fb .TIME_STATUS_CONFLICT && decide (t.time.conflictAt + 1000000 ≤ t.eng)) = true := by decide +kernel

/-- `mappedState` following the dealer, with schedule 2 of partition 0 of 1 µs, hub 0 holding address 0's translation. -/
def tableState : State :=
  (State.withFields mappedState [(.TIME_STATUS_STATE, 0, 2)]).setSched 2 { period := 1000 }

/-- Member 1 of a table of two, formed (or, as the root, with a child at node 7). -/
def memberTable : TTable :=
  { live := true, formed := true, members := 2, index := 1, schedule := 2, recLog2 := 4, ready := aHeld 64, record := [aHeld 1024], parentNode := 7 }
def rootTable : TTable := { memberTable with index := 0, waitLimit := 1, childNodes := [7] }
theorem witness_TableCommandsRun_join :
    (match (withCmd { tableState with xl := { tlb := [(528, [⟨0, 0, 0, 2 ^ 30, 0, 0, 7⟩])] } } (packet 0x32 1 [(4, 4, 131072), (8, 4, 131071), (24, 8, 64), (48, 1, 2), (50, 1, 16)])).begun 0 0 0x32 with
     | some (t, e) => decide (e.body 8 4 < e.body 4 4) && e.zero 52 12 && (t.sched (schedKey 0 2)).defined && !(t.table (tkey 0 0)).live && !t.joinRefused 0 (t.table (tkey 0 0)) e &&
       decide (t.f .TIME_STATUS_STATE = 2) && (match t.cmdXlate (t.cmdCache 0) 0 (e.body 32 8) 1 with
         | (.ok _, u) => (match u.holdArea 0 0 (areaPages (e.body 24 8) (64 * 2 ^ e.body 50 1)) with
           | (some _, v) => (match v.readNodes 0 0 (e.body 16 8) ([131071] ++ [8191] ++ treeKids 131071 131072) with
             | (some _, _) => true
             | _ => false)
           | _ => false)
         | _ => false)
     | none => false) = true := by decide +kernel
theorem witness_TableCommandsRun_joinRoot :
    (match (withCmd tableState (packet 0x32 1 [(4, 4, 1), (24, 8, 64), (48, 1, 2), (50, 1, 4)])).begun 0 0 0x32 with
     | some (t, e) => decide (e.body 8 4 < e.body 4 4) && e.zero 52 12 && (t.sched (schedKey 0 2)).defined && !(t.table (tkey 0 0)).live && !t.joinRefused 0 (t.table (tkey 0 0)) e &&
       decide (t.f .TIME_STATUS_STATE = 2) && (match t.cmdXlate (t.cmdCache 0) 0 (e.body 32 8) 1 with
         | (.ok _, u) => (match u.holdArea 0 0 (areaPages (e.body 24 8) (64 * 2 ^ e.body 50 1)) with
           | (some _, v) => (v.readNodes 0 0 (e.body 16 8) ([0] ++ [] ++ treeKids 0 1)).1.isSome
           | _ => false)
         | _ => false)
     | none => false) = true := by decide +kernel
theorem witness_TableCommandsRun_leave :
    (match (withCmd (tableState.setTable (tkey 0 3) memberTable) (packet 0x32 1 [(0, 4, 3), (51, 1, 1)])).begun 0 0 0x32 with
     | some (t, e) => decide (e.body 51 1 = 1) && e.zero 52 12 && decide (t.f .TIME_STATUS_STATE = 2) && (t.table (tkey (t.ringPart 0) (e.body 0 4))).live
     | none => false) = true := by decide +kernel
theorem witness_TableCommandsRun_ctl :
    let s := (tableState.setTable (tkey 0 3) { memberTable with formed := false }).setTable (tkey 15 (2 ^ 32 - 1)) { mismatch := false }
    let u := s.elapse 9
    (okTable 0 3 && (u.table (tkey 0 3)).live && !(u.table (tkey 0 3)).formed && (u.table (tkey 0 3)).index != 0 &&
      !(u.table (tkey 15 (2 ^ 32 - 1))).live && !(u.table (tkey 15 (2 ^ 32 - 1))).mismatch) = true := by decide +kernel
theorem witness_TableCommandsRun_deadline :
    let u := (tableState.setTable (tkey 0 3) { rootTable with formed := false }).elapse 2000
    let t := u.table (tkey 0 3)
    (t.live && !t.formed && t.index == 0 && (u.tableSched 0 t).defined && decide ((u.tableSched 0 t).boundary t.firstDeal ≤ u.now)) = true := by
  decide +kernel
theorem witness_TableCommandsRun_step :
    let u := (tableState.setTable (tkey 0 3) rootTable).elapse 2000
    let t := u.table (tkey 0 3)
    (t.running && t.index == 0 && !t.evaluated && decide (t.waitLimit = 1) && decide (t.policy = 0) && (u.tableSched 0 t).defined &&
      decide (u.stepAt 0 t + 1000 ≤ u.now) && (match u.readReady 0 3 t with | (.done _, _) => true | _ => false)) = true := by decide +kernel
theorem witness_TableCommandsRun_reread :
    let u := (tableState.setTable (tkey 0 3) { memberTable with evaluated := true, selfLate := true, owes := [0] }).elapse 2000
    let t := u.table (tkey 0 3)
    (t.live && t.running && t.owes != [] && (u.tableSched 0 t).defined && decide (t.readAt + 1000 ≤ u.eng) &&
      (match u.readReady 0 3 t with | (.done _, _) => true | _ => false)) = true := by decide +kernel
theorem witness_TableCommandsRun_marker :
    let u := (tableState.setTable (tkey 0 3) rootTable).elapse 9
    let t := u.table (tkey 0 3)
    (t.live && t.formed && t.writing.isNone && t.step == 0 && t.childNodes.contains 7 && !t.doneKids.contains 7) = true := by decide +kernel
theorem witness_TableCommandsRun_record :
    let t := ((tableState.setTable (tkey 0 3) memberTable).elapse 9).table (tkey 0 3)
    (t.live && t.formed && t.index != 0 && t.ending.isNone && !t.writing.any (·.ending) && t.step + 0 + t.recs.length == 0) = true := by decide +kernel
theorem witness_TableCommandsRun_repeat :
    (match (withCmd (tableState.setTable (tkey 0 3) { memberTable with formed := false, ring := 1 }) (packet 0x32 1 [(0, 4, 3), (4, 4, 2), (8, 4, 1),
        (48, 1, 2), (50, 1, 16)])).begun 0 0 0x32 with
     | some (t, e) => e.zero 52 12 && (t.sched (schedKey (t.ringPart 0) (e.body 48 1))).defined && (t.table (tkey (t.ringPart 0) (e.body 0 4))).live &&
       !(t.table (tkey (t.ringPart 0) (e.body 0 4))).formed && (t.table (tkey (t.ringPart 0) (e.body 0 4))).index == e.body 8 4 &&
       (t.table (tkey (t.ringPart 0) (e.body 0 4))).ring == 1 && decide (e.body 8 4 < e.body 4 4)
     | none => false) = true := by decide +kernel
theorem witness_TableCommandsRun_refused :
    let t := ((tableState.setTable (tkey 0 3) { mismatch := true, firstDeal := 9 }).elapse 9).table (tkey 0 3)
    (!t.live && t.mismatch && !joinLate (.join 0 2 0 9 0 1000 0) ((tableState.elapse 9).now)) = true := by decide +kernel
theorem witness_TableCommandsRun_overdue :
    let u := (tableState.setTable (tkey 0 3) { memberTable with owed := [(7, 0)] }).elapse 1000000
    ((u.table (tkey 0 3)).live && (u.table (tkey 0 3)).owed.contains (7, 0) && decide (u.f .TLS_CTRL_REMOTE_US 0 = 0) &&
      decide (0 + 1000 * 1000 ≤ u.eng)) = true := by decide +kernel

theorem witness_SystemCommandsRun_reserve :
    (match (withCmd (readyState.setSched 2 { period := 1000 }) (packet 0x31 1 [(16, 4, 750), (24, 1, 15), (25, 1, 2)])).begun 0 0 0x31 with
     | some (t, e) => !bitOf (e.body 26 1) 7 && !t.ringModule 0 && t.resvCheck 0 e == none
     | none => false) = true := by decide +kernel
theorem witness_SystemCommandsRun_release :
    (match (withCmd (State.withFields readyState [(.TLS_RES_FLOW_VALID, resIx 15 15, 1)]) (packet 0x31 1 [(24, 1, 15), (26, 1, 0x80), (27, 1, 15)])).begun
        0 0 0x31 with
     | some (t, e) => e.zero 0 24 && decide (e.body 24 1 = 15) && decide (e.body 26 1 = 0x80) && decide (e.body 27 1 = 15) && e.zero 28 36 &&
       t.resValid 15 15 && decide (t.f .TLS_RES_FLOW_PART (resIx 15 15) = t.ringPart 0)
     | none => false) = true := by decide +kernel
theorem witness_SystemCommandsRun_limit :
    (match (withModCmd readyState (packet 0x80 1 [(8, 2, 16500), (10, 2, 200), (12, 1, 0x24)])).begun 0 0 0x80 with
     | some (_, e) => decide (e.body 8 2 = 16500) && decide (e.body 10 2 = 200) && trumpOk (e.body 12 1) && e.zero 13 51
     | none => false) = true := by decide +kernel
theorem witness_SystemCommandsRun_partition :
    let s := withModCmd readyState (packet 0x81 1 [(0, 2, 0xFFFF), (3, 1, 4)])
    let w := (withRun (State.withFields readyState [(.RING_CTRL_MODULE, 0, 1), (.RING_CTRL_LOC, 0, 1)]) (packet 0x81 1 [(0, 2, 0xFFFF), (3, 1, 4)])).modEntry
      0 0 fun e => { e with phase := 9 }
    ((match s.begun 0 0 0x81 with
      | some (t, e) => ((s.entry? 0 0).filter fun e => e.op == 0x81 && e.waitsOn && s.canStart 0 e) == none && decide (e.body 3 1 = 4) && e.zero 5 59 &&
        !t.partSetBad 0 0 1 (bitList (e.body 0 2) 16)
      | none => false) &&
     (match w.entry? 0 0 with
      | some e => e.waitsOn && w.canStart 0 e && w.hubWorks 0 && w.hubWorks 1 && !((List.range 176).any fun x => w.f .CRX_STATUS_STATE x == 3) &&
        !w.windowOn (w.partDies 0 ++ bitList (e.body 0 2) 16)
      | none => false)) = true := by decide +kernel
theorem witness_SystemCommandsRun_reset :
    let f := fun (b : List (Nat × Nat × Nat)) => withModCmd (State.withFields readyState [(.PWR_STATUS_COOL_OK, 0, 1)]) (packet 0x84 1 b)
    let ok := fun (s : State) => (match s.entry? 0 0 with
      | some e => s.hubWorks (s.ringHub 0) && !e.res.isSome && !e.stall.isSome && e.st == .accepted && !e.waitsOn &&
        (s.markRunning 0 0).headCheck 0 e == none && (match (s.markRunning 0 0).flagTaken 0 0 e with
          | some (u, x) => u.resetCheck 0 x == none && !u.windowOn (u.partDies (x.body 1 1)) && !(u.rst.hubReset.any fun (y : Nat × (Nat × Nat)) => y.1 == x.body 1 1)
          | none => false)
      | none => false)
    (ok (f []) && ok (f [(0, 1, 1)]) && ok (f [(0, 1, 2), (1, 1, 3)])) = true := by decide +kernel
theorem witness_SystemCommandsRun_resetEnd :
    let s := (withRun readyState (packet 0x84 1 [])).modEntry 0 0 fun e => { e with phase := 9 }
    (match s.entry? 0 0 with
     | some e => s.hubWorks (s.ringHub 0) && !e.res.isSome && !e.stall.isSome && e.waitsOn && decide (e.body 0 1 = 0) && !s.windowOn (s.partDies 0) && !s.hotStack 0
     | none => false) = true := by decide +kernel
theorem witness_SystemCommandsRun_reserved :
    let s := withCmd readyState (packet 0xFF 1 [])
    (match s.entry? 0 0 with
     | some e => ringKinds e.op == none && s.canStart 0 e
     | none => false) = true := by decide +kernel

theorem witness_SecurityCommandsRun_install :
    (match (withModCmd readyState (packet 0x82 1 [(0, 1, 15), (1, 1, 17), (2, 2, 511), (8, 8, 5)])).begun 0 0 0x82 with
     | some (t, e) => decide (e.body 0 1 = 15) && decide (e.body 1 1 = 17) && decide (e.body 2 2 = 511) && e.zero 5 3 && e.zero 48 16 &&
       (t.keySlot 15).state != 1
     | none => false) = true := by decide +kernel
theorem witness_SecurityCommandsRun_retire :
    let k := State.reset.keeper
    let s := { readyState with keeper := { k with slots := (k.slots.set 14 { state := 1, rights := 256 }).set 15 { state := 1 } } }
    (match (withModCmd s (packet 0x83 1 [(0, 1, 15)])).begun 0 0 0x83 with
     | some (t, e) => decide (e.body 0 1 = 15) && e.zero 1 63 && !e.retried && t.keeper.retireOk 15 == none
     | none => false) = true := by decide +kernel
theorem witness_SecurityCommandsRun_firewall :
    (match (withModCmd readyState (packet 0x85 1 [(0, 8, 2 ^ 52 - 65536), (8, 8, 2 ^ 40), (16, 1, 1), (17, 1, 15), (18, 1, 7)])).begun 0 0 0x85,
           (withModCmd readyState (packet 0x85 1 [(16, 1, 1), (17, 1, 15), (20, 1, 1)])).begun 0 0 0x85 with
     | some (t, e), some (_, f) => decide (e.body 0 8 = 2 ^ 52 - 65536) && decide (e.body 8 8 = 2 ^ 40) && e.zero 21 43 && decide (e.body 20 1 = 0) &&
       t.partValid 0 && !((List.range 16).any fun j => j != 15 && t.ruleValid 1 j && meets (e.body 0 8) (e.body 8 8) (t.ruleBase 1 j) (t.ruleSize 1 j)) &&
       decide (f.body 20 1 = 1) && f.zero 0 16 && f.zero 21 43
     | _, _ => false) = true := by decide +kernel
theorem witness_SecurityCommandsRun_admit :
    (match (withModCmd (State.withFields readyState [(.CRX_GSTAT_STATE, 1, 2)]) (packet 0x86 1 [(0, 1, 1), (2, 2, 256), (4, 2, 320), (6, 1, 3)])).begun
        0 0 0x86 with
     | some (t, e) => decide (e.body 2 2 = 256) && decide (e.body 4 2 = 320) && e.zero 7 1 && e.zero 8 16 && e.zero 24 40 &&
       decide (t.f .CRX_GSTAT_STATE 1 = 2) && bitOf (e.body 6 1) (if t.f .CRX_STATUS_LINK (guestEnd 1) = 0 then 0 else 1)
     | none => false) = true := by decide +kernel
theorem witness_SecurityCommandsRun_expel :
    (match (withModCmd (State.withFields readyState [(.CRX_GSTAT_STATE, 1, 3)]) (packet 0x86 1 [(0, 1, 1), (1, 1, 1)])).begun 0 0 0x86 with
     | some (t, e) => decide (e.body 1 1 = 1) && e.zero 2 5 && e.zero 7 1 && e.zero 8 16 && e.zero 24 40 && decide (t.f .CRX_GSTAT_STATE 1 = 3)
     | none => false) = true := by decide +kernel
theorem witness_SecurityCommandsRun_attest :
    (match (withModCmd readyState (packet 0x87 1 [(40, 4, 11397)])).begun 0 0 0x87 with
     | some (t, e) => decide (e.body 40 4 = 11397) && decide (e.body 32 8 = 0) && e.zero 44 20 && !t.keeper.exhausted && (t.keeper.reports.find? fun x => x.1 == 0 && x.2.1 == 0).isNone
     | none => false) = true := by decide +kernel
theorem witness_SecurityCommandsRun_report :
    let s := { readyState with keeper := { readyState.keeper with reports := [(0, 0, 0, [])] } }
    (match (withModCmd s (packet 0x87 1 [(40, 4, 11397)])).begun 0 0 0x87 with
     | some (t, e) => decide (e.body 32 8 = 0) && e.zero 44 20 && (t.keeper.reports.find? fun x => x.1 == 0 && x.2.1 == 0).isSome
     | none => false) = true := by decide +kernel
theorem witness_SecurityCommandsRun_boot :
    let s0 := (List.range 16).foldl (fun s n => s.setF .RST_DIE_CORES_HELD n 1) readyState
    let s1 := s0.putBytes 0 (leBytes 4 1 ++ leBytes 4 3 ++ leBytes 8 64 ++ leBytes 8 64 ++ leBytes 2 1)
    (match (withModCmd s1 (packet 0x88 1 [(16, 8, 4096), (24, 8, 8192)])).begun 0 0 0x88 with
     | some (t, e) => e.zero 2 6 && e.zero 32 32 && t.ringModule 0 && t.partValid 0 &&
       (((t.partDies 0).filter t.dieWorks).all fun n => t.fb .RST_DIE_CORES_HELD n) && t.rangeIn 0 0 64 &&
       (match t.bootRead 0 0 0 0 64 with
        | (some h, u) => decide (fldB h 0 4 = 1) && decide (fldB h 8 8 = 64) && decide (fldB h 16 8 = 64) && ((sliceB h 26 38).all fun b => b == 0) &&
          u.rangeIn 0 0 128 && u.rangeIn 0 4096 68 && u.rangeIn 0 8192 2820 && u.keeper.rootHash == none &&
          (match State.bootRead (State.setF { u with keeper := { u.keeper with bootRange := u.keeper.bootRange.fput 0 (0, 128) (0, 0) } }
              .SEC_BOOT_STATE 0 1) 0 0 0 0 128 with
           | (some _, v) => (match v.bootRead 0 0 0 4096 68 with
             | (some _, w) => (w.bootRead 0 0 0 8192 2820).1.isSome && w.keeper.rootHash == none
             | _ => false)
           | _ => false)
        | _ => false)
     | none => false) = true := by decide +kernel

/-- `readyState` with ring 255 of partition 0 enabled, of 16 slots in module memory, scanning without a gap. -/
def ringState : State :=
  State.withFields readyState [(.RING_CTRL_ENABLE, 255, 1), (.RING_CTRL_SLOTS_LOG2, 255, 4), (.RING_CTRL_SCAN, 255, 2), (.RING_PROD_ADDR, 255, 1024),
    (.RING_CPL_ADDR, 255, 256)]
def ringWith (e : Entry) : State := ringState.setRing 255 { entries := [e] }
theorem witness_RingEventsRun_scan :
    let t := ringState.elapse 9
    (t.ringOn 255 && !t.ringHeld 255 && t.scanDue 255 && (t.ring 255).scan == .idle && (t.scanTime 255).all t.inOrder) = true := by decide +kernel
theorem witness_RingEventsRun_read :
    let f := fun (v : Nat) =>
      let t := ((ringState.putBytes 8192 (leBytes 8 v)).setRing 255 { scan := .reading 0 }).elapse 9
      let t1 := t.incF .RING_STATUS_SCANS 255
      match t1.readLoc (t1.ringLoc 255 (t1.ringProd 255)) .narrow 8 with
      | (.ok b, u) =>
        let w := u.setRing 255 { u.ring 255 with scan := .idle, lastRead := u.eng }
        if (t.ring 255).scan == .reading 0 && t.ringOn 255 && !t.ringHeld 255 && t.f .RING_CTRL_SCAN 255 != 0 then
          some (decide (leNat b < u.f .RING_ACCEPT_POS 255 ∨ w.f .RING_DONE_POS 255 + w.ringSlots 255 < leNat b)) else none
      | _ => none
    (f 17 == some true && f 16 == some false && f 0 == some false) = true := by decide +kernel
theorem witness_RingEventsRun_fetch :
    let t := (ringState.setRing 255 { scan := .fetching 1 }).elapse 9
    let pos := t.f .RING_ACCEPT_POS 255
    ((t.ring 255).scan == .fetching 1 && t.ringOn 255 && !t.ringHeld 255 && (t.ring 255).fetched.isNone && (t.ring 255).committed.isNone &&
      (t.ring 255).entries == [] && !t.tallyFull 255 && (match t.readSlots 255 pos 1 with
        | (.ok h, v) => decide (pos + fldB h 1 1 % 16 + 1 ≤ 1) && (match v.readSlots 255 pos (fldB h 1 1 % 16 + 1) with
          | (.ok _, _) => true
          | _ => false)
        | _ => false)) = true := by decide +kernel
theorem witness_RingEventsRun_ack :
    let t := (ringWith { pos := 0, pkt := packet 0 1 [], st := .written }).elapse 9
    (match t.entry? 255 0 with
     | some e => e.st == .written && t.ringOn 255 && !t.ringHeld 255
     | none => false) = true := by decide +kernel
theorem witness_RingEventsRun_release : ((ringState.elapse 9).entry? 255 0).isNone = true := by decide +kernel
theorem witness_RingEventsRun_finish :
    let t := (ringWith { pos := 0, pkt := packet 0 1 [], st := .running, res := some {} }).elapse 9
    (match t.entry? 255 0 with
     | some e => e.ready && t.hubWorks (t.ringHub 255) && !t.tagHeld 255 0 && e.res == some {} && e.flag == none && e.op != 0x30
     | none => false) = true := by decide +kernel
theorem witness_RingEventsRun_flag :
    let t := (ringWith { pos := 0, pkt := packet 0 1 [], st := .running, res := some {}, flag := some (aHeld 64) }).elapse 9
    (match t.entry? 255 0 with
     | some e => e.ready && t.hubWorks (t.ringHub 255) && !t.tagHeld 255 0 && !e.sent && (match t.useHeld (t.cmdCache 255) (aHeld 64) 2 with
       | (.ok l, u) => (u.writeLoc l .narrow (leBytes 8 (flagValue e 0))).1.isNone
       | _ => false)
     | none => false) = true := by decide +kernel
theorem witness_RingEventsRun_deliver :
    let t := (ringWith { pos := 0, pkt := packet 0 1 [], st := .finished, res := some {} }).elapse 9
    (match (t.ring 255).entries with
     | e :: _ => e.st == .finished && e.flush == [] && e.remoteOpen == 0 && t.hubWorks (t.ringHub 255) && !t.fb .RING_STATUS_HOST_STOPPED 255 &&
       !(t.ring 255).dropping
     | [] => false) = true := by decide +kernel
theorem witness_RingEventsRun_waits :
    let t := (ringWith { pos := 0, pkt := packet 0x03 1 [(24, 4, 1)], st := .running, holds := [aHeld 0] }).elapse 1000
    let u := (ringWith { pos := 0, pkt := packet 0x04 1 [(0, 8, 999)], st := .running }).elapse 1000
    ((match t.entry? 255 0 with
      | some e => e.op == 0x03 && e.active && !t.tagHeld 255 0 && t.hubWorks (t.ringHub 255) && decide (e.pollAt + e.pollNs ≤ t.eng) && e.holds.head? == some (aHeld 0) &&
        decide (e.body 24 4 = 1) && decide (e.startAt + 1 * 1000 ≤ t.eng)
      | none => false) &&
     (match u.entry? 255 0 with
      | some e => e.op == 0x04 && e.active && decide (e.body 0 8 ≤ u.now) && u.inOrder (e.body 0 8)
      | none => false)) = true := by decide +kernel

theorem witness_ScalarAndControlRun_issues :
    let s := groupState 3
    let w := word 63 0 0 0
    let c := { w with mod := 3 }
    (issues s 0 (word 63 1 2 2) (fun _ _ => scalarOk .add (word 63 1 2 2)) && issues s 0 (word 0 0 0 0) (fun _ _ => endOk (word 0 0 0 0)) &&
      issues s 10 (word 0 0 0 0) (fun _ _ => syncOk 2 (word 0 0 0 0) && thirdOkS (word 0 0 0 0)) &&
      issues s 11 w (fun _ _ => syncOk 2 w && sOk 63) && issues s 11 (word 15 0 0 0) (fun _ k => syncOk 2 (word 15 0 0 0) && vOk k.vregs false 15) &&
      issues s 11 c (fun _ _ => syncOk 2 c && sOk 63) && issues s 10 (word 0 0 0 0) (fun _ _ => syncOk 2 (word 0 0 0 0))) = true := by decide +kernel
theorem witness_ScalarAndControlRun_membar :
    let w := { word 0 0 0 0 with mod := 1 }
    (match (coded (groupState 3) 10 0 w).issued 0 10 none w fun _ _ => syncOk 1 w with
     | some t => (t.membar 0 true).1.isNone
     | none => false) = true := by decide +kernel
theorem witness_ScalarAndControlRun_branch :
    let w := { word 0 0 0 0 with lit := some 0x4000000010, pred := 1 }
    (match (coded (groupState 3) 0 0 w).issued 0 0 none w fun _ _ => branchOk w with
     | some t => decide (branchTo (t.group 0).pc 16 % 8 = 0) && !(t.group 0).deep 2
     | none => false) = true := by decide +kernel
theorem witness_ScalarAndControlRun_jump :
    let w := word 0 2 0 0
    let s := coded (groupState 3) 0 0 w
    let far := s.setGroup 0 ((s.group 0).vputD 2 1 64)
    let f := fun (s : State) => (match s.issued 0 0 none w fun _ k => jumpOk k.vregs w with
      | some t =>
        let x := t.group 0
        let ts := targetsOf (fun l => x.vgetD 2 l) (bitList (x.exec w) 64)
        if (ts.find? fun (e : Nat × Nat) => e.1 % 8 ≠ 0) == none && andNot x.lanes (x.exec w) == 0 && !x.deep ts.length then ts.length else 0
      | none => 0)
    (f s == 1 && f far == 2) = true := by decide +kernel
theorem witness_ScalarAndControlRun_release :
    let s := (groupState 3).setGroup 0 { (groupState 3).group 0 with wait := .barrier }
    (s.teamGroups 0 0 != [] && (s.teamGroups 0 0).all fun e => e.2.wait == .barrier) = true := by decide +kernel

theorem witness_GroupEventsRun_reserved :
    let f := fun (cls op : Nat) =>
      let s := coded (groupState 3) cls op (word 0 0 0 0)
      s.canIssue 0 && s.chosen 0 && (match (s.setGroup 0 (s.group 0).atFetch).groupFetch 0 8 with
        | (some b, _) => speltReserved cls b
        | _ => false)
    (f 15 0 && f 9 1023) = true := by decide +kernel
theorem witness_GroupEventsRun_sector :
    let s := (groupState 3).setFills [{ slice := 63, line := 0, first := 3, waiters := [0] }]
    let mine := fun (sec : Nat) (f : Fill) => f.slice == 63 && f.line == 0 && s.delivers f sec
    (s.caches.fills.any (mine 3) && !s.caches.fills.any (mine 0)) = true := by decide +kernel
theorem witness_GroupEventsRun_yield :
    let s := (groupState 3).setGroup 0 { (groupState 3).group 0 with bb := 4096, stack := [⟨8, 1, 64⟩, ⟨16, 2, 64⟩, ⟨64, 3, 2 ^ 64 - 1⟩] }
    let x := s.group 0
    let u := (groupState 3).setGroup 0 { (groupState 3).group 0 with bb := 4096 }
    (x.live && (s.kernel 0).live && decide ((s.kernel 0).yieldCount ≤ x.bb) && decide (x.fy < 2 ^ 24) && x.wait == .none &&
      (swapSibling (popJoins x.stack)).isSome && decide ((popJoins (u.group 0).stack).length ≤ 1) && decide ((u.kernel 0).yieldCount ≤ (u.group 0).bb)) =
      true := by decide +kernel
theorem witness_GroupEventsRun_stalemate :
    let s := (groupState 3).setGroup 0 { (groupState 3).group 0 with fy := 2 ^ 24 }
    let x := s.group 0
    (x.live && (s.kernel 0).live && decide (2 ^ 24 ≤ x.fy) && x.wait == .none && (s.kernel 0).phase == .running) = true := by decide +kernel

theorem witness_VectorInstructionsRun :
    let s := groupState 3
    let c := { word 2 4 0 0 with mod := 6 }
    let v := { word 15 14 0 0 with mod := 8 }
    (issues s 1 (word 15 1 2 0) (fun _ k => vintOk k.vregs .add (word 15 1 2 0)) &&
      issues s 1 (word 7 14 2 2) (fun _ k => vintOk k.vregs .cmpLe (word 7 14 2 2)) &&
      issues s 2 (word 14 12 10 4) (fun _ k => vfloatOk k.vregs .fma (word 14 12 10 4)) &&
      issues s 2 (word 7 1 2 3) (fun _ k => vfloatOk k.vregs .cmpNe (word 7 1 2 3)) &&
      issues s 2 (word 15 1 2 6) (fun _ k => vfloatOk k.vregs .add (word 15 1 2 6)) &&
      issues s 3 (word 15 0 0 3) (fun _ k => sfuOk' k.vregs .exp2 (word 15 0 0 3)) &&
      issues s 4 v (fun _ k => cvtOk k.vregs 2 v) (some 2) && issues s 5 c (fun _ k => shflOk k.vregs .xor c) &&
      issues s 5 (word 63 7 0 0) (fun _ k => voteOk k.vregs .ballot (word 63 7 0 0)) &&
      issues s 5 (word 14 0 15 0) (fun _ k => voteOk k.vregs .matchMask (word 14 0 15 0))) = true := by decide +kernel

/-- The group at its code with lanes reading and writing at 128 (s[1] the base, pair v4 offsets of 0), a scratch of 4 KiB held. -/
def memGroup : State :=
  let s := groupState 3
  ((s.setKernel 0 { s.kernel 0 with scratch := 4096 }).setTeam 0 { live := true, cluster := 0, grans := [0] }).setGroup 0 ((s.group 0).sput 1 128)
theorem witness_GroupMemoryRuns_ld :
    (match (coded memGroup 6 0 (word 2 1 4 0)).issued 0 6 none (word 2 1 4 0) fun _ k => ldOk k.vregs 8 (word 2 1 4 0) with
     | some t =>
       let accs := (t.group 0).laneAccs (word 2 1 4 0) 8 ((t.group 0).laneAddr (word 2 1 4 0))
       misaligned accs == none && (match t.groupLoad 0 1 0 accs with
         | (some (_, []), _) => true
         | _ => false)
     | none => false) = true := by decide +kernel
theorem witness_GroupMemoryRuns_st :
    let w := { word 0 1 4 0 with lit := none }
    (match (coded memGroup 6 0 w).issued 0 6 none w fun _ k => stOk k.vregs 4 w with
     | some t =>
       let x := t.group 0
       let accs := x.laneAccs w 4 (x.laneAddr w)
       misaligned accs == none && (match (t.takeFree.2).groupXlate 0 2 accs with
         | (some l, u) => remoteOf l == [] && !(u.storeWaits (sliceOf 0) 0 (localOf l)).1 &&
           (u.writePieces 0 (u.kernelOf 0).part 0 (fun a => x.laneData w 4 0 a.lane) (localOf l)).1 == none
         | _ => false)
     | none => false) = true := by decide +kernel
theorem witness_GroupMemoryRuns_scratch :
    let s := memGroup.setGroup 0 ((memGroup.group 0).sput 1 4080)
    ((match (coded s 7 0 (word 4 1 12 0)).issued 0 7 none (word 4 1 12 0) fun _ k => ldsOk k.vregs 16 (word 4 1 12 0) with
      | some t => ((t.group 0).laneAccs (word 4 1 12 0) 16 ((t.group 0).laneAddr (word 4 1 12 0))).all fun a => t.scratchOk 0 a.va a.len
      | none => false) &&
     (match (coded s 7 0 (word 4 1 12 0)).issued 0 7 none (word 4 1 12 0) fun _ k => stsOk k.vregs 16 (word 4 1 12 0) with
      | some t => ((t.group 0).laneAccs (word 4 1 12 0) 16 ((t.group 0).laneAddr (word 4 1 12 0))).all fun a => t.scratchOk 0 a.va a.len
      | none => false)) = true := by decide +kernel
theorem witness_GroupMemoryRuns_atoms :
    (match (coded memGroup 8 0 (word 6 4 8 0)).issued 0 8 none (word 6 4 8 0) fun _ k => atomOk k.vregs 8 .add (word 6 4 8 0) with
     | some t =>
       let accs := (t.group 0).laneAccs (word 6 4 8 0) 8 ((t.group 0).vgetD 4)
       misaligned accs == none && accs.all fun a => t.scratchOk 0 a.va a.len
     | none => false) = true := by decide +kernel
theorem witness_GroupMemoryRuns_atom :
    (match (coded memGroup 8 0 (word 7 4 8 0)).issued 0 8 none (word 7 4 8 0) fun _ k => atomOk k.vregs 4 .add (word 7 4 8 0) && (AtomOp.add != .fadd || bitOf (memGroup.f .ID_FEAT_FEAT) 2) with
     | some t =>
       let x := t.group 0
       let accs := x.laneAccs (word 7 4 8 0) 4 (x.vgetD 4)
       misaligned accs == none && (match t.groupXlate 0 4 accs with
         | (some l, u) => remoteOf l == [] &&
           (match u.atomPieces 0 (u.kernelOf 0).part .add 7 (x.atomB (word 7 4 8 0) 4) (x.atomC (word 7 4 8 0) 4) (atomGroups (localOf l)) false with
            | (.ok _, _) => true
            | _ => false)
         | _ => false)
     | none => false) = true := by decide +kernel

/-- The group with 48 vector registers, s[1] = 128, s[2] = 0 and s[3] = 256, and a scratch of 16 KiB. -/
def matrixGroup (lanes : Nat) : State :=
  let s := groupState lanes
  ((s.setKernel 0 { s.kernel 0 with vregs := 48, scratch := 16384 }).setTeam 0 { live := true, cluster := 0, grans := [0, 1, 2, 3] }).setGroup 0
    (((s.group 0).sput 1 128).sput 3 256)
def matrixWord (d a b c mod : Nat) : IWord := { d := d, a := a, b := b, c := c, pred := 0, pneg := false, fmt := 0, rnd := 0, mod := mod, lit := none }
theorem witness_MatrixInstructionsRun_mma :
    let w := matrixWord 0 16 20 0 1
    ((match (coded (matrixGroup (2 ^ 64 - 1)) 9 0 w).issued 0 9 (some 0) w fun _ k => matrixPlain w && mmaOk k.vregs w with
      | some t => (t.group 0).lanes == fullMask
      | none => false) &&
     (match (coded (matrixGroup 3) 9 0 w).issued 0 9 (some 0) w fun _ k => matrixPlain w && mmaOk k.vregs w with
      | some t => (t.group 0).lanes != fullMask
      | none => false)) = true := by decide +kernel
theorem witness_MatrixInstructionsRun_mld :
    let w := matrixWord 44 1 2 0 1
    let v := matrixWord 44 1 2 0 33
    ((match (coded (matrixGroup (2 ^ 64 - 1)) 9 1 w).issued 0 9 (some 1) w fun _ k => matrixPlain w && mldOk k.vregs w with
      | some t => (t.group 0).lanes == fullMask && !(t.group 0).unaligned32 w && (match t.groupLoad 0 1 0 ((t.group 0).mldAccs w) with
        | (some (_, []), _) => true
        | _ => false)
      | none => false) &&
     (match (coded (matrixGroup (2 ^ 64 - 1)) 9 1 v).issued 0 9 (some 1) v fun _ k => matrixPlain v && mldOk k.vregs v with
      | some t => (t.group 0).lanes == fullMask && !(t.group 0).unaligned32 v && ((t.group 0).mldAccs v).all fun a => t.scratchOk 0 a.va a.len
      | none => false)) = true := by decide +kernel
theorem witness_MatrixInstructionsRun_mst :
    let w := matrixWord 0 1 3 16 1
    let v := matrixWord 0 1 3 16 33
    ((match (coded (matrixGroup (2 ^ 64 - 1)) 9 2 w).issued 0 9 (some 2) w fun _ k => matrixPlain w && mstOk k.vregs w with
      | some t =>
        let x := t.group 0
        x.lanes == fullMask && !x.unaligned32 w && decide (32 * mstSize (w.mod % 8) ≤ x.sget 3) && (match t.groupXlate 0 2 (x.mstAccs w) with
          | (some l, u) => remoteOf l == [] && !(u.storeWaits (sliceOf 0) 0 (localOf l)).1 &&
            (u.writePieces 0 (u.kernelOf 0).part 0 (fun _ => zeroBytes 32) (localOf l)).1 == none
          | _ => false)
      | none => false) &&
     (match (coded (matrixGroup (2 ^ 64 - 1)) 9 2 v).issued 0 9 (some 2) v fun _ k => matrixPlain v && mstOk k.vregs v with
      | some t => (t.group 0).lanes == fullMask && !(t.group 0).unaligned32 v && ((t.group 0).mstAccs v).all fun a => t.scratchOk 0 a.va a.len
      | none => false)) = true := by decide +kernel

theorem witness_MemoryAccessesRun_outside :
    let s := State.withFields readyState [(.ID_PART_VALID_DIES, 0, 0x7FFF)]
    (s.memOutside ⟨4, 0, some (0, 0)⟩ 31 && s.memOutside ⟨1, 0, none⟩ 31) = true := by decide +kernel
theorem witness_MemoryAccessesRun :
    let s := readyState
    (s.stackServes 31 && !s.memOutside ⟨4, 0, some (0, 0)⟩ 31 && !s.memOutside ⟨1, 255, none⟩ 31 && ([0, 64, 128, 192].all fun o => s.badSyms (granKey 31 ((2 ^ 37 - 1) / 256 * 256 + o)) == []) &&
      (s.stack 31).retiring == [] && !s.inCellar 31 (2 ^ 37 - 1) && !s.inBootImage (s.paOf 31 (2 ^ 37 - 1)) &&
      s.ownerOf (granKey 31 (2 ^ 37 - 1)) == none && s.settled (granKey 31 (2 ^ 37 - 1))) = true := by decide +kernel

theorem witness_MemoryEventsRun_scrub :
    let s := State.withFields { readyState with ecc := [(granKey 31 64, [(0, 1)])] } [(.MEM_CTRL_SCRUB_EN, 31, 1)]
    (s.fb .MEM_CTRL_SCRUB_EN 31 && s.stackServes 31 && !s.napping 31 && !s.fb .MEM_STATUS_SELF_REFRESH 31 && s.badSyms (granKey 31 64) != [] &&
      (((s.setStack 31 { s.stack 31 with scrubAt := granOff (granKey 31 64) + 64 }).slotRead 31 64 .bulk 64 64 64).readWord (granKey 31 64)).1.isSome) = true := by decide +kernel
theorem witness_MemoryEventsRun_refresh :
    let t := readyState.elapse 9
    (!t.fb .MEM_STATUS_SELF_REFRESH 31 && (t.stack 31).refreshed.fget (64 * 31 + 63) 0 == 0) = true := by decide +kernel
theorem witness_MemoryEventsRun_hot :
    let s := State.withFields readyState [(.ID_PART_VALID_DIES, 0, 0x7FFF)]
    (!s.fb .MEM_STATUS_STOPPED 31 && s.dieOwner (31 / 2) == none) = true := by decide +kernel
theorem witness_MemoryEventsRun_window :
    let t := (State.withFields readyState [(.MEM_STATUS_PENDING, 31, 1)]).elapse 1000000
    let u := (State.withFields readyState [(.MEM_STATUS_WINDOW, 31, 1)]).elapse 9
    (t.fb .MEM_STATUS_PENDING 31 && !t.fb .MEM_STATUS_WINDOW 31 && !t.fb .MEM_STATUS_STOPPED 31 && !(t.stack 31).failed &&
      !t.fb .MEM_STATUS_SELF_REFRESH 31 && !t.napping 31 && t.windowDue 31 && (t.memWinTime 31).all t.inOrder && u.fb .MEM_STATUS_WINDOW 31) = true := by decide +kernel

theorem witness_CoherenceRequestsRun_read :
    ([(⟨.u, 0, [], false, 0, [], none⟩ : Dir), ⟨.s, 0, [7], false, 0, [], none⟩, ⟨.e, 5, [], false, 0, [], none⟩].all fun d =>
      let s := dirState d {}
      s.sameDomain 511 0 && s.noRequest 511 0 && s.caches.net == [] && (s.copy 511 0).st == .i && !(s.dirOf 0).busy &&
        !((s.starving (granStack 0)).any fun x => x.1 == 0) && (s.dirRoom 0 (0, 511, 1, false)).1 && (s.dirRoom 0 (0, 511, 2, true)).1 &&
        (s.homeRead 511 0).1.isSome && s.sameDomain 1151 0 && s.noRequest 1151 0 && !s.barred 1151 0) = true := by
  decide +kernel
theorem witness_CoherenceRequestsRun_write :
    let s := dirState ⟨.e, 3, [], false, 0, [], none⟩ { st := .m, data := zeroBytes 64 }
    let b := dirState ⟨.e, 3, [], false, 0, [3], some { kind := 1, req := 600 }⟩ {}
    ((s.copy 3 0).want == 0 && !(s.copy 3 0).wb && (s.copy 3 0).data.length == 64 && (s.dirOf 0).owned && s.caches.net == [] &&
      (b.dirOf 0).busy && decide (b.naksOf 511 0 < 8) && ((s.setNc 600 0 { kind := 5 }).nc 600 0).kind == 5) = true := by decide +kernel

theorem witness_CoherenceAnswersRun_owner :
    ([CSt.m, .o, .e, .s].all fun st =>
      let t := dirState {} { st := st, data := zeroBytes 64 }
      !t.early 3 0 && (t.copy 3 0).st != .i && !(t.copy 3 0).wb) = true := by decide +kernel
theorem witness_CoherenceAnswersRun_early :
    let t := fun q => dirState {} { st := .i, want := 2, queue := List.replicate q (1, 0) }
    let f := fun q => (t q).copy 3 0
    ((t 3).early 3 0 && (t 4).early 3 0 && decide ((f 3).queue.length < 4) && decide (4 ≤ (f 4).queue.length) && (f 0).want != 0) = true := by decide +kernel
theorem witness_CoherenceAnswersRun_arriving :
    let b := zeroBytes 64
    ([CMsg.fwd 0 511 1151 0, .fwd 1 511 1151 0, .fwd 2 511 1151 0, .recall 511 0, .inv 511 0, .invAck 511 0, .wbAck 511 0 true].all fun m =>
      (readyState.setNet [(0, .nak 0 3 0), (0, m)]).arriving (· == m) == some (0, m)) &&
    (readyState.setNet [(0, .data 3 1151 0 3 b)]).arriving (isData 1151 0 3 b) == some (0, .data 3 1151 0 3 b) &&
    (readyState.setNet [(0, .done 1151 0 [5])]).arriving (isDone 1151 0) == some (0, .done 1151 0 [5]) &&
    (readyState.setNet [(0, .nak 3 1151 0)]).arriving (isNak 1151 0) == some (0, .nak 3 1151 0) = true := by decide +kernel
theorem witness_CoherenceAnswersRun_acks :
    let s := dirState { st := .s, wait := [3], txn := some { kind := 0, req := 3 } } { st := .i, wb := true, want := 1 }
    let u := dirState { st := .s, wait := [3, 4], txn := some { kind := 0, req := 3 } } {}
    ((s.dirOf 0).txn.isSome && (s.dirOf 0).wait.erase 3 == [] && (u.dirOf 0).txn.isSome && (u.dirOf 0).wait.erase 3 != [] && (s.copy 3 0).wb &&
      (s.copy 3 0).want != 0 && (readyState.setNc 600 0 { kind := 6 }).nc 600 0 == { kind := 6 }) = true := by decide +kernel
theorem witness_CoherenceAnswersRun_retry :
    let t := (dirState {} { want := 1, naks := 1, held := true, retryAt := 40 }).elapse 40
    let u := (readyState.setNc 600 0 { kind := 4, naks := 1, held := true, retryAt := 40 }).elapse 40
    ((t.copy 3 0).want != 0 && (t.copy 3 0).held && decide ((t.copy 3 0).retryAt ≤ t.eng) && (t.nc 3 0).kind == 0 && (u.nc 600 0).kind == 4 &&
      (u.nc 600 0).held && decide ((u.nc 600 0).retryAt ≤ u.eng)) = true := by decide +kernel

theorem witness_WindowPacketsRun :
    let s := readyState
    let t := { readyState with rreqs := [(8191, { hub := 3, node := 7, win := 0, off := 0, len := 8, op := 1, sentAt := 0, wait := .cmd 0 0 })] }.elapse 1000000
    (s.hubWorks 3 && decide (s.node = 0) && (match t.rreqs.find? (fun (e : Nat × RReq) => e.1 == 8191 && e.2.hub == 3) with
      | some (_, q) => q.unsent == none && decide (q.sentAt + t.remoteNs ≤ t.eng)
      | none => false)) = true := by decide +kernel

def upState : State := State.withFields readyState [(.TLS_PCTRL_ENABLE, 15, 1), (.TLS_PSTAT_STATE, 15, 2)]
set_option maxRecDepth 10000 in
theorem witness_TilusPortsRun_frames :
    let h := fun n typ => leBytes 2 n ++ [0, 0] ++ leBytes 4 (2 * typ) ++ zeroBytes 784
    let b := fun n typ => h n typ ++ leBytes 8 (crc64 (h n typ))
    let v := ((upState.incF .TLS_PERR_FEC_FIXED 15 0).frameControl 15 (frameOf (b 1 0))).hubEnergy 3 640000
    (upState.tlsUp 15 && (b 1 0).length == 800 && (frameOf (b 1 0)).good && (frameOf (b 1 0)).typ == 0 && (frameOf (b 9 1)).good &&
      (frameOf (b 9 1)).typ == 1 && !(frameOf (zeroBytes 799 ++ [1])).good &&
      decide ((frameOf (b 1 0)).seq = ((v.tls 15).rxSeq + 1) % 65536)) = true := by decide +kernel
theorem witness_TilusPortsRun_retrain :
    let s := upState.setTls 15 { upState.tls 15 with nakRun := 16 }
    let t := (State.withFields readyState [(.TLS_PSTAT_STATE, 15, 3)]).elapse 9
    let u := ((State.withFields readyState [(.TLS_PSTAT_STATE, 15, 3)]).setTls 15 { downAt := some 0 }).elapse 1000000
    (s.tlsUp 15 && decide (16 ≤ (s.tls 15).nakRun) && decide (t.f .TLS_PSTAT_STATE 15 = 3) && t.hubWorks 3 && (u.tls 15).downAt == some 0 &&
      decide (u.f .TLS_PSTAT_STATE 15 ≠ 2) && decide (0 + 1000000 ≤ u.eng)) = true := by decide +kernel
theorem witness_TilusPortsRun_train :
    let t := (State.withFields readyState [(.TLS_PCTRL_ENABLE, 15, 1), (.TLS_PSTAT_STATE, 15, 1)]).elapse 9
    let u := upState.elapse 2000
    (t.fb .TLS_PCTRL_ENABLE 15 && decide (t.f .TLS_PSTAT_STATE 15 = 1) && t.hubWorks 3 && decide ((t.tls 15).lastTry = 0) &&
      decide (u.f .TLS_PSTAT_STATE 15 = 2) && decide ((u.tls 15).lastBeacon + 2000 ≤ u.eng) && readyState.hubPresent 3 &&
      decide (readyState.f .TLS_PSTAT_STATE 15 ≠ 5)) = true := by decide +kernel
theorem witness_TilusPortsRun_slots :
    let s := (State.withFields readyState [(.TLS_RES_FLOW_VALID, resIx 15 15, 1), (.TLS_RES_FLOW_SCHEDULE, resIx 15 15, 2)]).setSched 2 { period := 1000 }
    let t := s.elapse 1000
    let x := t.resvOf (resIx 15 15)
    let u := (s.setResv (resIx 15 15) { firstDeal := 0, count := 0, since := 0, openUntil := some 5 }).elapse 9
    (t.resValid 15 15 && t.hubWorks 3 && x.openUntil == none && decide (t.f .TLS_RES_OFFSET_NS (resIx 15 15) ≤ t.now) &&
      (t.resSched 15 15).current (t.now - 0) == some 1 && t.inOrder ((t.resSched 15 15).boundary 1 + 0) && decide (x.since < (t.resSched 15 15).boundary 1) && decide (x.count = 0) &&
      (u.resvOf (resIx 15 15)).openUntil == some 5 && decide (5 ≤ u.now)) = true := by decide +kernel
theorem witness_TilusPortsRun_last :
    let s := (State.withFields readyState [(.TLS_RES_FLOW_VALID, resIx 15 15, 1), (.TLS_RES_FLOW_SCHEDULE, resIx 15 15, 2)]).setSched 2 { period := 1000 }
    let t := (s.setResv (resIx 15 15) { firstDeal := 0, count := 1, since := 0 }).elapse 1000
    let x := t.resvOf (resIx 15 15)
    (t.resValid 15 15 && x.openUntil == none && x.count != 0 && decide ((t.resSched 15 15).boundary (x.firstDeal + x.count - 1) +
      t.f .TLS_RES_OFFSET_NS (resIx 15 15) + t.f .TLS_RES_SLOT_NS (resIx 15 15) ≤ t.now)) = true := by decide +kernel

/-- `readyState` with the link of port 1 up and mastering, any requester its host. -/
def linkState : State :=
  let s := State.withFields readyState [(.PCI_LINK_UP, 1, 1), (.PCI_LINK_BME, 1, 1)]
  s.setPort 1 { s.port 1 with memEn := true }
theorem witness_InboundRequestsRun :
    let t := linkState.evHub 1 0x22 0 0 8
    let u := (State.withFields linkState [(.PCI_HOST_RID_MASK, 1, 0xFFFF)]).evHub 1 0x22 0 0 8
    (linkState.portServes 1 && t.memServes 1 && t.inboundOk 1 0 0 (2 ^ 28 - 8) 8 false && t.inboundOk 1 0 2 (2 ^ 36 - 8) 8 true &&
      t.barBytes 1 0 == 2 ^ 28 && t.barBytes 1 2 == 2 ^ 36 && u.memServes 1 && !readyState.memServes 1 && !u.inboundOk 1 5 2 0 8 true && !u.inboundOk 1 5 0 0 8 false) = true := by decide +kernel

theorem witness_PciePortEventsRun_link :
    let s := State.withFields readyState [(.RST_STATUS_PHASE, 0, 3)]
    (decide (s.f .RST_STATUS_PHASE ≠ 5) && okLink 1 6 16 && !readyState.fb .PCI_LINK_UP 1 && readyState.hubWorks 1 && linkState.fb .PCI_LINK_UP 1 &&
      decide (linkState.f .RST_STATUS_PHASE = 5) && linkState.fb .PCI_LINK_BME 1) = true := by decide +kernel
theorem witness_PciePortEventsRun_completion :
    let s := linkState.setPort 1 { linkState.port 1 with reads := [(1023, ⟨0, 0, true, 0, 0⟩)] }
    (s.portOk 1 && ((s.port 1).reads.fget 1023 ⟨0, 0, false, 0, 0⟩).flush && !((s.port 1).reads.fget 1 ⟨0, 0, false, 0, 0⟩).flush) = true := by decide +kernel
theorem witness_PciePortEventsRun_lost :
    let s := (State.withFields linkState [(.RING_CTRL_LOC, 255, 2)]).setRing 255 { entries := [{ pos := 0, pkt := packet 0x03 1 [], st := .running, flush := [1] }] }
    ((match s.entry? 255 0 with
      | some e => e.st == .running && s.usesPort 1 255 e
      | none => false) && decide ((s.elapse 50000000).readSent 1 255 0 + 50000000 ≤ (s.elapse 50000000).eng)) = true := by decide +kernel
theorem witness_PciePortEventsRun_peer :
    let t := (State.withFields linkState [(.PCI_PEER_STATE, 31, 1)]).elapse 10000000
    (decide (t.f .PCI_PEER_STATE 31 = 1) && decide ((t.port 1).verifyAt.fget 15 0 + 10000000 ≤ t.eng)) = true := by decide +kernel

def crxState : State := State.withFields readyState [(.CRX_STATUS_STATE, 175, 2)]
set_option maxRecDepth 10000 in
theorem witness_CoroxLinksRun_flit :
    let h := fun seq typ => leBytes 4 (seq + 2 ^ 25 * typ) ++ zeroBytes 244
    let b := fun seq typ => h seq typ ++ leBytes 8 (crc64 (h seq typ))
    let s := State.withFields readyState [(.CRX_STATUS_STATE, 13, 2)]
    (s.f .CRX_STATUS_STATE 13 == 2 && (b 4095 0).length == 256 && (flitOf (b 4095 0)).good && (flitOf (b 4095 0)).typ == 0 && (flitOf (b 0 1)).typ == 1 &&
      (flitOf (b 0 1)).good && !(flitOf (flipBits (b 4095 0) [100])).good && (flitOf (flipBits (b 4095 0) [100])).typ == 0 &&
      ((farEnd 13).bind fun y => s.sentBy y (flitOf (b 0 1))).isSome && ((farEnd 13).bind fun y => s.sentBy y (flitOf (b 77 1))).isNone &&
      ((farEnd 175).bind fun y => crxState.sentBy y (flitOf (b 0 1))).isSome && (flitOf (b 0 2)).typ == 2 && (flitOf (b 0 2)).good &&
      (crxPeer 13).isSome) = true := by decide +kernel
theorem witness_CoroxLinksRun :
    let s := crxState
    let t := (crxState.setCrxE 175 { crxState.crxE 175 with nakRun := 16 }).elapse 1000
    let u := (State.withFields readyState [(.CRX_STATUS_STATE, 0, 2), (.CRX_STATUS_PENDING, 0, 1)]).elapse 1000000
    let w := (State.withFields readyState [(.CRX_STATUS_STATE, 175, 3)]).elapse 9
    (decide (s.f .CRX_STATUS_STATE 175 = 2) && decide (1024 ≤ ((s.setCrxE 175 { s.crxE 175 with stuck := [(67, 1024)] }).crxE 175).stuck.fget 67 0) &&
      (u.crxWinTime 0).all u.inOrder && decide (16 ≤ (t.crxE 175).nakRun) && t.endUp 175 && decide ((t.crxE 175).lastFlit + 1000 ≤ t.eng) &&
      decide (u.f .CRX_STATUS_STATE 0 = 2) && u.fb .CRX_STATUS_PENDING 0 && !u.fb .CRX_CTRL_WIN_SCHED 0 && decide ((u.crxE 0).pendAt + 1000000 ≤ u.eng) &&
      !u.crxBlocked 0 && (crxEnds 0).all u.endPartWorks && decide (w.f .CRX_STATUS_STATE 175 = 3)) = true := by decide +kernel

theorem witness_GuestCommandsRun :
    let t := (State.withFields readyState [(.CRX_GSTAT_STATE, 1, 1), (.CRX_STATUS_STATE, guestEnd 1, 1)]).elapse 1000000
    let u := State.withFields readyState [(.CRX_GSTAT_STATE, 1, 1), (.CRX_STATUS_STATE, guestEnd 1, 2)]
    let w := (withRun (State.withFields readyState [(.CRX_GSTAT_STATE, 1, 4)]) (packet 0x86 1 [])).setGuest 1 { expel := some (0, 0) }
    (decide (t.f .CRX_GSTAT_STATE 1 = 1) && t.hubWorks 3 && decide (t.f .CRX_STATUS_STATE (guestEnd 1) = 1) &&
      decide ((t.guest 1).lastTry + 1000000 ≤ t.eng) && decide (u.f .CRX_GSTAT_STATE 1 = 1) && u.endUp (guestEnd 1) &&
      (w.guest 1).expel == some (0, 0) && decide ((w.serveGuest 1 true).f .CRX_GSTAT_STATE 1 = 4) && (w.serveGuest 1 true).isActive 0 0) = true := by
  decide +kernel
/-- Site 1 admitted with one request at most, and a rule over the first 64 KiB, all rights, for partition 0. -/
def guestState : State :=
  State.withFields readyState [(.CRX_GSTAT_STATE, 1, 3), (.CRX_STATUS_STATE, guestEnd 1, 2), (.CRX_GRULE_SIZE_VALID, ruleIx 1 15, 1),
    (.CRX_GRULE_SIZE_SIZE, ruleIx 1 15, 1), (.CRX_GRULE_SIZE_RIGHTS, ruleIx 1 15, 7), (.RST_PART_STATE, 0, 1), (.CRX_GSTAT_MAX_OUT, 1, 1)]
/-- The header of a guest packet of site 1. -/
def guestHeader (op len vc : Nat) : Bytes := leBytes 16 (vc + 16 * op + 2 ^ 12 * len + 2 ^ 18 * 19 + 2 ^ 23 * 21 + 2 ^ 32 * 4095)
theorem witness_GuestCommandsRun_credit :
    let t := guestState.pumpGuest 1 64
    let u := guestState.setCrxE 177 { guestState.crxE 177 with credit := [0, 0, 0, 0, 0] }
    ([guestHeader 0x40 0 0, guestHeader 0x41 1 3 ++ zeroBytes 16, guestHeader 0x42 1 0 ++ zeroBytes 16].all fun b =>
      (guestPacketOf b).whole && decide (guestState.f .CRX_STATUS_STATE (guestEnd 1) = 2) && guestState.hubWorks 3 &&
        (t.crxE 177).maySend (guestPacketOf b).units && !((u.pumpGuest 1 64).crxE 177).maySend (guestPacketOf b).units) = true := by decide +kernel
theorem witness_GuestCommandsRun_request :
    let s := guestState
    let f := fun (op : Nat) (b : Bytes) =>
      let p := guestPacketOf b
      let t := if op = 0x40 then s else s.meterGuest 1 p.span
      decide (t.f .CRX_GSTAT_STATE 1 = 3) && p.op == op && p.ok 1 &&
        ((List.range 16).find? fun i => t.ruleValid 1 i && decide (t.ruleBase 1 i ≤ p.addr) &&
          decide (p.addr + p.span ≤ t.ruleBase 1 i + t.ruleSize 1 i)) == some 15 &&
        decide (p.need &&& t.f .CRX_GRULE_SIZE_RIGHTS (ruleIx 1 15) = p.need) &&
        decide (t.f .RST_PART_STATE (t.f .CRX_GRULE_SIZE_PART (ruleIx 1 15)) = 1) && decide ((t.guest 1).waiting.length < t.f .CRX_GSTAT_MAX_OUT 1) &&
        !(t.guest 1).waiting.any (fun (x : Nat × GPacket) => x.2.tag == p.tag)
    (f 0x40 (guestHeader 0x40 0 0) && f 0x41 (guestHeader 0x41 1 3 ++ zeroBytes 16) && f 0x42 (guestHeader 0x42 1 0 ++ zeroBytes 16)) = true := by
  decide +kernel
theorem witness_GuestCommandsRun_denied :
    let p := guestPacketOf (guestHeader 0x40 0 0)
    let r := State.withFields guestState [(.CRX_GRULE_SIZE_RIGHTS, ruleIx 1 15, 6)]
    (decide (readyState.f .CRX_GSTAT_STATE 1 ≠ 3) && decide (p.op ≠ 0x41) && decide (p.need &&& r.f .CRX_GRULE_SIZE_RIGHTS (ruleIx 1 15) ≠ p.need) &&
      ((List.range 16).find? fun i => readyState.ruleValid 1 i).isNone && !guestState.guestHole 0 p && guestState.guestHole 15 p &&
      decide ((State.withFields guestState [(.RST_PART_STATE, 0, 3)]).f .RST_PART_STATE 0 = 3)) = true := by decide +kernel

theorem witness_PowerEventsRun_module :
    let s := readyState
    let a := (State.withFields readyState [(.PWR_STATUS_ALERT_H, 0, 1)])
    let b := ({ s with power := { s.power with alertOn := 512, alertAt := s.power.alertAt.fput 9 1 0 } }).elapse 10000
    let w := s.elapse 4000
    (w.coolSettle.clockRuns && decide (w.coolSettle.power.nextWin ≤ w.coolSettle.now) && a.alertLow 9 && bitOf b.power.alertOn 9 && !b.alertLow 9 &&
      decide (b.power.alertAt.fget 9 0 = 1) && decide (1 + 9999 ≤ b.eng)) = true := by decide +kernel
theorem witness_PowerEventsRun_die :
    let s := readyState
    let d := s.setDiePwr 15 { s.diePwr 15 with droop := true }
    let e := (State.withFields readyState [(.PWR_DIE_STRETCH, 15, 1)]).elapse 20
    let h := (s.setDiePwr 15 { s.diePwr 15 with holding := true }).elapse 2000
    let st := ((s.setDiePwr 15 { s.diePwr 15 with stepEnd := some (5, 1) }).elapse 5).coolSettle
    let p0 := ((State.withFields readyState [(.PWR_DIE_PSTATE, 15, 9)]).elapse 5).coolSettle
    let p := p0.setReq 15
    let q0 := (((State.withFields readyState [(.PWR_DIE_PSTATE, 15, 9)]).setDiePwr 15 { s.diePwr 15 with holding := true }).elapse 5).coolSettle
    let q := q0.setReq 15
    (!(s.diePwr 15).droop && (d.diePwr 15).droop && e.fb .PWR_DIE_STRETCH 15 && !(e.diePwr 15).droop && decide ((e.diePwr 15).clearAt + 20 ≤ e.eng) &&
      (h.diePwr 15).holding && !(h.diePwr 15).droop && decide ((h.diePwr 15).clearAt + 2000 ≤ h.eng) &&
      ((st.setReq 15).diePwr 15).stepEnd == some (5, 1) &&
      (p.diePwr 15).stepEnd == none && decide (p.f .PWR_DIE_PSTATE 15 ≠ p.pTarget 15) && !p.stepHeld 15 &&
      (q.diePwr 15).stepEnd == none && decide (q.f .PWR_DIE_PSTATE 15 ≠ q.pTarget 15) && !q.fb .PWR_DIE_FORCED 15 && q.stepHeld 15 && !(q.diePwr 15).waiting &&
      (let r := (((s.elapse 5).coolSettle).setReq 15).setF .PWR_DIE_PSTATE 15 ((((s.elapse 5).coolSettle).setReq 15).pTarget 15)
       (r.diePwr 15).stepEnd == none && decide (r.f .PWR_DIE_PSTATE 15 = r.pTarget 15) && !(r.diePwr 15).slow) &&
      s.dieWorks 15 && s.dieQuiet 15) = true := by decide +kernel
theorem witness_PowerEventsRun_nap :
    let a := (State.withFields readyState [(.PWR_IDLE_STATE, 0, 1)]).elapse 5
    let b := (State.withFields readyState [(.PWR_IDLE_STATE, 0, 3)]).elapse 5
    let c0 := State.withFields readyState [(.PWR_IDLE_STATE, 0, 2)]
    let c := ({ c0 with power := { c0.power with woken := c0.power.woken.fput 31 1 0 } }).elapse 10000
    (decide (a.f .PWR_IDLE_STATE 0 = 1) && decide (b.f .PWR_IDLE_STATE 0 = 3) && c.dieOwner 15 == some 0 && decide (c.f .PWR_IDLE_STATE 0 = 2) &&
      decide (c.power.woken.fget 31 0 = 1) && decide (1 + 9999 ≤ c.eng)) = true := by decide +kernel

theorem witness_ResetPhasesRun_up :
    let a := ({ State.reset with rst := { State.reset.rst with vaux := true, refclk := true } }).elapse 5
    let b := ({ State.withFields readyState [(.RST_STATUS_PHASE, 0, 1), (.PWR_STATUS_COOL_OK, 0, 1)] with rst := { readyState.rst with coolAt := some 0 } }).elapse 100000000
    let c := (State.withFields readyState [(.RST_STATUS_PHASE, 0, 2)]).elapse 5
    let d := (State.withFields readyState [(.RST_STATUS_PHASE, 0, 3)]).elapse 5
    let e := (State.withFields readyState [(.RST_STATUS_PHASE, 0, 4)]).elapse 5
    (decide (a.f .RST_STATUS_PHASE = 0) && a.rst.vaux && a.rst.refclk &&
      decide (b.f .RST_STATUS_PHASE = 1) && b.fb .PWR_STATUS_COOL_OK && b.rst.coolAt == some 0 && decide (100000000 ≤ b.eng) &&
      decide (c.f .RST_STATUS_PHASE = 2) && decide (popCount 8 4 < 2) && decide (2 ≤ popCount 12 4) && !bitOf 12 0 && !bitOf 12 1 && bitOf 9 0 && decide (2 ≤ popCount 9 4) &&
      decide (d.f .RST_STATUS_PHASE = 3) && bitOf 32768 15 && !bitOf (d.f .RST_FAILED_DIES) 15 && decide (e.f .RST_STATUS_PHASE = 4)) = true := by decide +kernel
theorem witness_ResetPhasesRun_down :
    let s := readyState
    let a := (s.elapse 10001)
    let b := (State.withFields readyState [(.RST_STATUS_PHASE, 0, 3)]).elapse 10001
    let c := State.withFields readyState [(.PWR_STATUS_COOL_OK, 0, 1)]
    let d := State.withFields readyState [(.PWR_STATUS_COOL_OK, 0, 1), (.RST_STATUS_PHASE, 0, 4)]
    let e := ({ s with power := { s.power with coolLostAt := some 0 } }).elapse 2000000000
    let g := (s.elapse 1000)
    (g.rst.vaux && s.rst.vaux && decide (a.f .RST_STATUS_PHASE = 5) && decide (b.f .RST_STATUS_PHASE = 3) &&
      c.fb .PWR_STATUS_COOL_OK && decide (c.f .RST_STATUS_PHASE = 5) && d.fb .PWR_STATUS_COOL_OK && decide (d.f .RST_STATUS_PHASE = 4) &&
      !s.fb .PWR_STATUS_COOL_OK && e.power.coolLostAt == some 0 && decide (e.f .RST_STATUS_PHASE = 5) && !e.fb .PWR_STATUS_COOL_OK &&
      !e.fb .PWR_STATUS_COOL_STOP && decide (2000000000 ≤ e.eng) && g.rst.refclk && decide (g.f .RST_STATUS_PHASE ≠ 0)) = true := by decide +kernel

theorem witness_FailuresAndKeeperRun :
    let a := readyState.elapse 10000
    let m := ({ State.withFields readyState [(.RST_HUB_STATE, 3, 0)] with rst := { readyState.rst with hubReset := [(3, (0, 0))] } }).elapse 5
    let k := ({ readyState with keeper := { readyState.keeper with queue := [.minimum 0 0 0 1] } })
    (decide (a.f .RST_STATUS_PHASE = 5) && decide (a.rst.beatAt + 1000 ≤ a.eng) && a.dieWorks 15 && decide (a.rst.heard.fget 19 0 + 10000 ≤ a.eng) &&
      a.hubWorks 3 && decide (a.rst.heard.fget 3 0 + 10000 ≤ a.eng) && !readyState.hubWorks 9 && a.dieWorks (31 / 2) &&
      m.rst.hubReset.find? (fun (x : Nat × (Nat × Nat)) => x.1 == 3) == some (3, (0, 0)) && decide ((k.elapse 5).keeper.queue = [.minimum 0 0 0 1])) = true := by decide +kernel
theorem witness_FailuresAndKeeperRun_signature :
    let g : Sign := { hub := 0, ring := 0, pos := 0, leaf := 7, time := 0, ready := true }
    let f := fun (s : State) => (({ withRun s (packet 0x84 1 []) with keeper := { s.keeper with signing := some g } }).elapse 5)
    let chk := fun (t : State) =>
      let u := { t with keeper := { t.keeper with signing := none } }
      match u.entry? 0 0 with
      | some e =>
        let b := u.report (sliceB e.pkt 64 32) g
        let v := { u with keeper := { u.keeper with reports := u.keeper.reports ++ [(g.ring, g.pos, g.leaf, b)] } }
        let w := v.writeSpans 0 0 (e.body 32 8) e.prog b
        some (u.isActive 0 0, w.1, (w.2.entry? 0 0).map fun x => (x.active, x.remoteOpen))
      | none => none
    ((f readyState).keeper.signing == some g && (f readyState).hubWorks 0 &&
      (chk (f readyState) == some (true, false, some (false, 0))) && (chk (f mappedState) == some (true, true, some (true, 0))) &&
      !(({ readyState with keeper := { readyState.keeper with signing := some g } }).elapse 5).isActive 0 0) = true := by decide +kernel
theorem witness_FailuresAndKeeperRun_hubs :
    let hears := fun (t : State) (x : Nat) =>
      decide (2 * (((List.range 16).filter t.dieWorks).filter fun n => t.reaches n x).length > ((List.range 16).filter t.dieWorks).length)
    let a := readyState.elapse 10000
    let b := (State.withFields readyState ((List.range 176).map fun e => (.CRX_STATUS_STATE, e, 2))).elapse 10000
    (!hears a 3 && hears b 3 && hears b 0 && b.hubWorks 0 && b.hubWorks 3) = true := by decide +kernel
theorem witness_FailuresAndKeeperRun_copy :
    let s := readyState.setCopying 0 1
    (decide (s.rst.copying.fget 0 99 < 4) && s.tallyLive 0 && s.hubWorks (s.rst.copying.fget 0 99) && s.copyReady (s.actingHub 0) 0 &&
      !readyState.copyReady 0 0) = true := by decide +kernel

theorem witness_ManagementPortsRun :
    let a := State.withFields readyState [(.RST_STATUS_PHASE, 0, 1)]
    let b := readyState.setMgmt { readyState.mgmt with addr := some 9 }
    (readyState.rst.vaux && decide (readyState.f .RST_STATUS_PHASE = 5) && readyState.mgmt.addr.isNone && b.mgmt.addr == some 9 && readyState.onChain (.die 15) &&
      readyState.onChain (.hub 3) && a.onChain (.hub 0) && a.onChain (.die 0) && decide (a.f .RST_STATUS_PHASE < 2) && (TapDev.die 15).ok && (TapDev.hub 3).ok) = true := by
  decide +kernel

def coreState : State := readyState.setCore 255 { readyState.core 255 with running := true, resv := some (granKey 31 0) }
theorem witness_NodeCoreAccessesRun_reads :
    let s := coreState; let a := 31 * 2 ^ 37
    (s.dieOwner (coreDie 255) == some 0 && s.coreRuns 255 0 && decide (a < controlBase) &&
      (s.coreRead 255 0 1 (pieces a 8)).1.isSome && (s.coreRead 255 0 8 (pieces a 4)).1.isSome && decide (0 < controlBase)) = true := by decide +kernel
theorem witness_NodeCoreAccessesRun_writes :
    let s := coreState; let a := 31 * 2 ^ 37
    ((s.coreRead 255 0 2 (pieces a 8)).1.isSome && (s.coreRead 255 0 4 (pieces a 4)).1.isSome && (s.coreAt 0 a false) == some (31, 0) &&
      (s.coreGran 255 4 (granKey 31 0)).1.isSome && (s.coreAt 0 a true).isSome &&
      (let w := ((s.granOf a).map s.settle).getD s
       (w.core 255).resv.isSome && (w.core 255).resv == w.granOf a &&
        ((w.setCore 255 { w.core 255 with resv := none }).coreRead 255 0 4 (pieces a 8)).1.isSome) && !((readyState.core 255).resv.isSome)) = true := by decide +kernel

theorem witness_VectorInstructionFrame :
    let s := groupState 3
    (issues s 1 (word 15 1 2 0) (fun _ k => vintOk k.vregs .add (word 15 1 2 0)) &&
      issues s 2 (word 14 12 10 4) (fun _ k => vfloatOk k.vregs .fma (word 14 12 10 4)) &&
      issues s 3 (word 15 0 0 3) (fun _ k => sfuOk' k.vregs .exp2 (word 15 0 0 3)) &&
      issues s 4 { word 15 14 0 0 with mod := 8 } (fun _ k => cvtOk k.vregs 2 { word 15 14 0 0 with mod := 8 }) (some 2) &&
      issues s 5 { word 2 4 0 0 with mod := 6 } (fun _ k => shflOk k.vregs .xor { word 2 4 0 0 with mod := 6 }) &&
      issues s 11 (word 15 0 0 0) fun _ k => syncOk 0 (word 15 0 0 0) && vOk k.vregs false (word 15 0 0 0).d) = true := by decide +kernel

theorem witness_LanesWritten :
    ((({} : Group).mapLanes true 2 (2 ^ 63) fun _ => 2 ^ 64 - 1).vgetW true 2 63 = 2 ^ 64 - 1) ∧ ((({} : Group).pput 7 2 3).pget 7 = 2) := by decide +kernel

theorem witness_CounterReadTakesOwnUnit :
    let s := groupState 3; let w := { word 63 0 0 0 with mod := 3 }; let x := { word 63 0 0 0 with mod := 4 }
    (issues s 11 w (fun _ _ => syncOk 2 w && sOk w.d) && issues s 11 x fun _ _ => true) = true := by decide +kernel

theorem witness_EndLeavesEveryEntry :
    let s := coded (groupState 3) 0 0 (word 0 0 0 0)
    let d := s.setGroup 0 { s.group 0 with stack := [⟨0, 1, 64⟩, ⟨8, 2, 64⟩, ⟨64, 3, 2 ^ 64 - 1⟩] }
    ((s.issued 0 0 none (word 0 0 0 0) fun _ _ => endOk (word 0 0 0 0)).map fun t => ((t.group 0).endLanes (word 0 0 0 0)).stack == []) = some true ∧
      ((d.issued 0 0 none (word 0 0 0 0) fun _ _ => endOk (word 0 0 0 0)).map fun t => ((t.group 0).endLanes (word 0 0 0 0)).stack) =
        some [⟨8, 2, 64⟩, ⟨64, 2, 2 ^ 64 - 1⟩] := by decide +kernel

theorem witness_BranchDepthFault :
    let s := groupState 3
    let p := fun (n : Nat) => s.setGroup 0 { (s.group 0).pput 1 3 1 with stack := ⟨0, 3, 256⟩ :: List.replicate n ⟨128, 3, 2 ^ 64 - 1⟩ }
    let w := { word 0 0 0 0 with pred := 1, lit := some 64 }
    let chk := fun (s : State) (n : Nat) => ((coded s 0 0 w).issued 0 0 none w fun _ _ => branchOk w).map fun t =>
      ((t.group 0).exec w, andNot (t.group 0).lanes ((t.group 0).exec w), decide ((t.group 0).stack.length = n))
    let j := (p 30).setGroup 0 (((p 30).group 0).vput 2 0 64)
    (chk (p 30) 31 == some (1, 2, true) && chk (p 29) 30 == some (1, 2, true) &&
      (((coded j 0 0 (word 0 2 0 0)).issued 0 0 none (word 0 2 0 0) fun _ k => jumpOk k.vregs (word 0 2 0 0)).map fun t =>
        (targetsOf (fun l => (t.group 0).vgetD 2 l) (bitList ((t.group 0).exec (word 0 2 0 0)) 64)).length) == some 2) = true := by decide +kernel

theorem witness_StalemateEndsKernel :
    let s := (groupState 3).setGroup 0 { (groupState 3).group 0 with fy := 2 ^ 24 }
    ((s.group 0).live && (s.kernel (s.group 0).kernel).live && decide ((s.group 0).wait = .none) &&
      decide ((s.kernel (s.group 0).kernel).phase = .running) && decide (2 ^ 24 ≤ (s.group 0).fy) && decide (((groupState 3).group 0).fy < 2 ^ 24)) = true := by
  decide +kernel

theorem witness_MatrixAddressMisaligned :
    let s := groupState (2 ^ 64 - 1)
    let s := s.setGroup 0 (((s.group 0).sput 1 33).sput 2 0)
    let w := { word 0 1 1 0 with mod := 0 }
    let v := { word 0 2 2 0 with mod := 4 }
    let f := fun (s : State) (w : IWord) => issues s 9 w (fun _ k => matrixPlain w && mldOk k.vregs w) (some 1)
    let m := fun (s : State) (w : IWord) => (List.range 64).any fun d => let w := { w with mod := d }
      issues s 9 w (fun _ k => matrixPlain w && mstOk k.vregs w) (some 2)
    (f s w && m s v && m s w && decide ((s.group 0).lanes = 2 ^ 64 - 1)) = true := by decide +kernel

theorem witness_IllegalEncodingsEndKernel :
    let s := groupState 3
    let w := { word 64 255 255 7 with mod := 63, rnd := 7, lit := none }
    ([0, 1, 2, 3, 5, 10, 11].all (fun cls => issues s cls w fun _ _ => true) && issues s 4 w (fun _ _ => true) (some 255) && !scalarOk .add w && !branchOk w && !jumpOk 16 w && !endOk w && !vintOk 16 .add w && !vfloatOk 16 .add w &&
      !sfuOk' 16 .exp2 w && !cvtOk 16 255 w && !shflOk 16 .xor w && !voteOk 16 .ballot w && !syncOk 0 w && !syncOk 1 w && !syncOk 2 w) = true := by
  decide +kernel

theorem witness_NodeCoreStaysInside :
    let s := readyState.setCore 255 { readyState.core 255 with running := true }
    (s.dieOwner (coreDie 255) == some 0 && s.coreRuns 255 0 && (s.coreAt 0 (2 ^ 45) false).isNone && (s.coreAt 0 (2 ^ 45) true).isNone &&
      decide (2 ^ 45 < controlBase)) = true := by decide +kernel

theorem witness_ReservedSpaceIgnored :
    let a := State.withFields readyState [(.ID_PRESENT_DIES, 0, 0x7FFF), (.ID_PRESENT_HUBS, 0, 7)]
    (!a.blockHere (blockOf (15 * 0x100000 + 0x6000)) && !a.blockHere (blockOf 0x1300000) && (regAt 0x1200).isNone && (regAt 0xFFFF8).isNone &&
      (regAt (0xFFFFFFF / 8 * 8)).isNone) = true := by decide +kernel

theorem witness_PerformanceStateFollowsUnits : readyState.requested 15 = 0 ∧
    (let s := State.withFields readyState [(.PWR_DIE_PSTATE, 15, 3)]; s.f .PWR_DIE_PSTATE 15 ≠ s.pTarget 15) := by decide +kernel

theorem witness_RecordsHeldInOrder :
    let a := readyState.setRing 255 { entries := [{ pos := 0, pkt := packet 0 0 [], st := .running }, { pos := 1, pkt := packet 0 0 [], st := .finished }] }
    let b := readyState.setRing 255 { dropping := true, entries := [{ pos := 0, pkt := packet 0 0 [], st := .finished }] }
    let h := fun (s : State) => (((s.elapse 5).ring 255).entries.map fun e => (e.st, e.flush, e.remoteOpen), ((s.elapse 5).ring 255).dropping,
      (s.elapse 5).hubWorks ((s.elapse 5).ringHub 255))
    (h a == ([(.running, [], 0), (.finished, [], 0)], false, true) && h b == ([(.finished, [], 0)], true, true) &&
      ((readyState.elapse 5).ring 255).entries == [] &&
      ((readyState.setRing 255 { entries := [{ pos := 0, pkt := packet 0 0 [], st := .finished }] }).deliverHead 255).isSome) = true := by decide +kernel

theorem witness_DieCountersCount :
    let s := State.withFields readyState [(.CTR_SEL_ENABLE, 255, 1), (.CTR_SEL_SEL, 255, 0xF05), (.CTR_VAL_VALUE, 255, 2 ^ 64 - 1)]
    s.f .CTR_SEL_ENABLE 255 ≠ 0 ∧ selHits (s.f .CTR_SEL_SEL 255) 0x05 3 0 = true ∧ s.f .CTR_SEL_ENABLE 240 = 0 := by decide +kernel

theorem witness_ManagementPortsWriteNothing :
    (∃ t, exec (.read64 0) readyState = .next t) ∧ (∃ t, exec .getstatus readyState = .next t) ∧
      (∃ t, exec (.setdasa 0x3A 127) readyState = .next t) ∧ (State.auxReset readyState false).rst.vaux = false :=
  ⟨⟨_, rfl⟩, ⟨_, rfl⟩, ⟨_, rfl⟩, rfl⟩

/-! ## WellFormed refuses a command that names what the module has not, one for each check -/

theorem test_wellFormed_refuses_registers : (([.registerWrite (.core 16) 0 8 0, .registerWrite .host (2 ^ 28) 8 0, .ringEnable .host 256 0, .ringDisable (.core 16) 0 0, .ringResume .host 256 0,
      .ringDiscard .host 256 0, .dealerRoleSet (.core 16) 0, .dealerRoleClear (.core 16) 0, .timeDealerSet (.core 16) 0, .tlsNodeWrite (.core 16) 0,
      .clrEnable .host 32 0, .clrDisable .host 32 0, .memRetrain .host 32 0, .memPeakClr .host 32 0, .memPmapWrite .host 16 0, .napEnter .host 16 0,
      .napExit .host 16 0, .faultQueueEnable .host 17 0, .svcQueueEnable .host 16 0, .svcReplyRetry .host 16 0, .svcReplyFault .host 16 0,
      .svcConsWrite .host 16 0, .peerEnable .host 2 0 0, .peerEnable .host 0 16 0, .peerDisable .host 0 16 0, .chkClear .host 4 0 0,
      .chkClear .host 0 8 0, .coroxRetrain .host 176 0, .coroxDisableSet .host 176 0, .coroxDisableClear .host 176 0, .tilusPortEnable .host 16 0,
      .tilusPortDisable .host 16 0] : List Instr).all fun c => !c.wellFormed) = true := by decide +kernel

theorem test_wellFormed_refuses_rings : (([.nop 256 0, .nop 0 (2 ^ 64), .ringScan 256 0, .producerRead 256 0, .packetFetch 256 0, .recordDeliver 256 0, .tallyAck 256 0 0, .tallyAck 0 (2 ^ 64) 0,
      .translationAck 256 0, .reservedOpcode 0 (2 ^ 64), .tapPassDispatch 0 0 32, .tapPassDispatch 256 0 0, .tapPassDispatch 0 (2 ^ 64) 0,
      .translationInv 0 0 4096, .translationInv 256 0 0, .completionTimeout 2 0 0 0, .completionTimeout 0 256 0 0, .completionUr 0 0 (2 ^ 64)] : List Instr).all fun c => !c.wellFormed) = true := by decide +kernel

theorem test_wellFormed_refuses_kernels : (([.bar 65536 (word 0 0 0 0), .scalarArithmetic 65536 .add (word 0 0 0 0), .cvt 0 1024 (word 0 0 0 0), .cvt 65536 0 (word 0 0 0 0),
      .branch 0 (word 256 0 0 0), .branch 0 (word 0 256 0 0), .branch 0 (word 0 0 256 0), .branch 0 { word 0 0 0 0 with c := 256 },
      .branch 0 { word 0 0 0 0 with pred := 8 }, .branch 0 (word 0 0 0 8), .branch 0 { word 0 0 0 0 with rnd := 8 },
      .branch 0 { word 0 0 0 0 with mod := 128 }, .ld 65536 0 (word 0 0 0 0), .atom 65536 .add 0 (word 0 0 0 0), .sectorDelivery 64 0 0,
      .sectorDelivery 0 (2 ^ 45) 0, .sectorDelivery 0 0 4, .forcedYield 65536, .epochApply 2048 0, .reservedClass 0 8, .reservedClass 0 16,
      .reservedClass 65536 12] : List Instr).all fun c => !c.wellFormed) = true := by decide +kernel

theorem test_wellFormed_refuses_time : (([.beaconSend 4 0, .beaconTimeout 16 0, .tableJoinDeadline 16 0 0, .tableJoinDeadline 0 (2 ^ 32) 0, .counterWrap 8512 0] : List Instr).all fun c => !c.wellFormed) = true := by decide +kernel

theorem test_wellFormed_refuses_memory : (([.clrRegionDrop 32, .tapPassStart 32, .bulkRead ⟨0, 0, none⟩ 32 0, .bulkRead ⟨0, 0, none⟩ 0 (2 ^ 37), .bulkWrite ⟨0, 0, none⟩ 0 (2 ^ 37) [0],
      .narrowRead ⟨0, 0, none⟩ 0 0 16, .narrowRead ⟨0, 0, none⟩ 0 16 32, .narrowWrite ⟨0, 0, none⟩ 0 0 [0], .refresh 32 0 0 0, .refresh 0 32 0 0,
      .refresh 0 0 64 0, .stackTempSample 0 256 0 0, .stackTempSample 0 0 16 0, .memLaneStuck 0 0 292, .memLaneStuck 0 32 0] : List Instr).all fun c => !c.wellFormed) = true := by decide +kernel

theorem test_wellFormed_refuses_coherence : (([.readShared 512 0, .readShared 0 (2 ^ 36), .readOwn 512 0 true, .noAllocRead 0 (2 ^ 36), .noAllocRead 1152 0, .writeInv 0 0 0 [0], .fwdShared 512 0 0, .data 0 0 4 (zeroBytes 64),
      .data 0 0 0 [0], .translationWalk 4096 0 0 0 1, .translationWalk 0 16 0 0 1, .translationWalk 0 0 65536 0 1, .translationWalk 0 0 0 0 8,
      .svcTimeout 16 0 0, .svcTimeout 0 1024 0, .faultQueuePoll 17 0, .remoteTimeout 4 0 0, .remoteTimeout 0 65536 0] : List Instr).all fun c => !c.wellFormed) = true := by decide +kernel

theorem test_wellFormed_refuses_ports : (([.inboundRead 2 0 0 0 4, .inboundRead 0 65536 0 0 4, .inboundRead 0 0 1 0 4, .inboundRead 0 0 0 0 4097, .inboundWrite 0 0 2 0 (zeroBytes 513) false,
      .configRequest ⟨2, .header 0, none⟩, .configRequest ⟨0, .header 16, none⟩, .configRequest ⟨0, .other 1024, none⟩, .configRequest ⟨0, .power, some (2 ^ 32)⟩, .pcieLinkUp 2 1 4 false, .pcieLinkUp 0 0 4 false, .pcieLinkUp 0 7 4 false, .pcieLinkUp 0 1 2 false, .pcieCompletion 2 0 0 [],
      .peerVerifyDone 2 0 ⟨0, 0, false⟩ ⟨0, 0, false⟩, .peerVerifyTimeout 0 16 0, .copySpan 64, .checkMessage 4 0 0 0 0, .flit 176 ⟨zeroBytes 256, []⟩, .flit 0 ⟨zeroBytes 255, []⟩, .tilusFrame 0 ⟨0, zeroBytes 799⟩, .coroxForcedWindow 176, .coroxLaneStuck 0 68,
      .guestLinkDown 2, .guestTrainRetry 0 ⟨true, 4, 0⟩ 0, .guestTrainRetry 0 ⟨true, 0, 4⟩ 0, .tilusRetrain 16, .tilusPortTrain 0 256 0, .reservedSlotOpen 0 16 0, .reservedSlotOpen 16 0 0] : List Instr).all fun c => !c.wellFormed) = true := by decide +kernel

theorem test_wellFormed_refuses_system : (([.regulatorAlertRelease 10, .droopDetect 16, .dieTempSample (.hub 4) 0 0, .dieTempSample (.die 16) 0 0, .dieTempSample (.die 0) 256 0, .napEntryDone 16 0,
      .hubTestDone 16 true 0, .trainDone 65536 0 [] [] 0, .trainDone 0 4 [] [] 0, .trainDone 0 0 [(1024, 0)] [] 0, .trainDone 0 0 [(0, 292)] [] 0,
      .trainDone 0 0 [] [(176, 0)] 0, .trainDone 0 0 [] [(0, 68)] 0, .railFault 21 0, .hubFail 4, .dieFail 16, .stackFail 32, .bypass (.die 16),
      .samplePreload (.hub 4) none, .read64 (2 ^ 32), .entdaa 128, .setdasa 128 0, .setdasa 0 128, .nodeCoreAccess 256 .rdtime,
      .nodeCoreAccess 0 (.load 0 3), .nodeCoreAccess 0 (.fetch 0 8), .nodeCoreAccess 0 (.lr 0 2), .nodeCoreAccess 0 (.amo 0 2 .add 0),
      .nodeCoreAccess 0 (.amo 0 4 .cas 0)] : List Instr).all fun c => !c.wellFormed) = true := by decide +kernel

theorem test_ill_formed_faults : exec (.nop 256 0) State.reset = .fault .operandOutOfRange ∧ step State.reset = .next (State.reset.elapse 1) := ⟨rfl, rfl⟩

/-! ## Values of the spec's own examples -/

/-- Chapter 9, the climate ensemble: DI 0, MI 32 GiB on all dies; 0x812_3456_7A40 lies on S11 at 0x18_91A2_B240. -/
theorem test_decodePA_example :
    (State.withFields readyState [(.MEM_PMAP_MI_GIB, 0, 32)]).decodePA 0x81234567A40 = some (11, 0x1891A2B240) := by decide +kernel

/-- Table 12-11: the check values of both CRCs over "123456789". -/
theorem test_crc_check_values :
    crc32c ((List.range 9).map fun i => BitVec.ofNat 8 (0x31 + i)) = 0xE3069283 ∧
      crc64 ((List.range 9).map fun i => BitVec.ofNat 8 (0x31 + i)) = 0x6C40DF5F0B497347 := by decide +kernel

/-- Table 6-10: the codes of 5.0, 7.0, 0.9, -0.3, 2.2, -13.0, 1.0 and 0.0 under scale 0x80. -/
theorem test_rack_example :
    rackBlock ([0x40A00000, 0x40E00000, 0x3F666666, 0xBE99999A, 0x400CCCCD, 0xC1500000, 0x3F800000, 0].map fun x => rackProd fB32 0x3F800000 x) =
      (0x80, [4, 6, 1, 8, 2, 15, 1, 0]) := by decide +kernel

/-- Chapter 1, row C5 of the distance table: 246 ns to C3, 268 ns to C15, and 214 ns and 1 hop to H0. -/
theorem test_distance_example :
    (let s := State.withFields readyState ((List.range 176).map fun e => (.CRX_STATUS_STATE, e, 2))
     (bitsOf (s.distDies 5 3) 8 12, bitsOf (s.distDies 5 15) 8 12, bitsOf (s.distHub 5 0) 8 12, s.distHub 5 0 % 256)) =
      (246, 268, 214, 1) := by decide +kernel

/-- R16, R17: module 2 of C5 meets module 6 of C6, and the hub module of C5 meets its home hub H0. -/
theorem test_corox_peer : crxPeer (dieEnd 5 2) = some (dieEnd 6 6) ∧ homeHub 5 = 0 := by decide +kernel

/-- R182: 1.0 is 0x7F in E8M0, zero 0x00, and an infinity 0xFF; E8M0 0x81 is 4.0. -/
theorem test_cvt_e8m0 :
    (cvtLane (12 + 16) 0 (word 0 0 0 0) 0x3F800000 0, cvtLane (12 + 16) 0 (word 0 0 0 0) 0 0, cvtLane (12 + 16) 0 (word 0 0 0 0) 0x7F800000 0,
      cvtLane (1 + 12 * 16) 0 (word 0 0 0 0) 0x81 0) = (0x7F, 0, 0xFF, 0x40800000) := by decide +kernel

/-- R178: vector integer arithmetic wraps. -/
theorem test_vint_wraps : vintVal .add 0 0xFFFFFFFF 2 0 = 1 ∧ vintVal .mul 2 (2 ^ 63) 2 0 = 0 := by decide +kernel

/-- R178: a fused multiply-add rounds once: (1 + 2^-12)^2 - 1 - 2^-11 is 2^-24. -/
theorem test_fma_rounds_once : vfloatLane 3 0 false .fma 0x3F800800 0x3F800800 0xBF801000 = 0x33800000 := by decide +kernel

/-! ## Single steps -/

/-- NOP completes with DONE (R108). -/
theorem test_step_nop :
    (match step { withCmd readyState (packet 0 0 []) with pending := [.nop 0 0] } with
     | .next t => (t.entry? 0 0).map fun e => e.res.map fun x => x.status
     | _ => none) = some (some stDONE) := by decide +kernel

/-- An opcode that Table 3-2 lacks ends with PARAM (R90). -/
theorem test_step_reserved_opcode :
    (match exec (.reservedOpcode 0 0) (withCmd readyState (packet 0x0F 0 [])) with
     | .next t => (t.entry? 0 0).map fun e => e.res.map fun x => x.status
     | _ => none) = some (some stPARAM) := by decide +kernel

/-- A reserved byte of WAIT_TIME's body that is not zero ends it with PARAM (R9). -/
theorem test_step_wait_time_reserved :
    (match exec (.waitTime 0 0) (withCmd readyState (packet 0x04 1 [(8, 1, 1)])) with
     | .next t => (t.entry? 0 0).map fun e => e.res.map fun x => x.status
     | _ => none) = some (some stPARAM) := by decide +kernel

/-- WAIT_TIME of a time already past completes at once (R106). -/
theorem test_step_wait_time_past :
    (match exec (.waitTime 0 0) (withCmd readyState (packet 0x04 1 [])) with
     | .next t => (t.entry? 0 0).map fun e => e.res.map fun x => x.status
     | _ => none) = some (some stDONE) := by decide +kernel

/-- An integer add writes the lanes that execute and no other (R113). -/
theorem test_step_vector_add :
    (match exec (.vectorInteger 0 .add (word 2 0 1 0))
        (coded ((groupState 1).setGroup 0 ((((groupState 1).group 0).vput 0 0 7).vput 1 0 0xFFFFFFFF)) 1 0 (word 2 0 1 0)) with
     | .next t => ((t.group 0).vget 2 0, (t.group 0).vget 2 1)
     | _ => (0, 0)) = (6, 0) := by decide +kernel

/-- A node core's store reaches its own load; an absent die's address faults (R25). -/
theorem test_step_node_core :
    (match exec (.nodeCoreAccess 255 (.store (31 * 2 ^ 37) 4 0x12345678)) (readyState.setCore 255 { running := true }) with
     | .next t => match exec (.nodeCoreAccess 255 (.load (31 * 2 ^ 37) 2)) t with
       | .next u => ((u.core 255).trap, (u.core 255).value)
       | _ => (9, 9)
     | _ => (9, 9)) = (0, 0x5678) := by decide +kernel

/-- MRESET_N low for 1 us restarts at COOL with CAUSE 1; for less it does nothing (R414). -/
theorem test_step_mreset :
    (match exec (.mresetNAssert 1000) readyState with
     | .next t => (t.f .RST_STATUS_PHASE, t.f .RST_STATUS_CAUSE)
     | _ => (9, 9)) = (1, 1) ∧
    (match exec (.mresetNAssert 999) readyState with
     | .next t => t.f .RST_STATUS_PHASE
     | _ => 9) = 5 := by decide +kernel

/-- The IDCODE of a compute die of stepping 0 (R478). -/
theorem test_step_idcode :
    (match exec (.idcode (.die 15)) readyState with
     | .next t => t.mgmt.shifted.fget 19 0
     | _ => 0) = readyState.fuse.dieStep.getD 15 0 % 16 * 2 ^ 28 + 0x9C16B47 := by decide +kernel

/-- A 32-bit host write acts on its half of a register and reads back (R5). -/
theorem test_step_register_write :
    (match exec (.registerWrite .host (hubAt 0 (0x4000 + 64 * 255 + 4)) 4 1) readyState with
     | .next t => t.readCtl .host (hubAt 0 (0x4000 + 64 * 255)) 8 / 2 ^ 32
     | _ => 0) = readyState.readCtl .host (hubAt 0 (0x4000 + 64 * 255)) 8 / 2 ^ 32 ||| 1 := by decide +kernel

end Sys2Proof.Tests
end

-- Proofs of the statements about writes of registers.
section
/-!
SUPPORT. Writes of control space (R5, R27, R310): which register a write acts on, which bits it carries, and the rows that write one register.
-/

namespace Sys2Proof.Machine

open Sys2Proof

/-! ## The write of an offset -/

/-- A state that is its own effect keeps its queue and fuses: nothing changes. -/
@[simp] theorem becomes_self (s : State) : s.becomes s = .next s := rfl

/-- R5: a write in phase READY to a present block, of one aligned word or half, acts on the register there with the bits it carries. -/
theorem writeCtl_eq_regWrite {s : State} {who : Who} {off size : Nat} (val : Nat) {x : At} (hready : s.f .RST_STATUS_PHASE = 5)
    (hhere : s.blockHere (blockOf off) = true) (hsize : (size = 8 ∧ off % 8 = 0) ∨ (size = 4 ∧ off % 4 = 0))
    (hreg : regAt (off / 8 * 8) = some x) (hmay : s.mayWrite who x = true) :
    s.writeCtl who off size val =
      s.regWrite who ⟨val % 2 ^ (8 * size) * 2 ^ (8 * (off % 8)), (2 ^ (8 * size) - 1) * 2 ^ (8 * (off % 8))⟩ x := by
  have haligned : (size == 8 && off % 8 == 0 || size == 4 && off % 4 == 0) = true := by simpa using hsize
  simp only [State.writeCtl, hready, hhere, haligned, hreg, hmay, ne_eq, not_true_eq_false, decide_false, Bool.not_true,
    Bool.or_self, Bool.false_eq_true, if_false, if_true]

/-- R5: a write of another size, or not aligned to its size, changes nothing. -/
theorem writeCtl_of_misaligned {s : State} {who : Who} {off size : Nat} (val : Nat)
    (hsize : ¬ ((size = 8 ∧ off % 8 = 0) ∨ (size = 4 ∧ off % 4 = 0))) : s.writeCtl who off size val = s := by
  have haligned : (size == 8 && off % 8 == 0 || size == 4 && off % 4 == 0) = false := by simpa using hsize
  simp only [State.writeCtl, haligned, Bool.not_false, Bool.or_true, if_true]

/-! ## A requester that reaches a register -/

theorem ok_of_mayReach {s : State} {who : Who} {off ix : Nat} {g : Reg} (h : s.mayReach who off g ix = true) : who.ok = true := by
  simp only [State.mayReach, Bool.and_eq_true] at h
  exact h.1.1.1.1.1.1

/-- With its operand in range, a row by this requester is well formed. -/
theorem ok_and_of_mayReach {s : State} {who : Who} {off ix : Nat} {g : Reg} {p : Prop} [Decidable p] (h : s.mayReach who off g ix = true)
    (hp : p) : (who.ok && decide p) = true := by
  rw [ok_of_mayReach h, decide_eq_true hp, Bool.and_self]

/-- Its aligned 8-byte write acts on that register, with all 64 bits of the value. -/
theorem writeCtl_of_mayReach {s : State} {who : Who} {off ix : Nat} {g : Reg} (v : Word) (h : s.mayReach who off g ix = true) :
    s.writeCtl who off 8 v.toNat = s.regWrite who (Wr.all v) ⟨g, ix, blockOf off⟩ := by
  simp only [State.mayReach, Bool.and_eq_true, beq_iff_eq, decide_eq_true_eq] at h
  obtain ⟨⟨⟨⟨⟨⟨-, hready⟩, hhere⟩, -⟩, haligned⟩, hreg⟩, hmay⟩ := h
  have hword : regAt (off / 8 * 8) = some ⟨g, ix, blockOf off⟩ := by rw [Nat.div_mul_cancel (Nat.dvd_of_mod_eq_zero haligned), hreg]
  have hall : (⟨v.toNat % 2 ^ (8 * 8) * 2 ^ (8 * (off % 8)), (2 ^ (8 * 8) - 1) * 2 ^ (8 * (off % 8))⟩ : Wr) = Wr.all v := by
    simp [Wr.all, haligned, Nat.mod_eq_of_lt v.isLt]
  rw [writeCtl_eq_regWrite v.toNat hready hhere (.inl ⟨rfl, haligned⟩) hword hmay, hall]

/-- A row that is the 8-byte write of one register makes the state `k` that the register's own operation makes. -/
theorem exec_eq_becomes_of_mayReach {c : Instr} {s k : State} {who : Who} {off ix : Nat} {g : Reg} {v : Word}
    (h : s.mayReach who off g ix = true) (hwf : c.wellFormed = true)
    (hrow : exec c s = runIf c.wellFormed s (s.writeCtl who off 8 v.toNat))
    (hop : s.regWrite who (Wr.all v) ⟨g, ix, blockOf off⟩ = k) : exec c s = s.becomes k := by
  rw [hrow, runIf_of hwf, writeCtl_of_mayReach v h, hop]

/-- CRX_CTRL of end `e`: on its die below 144, on its hub from there. -/
theorem writeCrx_eq_writeCtl (s : State) (who : Who) (e : Nat) (v : Word) :
    s.writeCrx who e v = s.writeCtl who
      (if e < 144 then dieAt (e / 9) (0xC000 + 0x40 * (e % 9)) else hubAt ((e - 144) / 8) (0xC000 + 0x40 * (e % 8))) 8 v.toNat := by
  unfold State.writeCrx
  split <;> rfl

/-! ## Operations of registers that look at the carried bits -/

/-- A write that carries every bit replaces the old value. -/
theorem merge_all_mod (old : Nat) (v : Word) :
    (andNot old (Wr.all v).mask + ((Wr.all v).val &&& (Wr.all v).mask)) % 2 ^ 64 = v.toNat := by
  have hold : andNot old (2 ^ 64 - 1) % 2 ^ 64 = 0 := by
    rw [andNot, Nat.and_two_pow_sub_one_eq_mod, Nat.xor_mod_two_pow, Nat.mod_mod, Nat.xor_self]
  have hval : (v.toNat &&& (2 ^ 64 - 1)) % 2 ^ 64 = v.toNat := by
    rw [Nat.and_two_pow_sub_one_eq_mod, Nat.mod_mod, Nat.mod_eq_of_lt v.isLt]
  rw [Wr.all, Nat.add_mod, hold, hval, Nat.zero_add, Nat.mod_eq_of_lt v.isLt]

theorem regWrite_timeDealerSet_all (s : State) (who : Who) (v : Word) (ix b : Nat) :
    s.regWrite who (Wr.all v) ⟨.TIME_DEALER_SET, ix, b⟩ = (s.setF .TIME_DEALER_SET_TIME 0 v.toNat).dealerSet v.toNat := by
  simp only [State.regWrite, merge_all_mod]

theorem regWrite_svcCons_all (s : State) (who : Who) (v : Word) (n b : Nat) :
    s.regWrite who (Wr.all v) ⟨.XL_SVC_CONS, n, b⟩ = s.svcCons n ((Wr.all v).fld .XL_SVC_CONS_CONS) := by
  have hcarried : (Wr.all v).bits .XL_SVC_CONS_CONS ≠ 0 := by simp only [Wr.bits, Wr.all]; decide
  simp only [State.regWrite, hcarried, if_false]

theorem regWrite_pwrIdle_all (s : State) (who : Who) (v : Word) (p b : Nat) :
    s.regWrite who (Wr.all v) ⟨.PWR_IDLE, p, b⟩ =
      (s.putF (Wr.all v) p .PWR_IDLE_CFG_ERR).napWrite p ((Wr.all v).fld .PWR_IDLE_LEVEL) := by
  have hcarried : (Wr.all v).bits .PWR_IDLE_LEVEL ≠ 0 := by simp only [Wr.bits, Wr.all]; decide
  simp only [State.regWrite, hcarried, if_false]

theorem regWrite_chkCtrl_clear (s : State) (who : Who) {w : Wr} (u b : Nat) (hclear : w.sets .CHK_CTRL_CLEAR = true) :
    s.regWrite who w ⟨.CHK_CTRL, u, b⟩ = s.resetRegs [.CHK_MSGS, .CHK_SEQ] [u] := if_pos hclear

/-! ## The statements -/

/-- Settles O10: an aligned write is the register's own write with the carried bits, and every other write is no write. -/
theorem registerWriteActs : Obligations.RegisterWriteActs := by
  have hrow : ∀ (who : Who) (off size : Nat) (v : Word) (s : State), who.ok = true → off < 2 ^ 28 →
      exec (.registerWrite who off size v) s = s.becomes (s.writeCtl who off size v.toNat) := by
    intro who off size v s hwho hoff
    have hwf : (who.ok && decide (off < 2 ^ 28)) = true := by rw [hwho, decide_eq_true hoff, Bool.and_self]
    exact run_of (c := .registerWrite who off size v) hwf s _
  refine ⟨?_, ?_⟩
  · intro who off size v s x hwho hoff hready hhere hsize hreg hmay
    rw [hrow who off size v s hwho hoff, writeCtl_eq_regWrite v.toNat hready hhere hsize hreg hmay]
  · intro who off size v s hwho hoff hsize
    rw [hrow who off size v s hwho hoff, writeCtl_of_misaligned v.toNat hsize, becomes_self]

/-- Settles O11: each row is the 8-byte write of its register, whose operation `regWrite` names. -/
theorem registerRows : Obligations.RegisterRows := by
  refine ⟨?ring, ?timeCtrl, ?timeDealerSet, ?clr, ?memPmap, ?mem, ?faultQueue, ?svcQueue, ?svcReply, ?svcCons, ?peer, ?chk, ?corox,
    ?tlsNode, ?tilusPort, ?nap⟩
  case ring =>
    intro who r v s hr h
    have hwf := ok_and_of_mayReach h hr
    exact ⟨exec_eq_becomes_of_mayReach h hwf rfl rfl, exec_eq_becomes_of_mayReach h hwf rfl rfl,
      exec_eq_becomes_of_mayReach h hwf rfl rfl, exec_eq_becomes_of_mayReach h hwf rfl rfl⟩
  case timeCtrl =>
    intro who v s h
    exact ⟨exec_eq_becomes_of_mayReach h (ok_of_mayReach h) rfl rfl, exec_eq_becomes_of_mayReach h (ok_of_mayReach h) rfl rfl⟩
  case timeDealerSet =>
    intro who v s h
    exact exec_eq_becomes_of_mayReach h (ok_of_mayReach h) rfl (regWrite_timeDealerSet_all ..)
  case clr =>
    intro who k v s hk h
    have hwf := ok_and_of_mayReach h hk
    exact ⟨exec_eq_becomes_of_mayReach h hwf rfl rfl, exec_eq_becomes_of_mayReach h hwf rfl rfl⟩
  case memPmap =>
    intro who p v s hp h
    have hwf := ok_and_of_mayReach h hp
    exact exec_eq_becomes_of_mayReach h hwf rfl rfl
  case mem =>
    intro who k v s hk h
    have hwf := ok_and_of_mayReach h hk
    exact ⟨exec_eq_becomes_of_mayReach h hwf rfl rfl, exec_eq_becomes_of_mayReach h hwf rfl rfl⟩
  case faultQueue =>
    intro who q v s hq h
    have hwf := ok_and_of_mayReach h hq
    exact exec_eq_becomes_of_mayReach h hwf rfl rfl
  case svcQueue =>
    intro who n v s hn h
    have hwf := ok_and_of_mayReach h hn
    exact exec_eq_becomes_of_mayReach h hwf rfl rfl
  case svcReply =>
    intro who n v s hn h
    have hwf := ok_and_of_mayReach h hn
    exact ⟨exec_eq_becomes_of_mayReach h hwf rfl rfl, exec_eq_becomes_of_mayReach h hwf rfl rfl⟩
  case svcCons =>
    intro who n v s hn h
    have hwf := ok_and_of_mayReach h hn
    exact exec_eq_becomes_of_mayReach h hwf rfl (regWrite_svcCons_all ..)
  case peer =>
    intro who k i v s hk hi h
    have hwf : (who.ok && decide (k < 2) && decide (i < 16)) = true := by rw [ok_and_of_mayReach h hk, decide_eq_true hi, Bool.and_self]
    exact ⟨exec_eq_becomes_of_mayReach h hwf rfl rfl, exec_eq_becomes_of_mayReach h hwf rfl rfl⟩
  case chk =>
    intro who hub u v s hhub hu h hclear
    have hwf : (who.ok && decide (hub < 4) && decide (u < 8)) = true := by rw [ok_and_of_mayReach h hhub, decide_eq_true hu, Bool.and_self]
    exact exec_eq_becomes_of_mayReach h hwf rfl (regWrite_chkCtrl_clear s who _ _ hclear)
  case corox =>
    intro who e v s he h
    have hwf := ok_and_of_mayReach h he
    have hrow := congrArg (runIf (who.ok && decide (e < 176)) s) (writeCrx_eq_writeCtl s who e v)
    exact ⟨exec_eq_becomes_of_mayReach h hwf hrow rfl, exec_eq_becomes_of_mayReach h hwf hrow rfl,
      exec_eq_becomes_of_mayReach h hwf hrow rfl⟩
  case tlsNode =>
    intro who v s h
    exact exec_eq_becomes_of_mayReach h (ok_of_mayReach h) rfl rfl
  case tilusPort =>
    intro who p v s hp h
    have hwf := ok_and_of_mayReach h hp
    exact ⟨exec_eq_becomes_of_mayReach h hwf rfl rfl, exec_eq_becomes_of_mayReach h hwf rfl rfl⟩
  case nap =>
    intro who p v s hp h
    have hwf := ok_and_of_mayReach h hp
    exact ⟨exec_eq_becomes_of_mayReach h hwf rfl (regWrite_pwrIdle_all ..), exec_eq_becomes_of_mayReach h hwf rfl (regWrite_pwrIdle_all ..)⟩

end Sys2Proof.Machine
end

-- Proofs of the statements about node cores.
section
/-!
SUPPORT. Rows whose effect is known, and the accesses of node cores (R25, R43, R195, R262, R265).
-/

namespace Sys2Proof.Machine

open Sys2Proof

/-! ## A row and its effect -/

/-- A row whose effect is `j` takes the next state `j`, however `j` is written. -/
theorem exec_eq_becomes {c : Instr} {s j k : State} (hwf : c.wellFormed = true) (hrow : exec c s = runIf c.wellFormed s j) (heff : j = k) :
    exec c s = s.becomes k := by
  rw [hrow, runIf_of hwf, heff]

/-- The same of a row that reads stacks. -/
theorem exec_eq_becomesR {c : Instr} {s j k : State} (hwf : c.wellFormed = true) (hrow : exec c s = runIf c.wellFormed s j.settleRetire)
    (heff : j = k) : exec c s = s.becomesR k :=
  exec_eq_becomes hwf hrow (congrArg State.settleRetire heff)

/-! ## What a running node core does -/

theorem exec_nodeCoreAccess {s : State} {c p : Nat} {op : CoreOp} (hc : c < 256) (hp : s.dieOwner (coreDie c) = some p)
    (hrun : s.coreRuns c p = true) (hop : op.ok = true) : exec (.nodeCoreAccess c op) s = s.becomesR (s.coreAct c p op) := by
  have hwf : (decide (c < 256) && op.ok) = true := by rw [decide_eq_true hc, hop, Bool.and_self]
  exact exec_eq_becomesR hwf rfl (by simp only [effNodeCoreAccess, hp, hrun, if_true])

section
variable (s : State) (c p : Nat) {a : Nat} (n : Nat) (v : Word)

theorem coreAct_load (h : a < controlBase) : s.coreAct c p (.load a n) = s.coreLoad c p 1 a n := if_neg (Nat.not_le.mpr h)
theorem coreAct_fetch (h : a < controlBase) : s.coreAct c p (.fetch a n) = s.coreLoad c p 8 a n := if_neg (Nat.not_le.mpr h)
theorem coreAct_store (h : a < controlBase) : s.coreAct c p (.store a n v) = s.coreStore c p a n v.toNat := if_neg (Nat.not_le.mpr h)
theorem coreAct_amo (o : AtomOp) (h : a < controlBase) : s.coreAct c p (.amo a n o v) = s.coreAmo c p a n o v.toNat :=
  if_neg (Nat.not_le.mpr h)
theorem coreAct_lr (h : a < controlBase) : s.coreAct c p (.lr a n) = s.coreLr c p a n := if_neg (Nat.not_le.mpr h)
theorem coreAct_sc (h : a < controlBase) : s.coreAct c p (.sc a n v) = s.coreSc c p a n v.toNat := if_neg (Nat.not_le.mpr h)
theorem coreAct_control {op : CoreOp} (h : controlBase ≤ coreAddr op) : s.coreAct c p op = s.coreCtl c p op := if_pos h

end

/-! ## Accesses that complete -/

section
variable {s t : State} {c p a n : Nat} {b : Bytes}

theorem coreLoad_of_read {access : Nat} (h : s.coreRead c p access (pieces a n) = (some b, t)) :
    s.coreLoad c p access a n = t.coreDone c (leNat b) := by
  simp only [State.coreLoad, h]

theorem coreStore_of_read {v : Nat} (h : s.coreRead c p 2 (pieces a n) = (some b, t)) :
    s.coreStore c p a n v = (t.corePut c (leBytes n v) a).coreDone c 0 := by
  simp only [State.coreStore, h]

theorem coreAmo_of_read {op : AtomOp} {v : Nat} (ha : a % n = 0) (h : s.coreRead c p 4 (pieces a n) = (some b, t)) :
    s.coreAmo c p a n op v = (t.corePut c (leBytes n (atomApply op (8 * n) (leNat b) v 0).1) a).coreDone c (leNat b) := by
  simp only [State.coreAmo, ha, ne_eq, not_true_eq_false, if_false, h]

theorem coreLr_of_gran {k off : Nat} (ha : a % n = 0) (hat : s.coreAt p a false = some (k, off))
    (h : s.coreGran c 4 (granKey k off) = (some b, t)) :
    s.coreLr c p a n =
      (t.setCore c { t.core c with resv := some (granKey k off) }).coreDone c (leNat (sliceB b (off % 64) n)) := by
  simp only [State.coreLr, ha, ne_eq, not_true_eq_false, if_false, hat, h]

/-- SC acts on the state `w` in which the messages about its granule have arrived, and drops its reservation first. -/
theorem coreSc_of_read {w : State} {v : Nat} (ha : a % n = 0) (hat : (s.coreAt p a true).isSome = true)
    (hw : ((s.granOf a).map s.settle).getD s = w)
    (h : (w.setCore c { w.core c with resv := none }).coreRead c p 4 (pieces a n) = (some b, t)) :
    s.coreSc c p a n v = if (w.core c).resv.isSome && (w.core c).resv == w.granOf a then (t.corePut c (leBytes n v) a).coreDone c 0
      else t.coreDone c 1 := by
  have hgo : (decide (a % n ≠ 0) || (s.coreAt p a true).isNone) = false := by
    rw [Option.isNone_eq_false_iff.mpr hat, ha]; rfl
  simp only [State.coreSc, hgo, Bool.false_eq_true, if_false, hw, h]

end

/-! ## Accesses that fault -/

/-- The first piece of a range that is not empty lies at its address. -/
theorem pieces_eq_cons (a : Nat) {n : Nat} (hn : 0 < n) : ∃ m t, pieces a n = (0, a, m) :: t := by
  have hlo : max a ((a / 64 + 0) * 64) = a := by omega
  rw [pieces, if_neg (by omega), List.range_succ_eq_map, List.map_cons]
  simp only [hlo, Nat.sub_self]
  exact ⟨_, _, rfl⟩

section
variable {s : State} {c p a n : Nat}

theorem coreRead_of_outside {access : Nat} (hn : 0 < n) (hat : s.coreAt p a (access == 2 || access == 4) = none) :
    s.coreRead c p access (pieces a n) = (none, s.coreTrap c access a) := by
  obtain ⟨m, t, hcons⟩ := pieces_eq_cons a hn
  simp only [hcons, State.coreRead, hat]

theorem coreLoad_of_outside {access : Nat} (hn : 0 < n) (hat : s.coreAt p a (access == 2 || access == 4) = none) :
    s.coreLoad c p access a n = s.coreTrap c access a := by
  simp only [State.coreLoad, coreRead_of_outside hn hat]

theorem coreStore_of_outside {v : Nat} (hn : 0 < n) (hat : s.coreAt p a true = none) : s.coreStore c p a n v = s.coreTrap c 2 a := by
  simp only [State.coreStore, coreRead_of_outside (access := 2) hn hat]

/-- A misaligned AMO faults as one outside the partition's memory does (notes/assumptions/31). -/
theorem coreAmo_of_fault {op : AtomOp} {v : Nat} (hn : 0 < n) (hat : a % n ≠ 0 ∨ s.coreAt p a true = none) :
    s.coreAmo c p a n op v = s.coreTrap c 4 a := by
  by_cases ha : a % n = 0
  · simp only [State.coreAmo, ha, ne_eq, not_true_eq_false, if_false, coreRead_of_outside (access := 4) hn (hat.resolve_left (absurd ha))]
  · exact if_pos ha

theorem coreLr_of_fault (hat : a % n ≠ 0 ∨ s.coreAt p a false = none) : s.coreLr c p a n = s.coreTrap c 1 a := by
  by_cases ha : a % n = 0
  · simp only [State.coreLr, ha, ne_eq, not_true_eq_false, if_false, hat.resolve_left (absurd ha)]
  · exact if_pos ha

theorem coreSc_of_fault {v : Nat} (hat : a % n ≠ 0 ∨ s.coreAt p a true = none) : s.coreSc c p a n v = s.coreTrap c 4 a :=
  if_pos (by simpa using hat)

end

/-- What an access fault writes is the core's own: its exception and the address. -/
theorem coreTrap_frame (s : State) (c access a : Nat) :
    let u := s.coreTrap c access a
    (u.core c).trap = trapOf access ∧ (u.core c).trapAddr = a ∧ (u.core c).value = (s.core c).value ∧ (u.core c).resv = (s.core c).resv ∧
      (∀ j, j ≠ c → u.core j = s.core j) ∧ u.mem = s.mem ∧ u.hostMem = s.hostMem ∧ u.regs = s.regs ∧ u.caches = s.caches ∧
      u.rings = s.rings ∧ u.free = s.free := by
  have hcore : (s.coreTrap c access a).core c = { s.core c with trap := trapOf access, trapAddr := a } := State.setCore_core ..
  simp only [hcore, true_and]
  exact ⟨fun j hj => State.setCore_core_ne s _ hj, rfl, rfl, rfl, rfl, rfl, rfl⟩

/-! ## The statements about node cores -/

/-- Settles O46: each access runs through `coreAct` to its own operation, whose read is given. -/
theorem nodeCoreAccessesRun : Obligations.NodeCoreAccessesRun := by
  intro c p s hc hp hrun
  have hrow : ∀ {op : CoreOp} {k : State}, op.ok = true → s.coreAct c p op = k → exec (.nodeCoreAccess c op) s = s.becomesR k :=
    fun hop hact => hact ▸ exec_nodeCoreAccess hc hp hrun hop
  refine ⟨?load, ?fetch, ?store, ?amo, ?lr, ?sc, ?fenceI, ?rdtime, ?mhartid, ?control⟩
  case load =>
    intro a n b t hn ha hread
    exact hrow (by simpa [CoreOp.ok, or_assoc] using hn) ((coreAct_load s c p n ha).trans (coreLoad_of_read hread))
  case fetch =>
    intro a n b t hn ha hread
    exact hrow (by simpa [CoreOp.ok] using hn) ((coreAct_fetch s c p n ha).trans (coreLoad_of_read hread))
  case store =>
    intro a n v b t hn ha hread
    exact hrow (by simpa [CoreOp.ok, or_assoc] using hn) ((coreAct_store s c p n v ha).trans (coreStore_of_read hread))
  case amo =>
    intro a n o v b t hn hcas hfadd hreserved ha hal hread
    exact hrow (by simpa [CoreOp.ok, hcas, hfadd, hreserved] using hn)
      ((coreAct_amo s c p n v o ha).trans (coreAmo_of_read hal hread))
  case lr =>
    intro a n k off b t hn ha hal hat hgran
    exact hrow (by simpa [CoreOp.ok] using hn) ((coreAct_lr s c p n ha).trans (coreLr_of_gran hal hat hgran))
  case sc =>
    intro a n v hn ha hal hat w holds u b t hread
    exact hrow (by simpa [CoreOp.ok] using hn) ((coreAct_sc s c p n v ha).trans (coreSc_of_read hal hat rfl hread))
  case fenceI => exact hrow rfl rfl
  case rdtime => exact hrow rfl rfl
  case mhartid => exact hrow rfl rfl
  case control =>
    intro a n v hn ha
    have hok : (n == 1 || n == 2 || n == 4 || n == 8) = true := by simpa [or_assoc] using hn
    exact ⟨hrow hok (coreAct_control s c p ha), hrow hok (coreAct_control s c p ha)⟩

/-- Settles O55: every such access is `coreTrap` on the state as it was, which writes nothing but the core's own exception. -/
theorem nodeCoreStaysInside : Obligations.NodeCoreStaysInside := by
  intro c p s a n v o op trap hc hp hrun ha hcase
  have hfault : ∃ access, op.ok = true ∧ s.coreAct c p op = s.coreTrap c access a ∧ trapOf access = trap := by
    rcases hcase with ⟨rfl, hn, hat, rfl⟩ | ⟨rfl, hn, hat, rfl⟩ | ⟨rfl, hn, hat, rfl⟩ | ⟨rfl, hn, hcas, hfadd, hreserved, hat, rfl⟩ |
      ⟨rfl, hn, hat, rfl⟩ | ⟨rfl, hn, hat, rfl⟩
    · exact ⟨1, by simpa [CoreOp.ok, or_assoc] using hn, (coreAct_load s c p n ha).trans (coreLoad_of_outside (by omega) hat), rfl⟩
    · exact ⟨8, by simpa [CoreOp.ok] using hn, (coreAct_fetch s c p n ha).trans (coreLoad_of_outside (by omega) hat), rfl⟩
    · exact ⟨2, by simpa [CoreOp.ok, or_assoc] using hn, (coreAct_store s c p n v ha).trans (coreStore_of_outside (by omega) hat), rfl⟩
    · exact ⟨4, by simpa [CoreOp.ok, hcas, hfadd, hreserved] using hn,
        (coreAct_amo s c p n v o ha).trans (coreAmo_of_fault (by omega) hat), rfl⟩
    · exact ⟨1, by simpa [CoreOp.ok] using hn, (coreAct_lr s c p n ha).trans (coreLr_of_fault hat), rfl⟩
    · exact ⟨4, by simpa [CoreOp.ok] using hn, (coreAct_sc s c p n v ha).trans (coreSc_of_fault hat), rfl⟩
  obtain ⟨access, hok, hact, rfl⟩ := hfault
  exact ⟨s.coreTrap c access a, hact ▸ exec_nodeCoreAccess hc hp hrun hok, coreTrap_frame s c access a⟩

end Sys2Proof.Machine
end

-- Proofs of the statements about system commands.
section
/-!
SUPPORT. System commands (R32 to R34, R90, R377, R392, R416 to R421): what each does once its checks have passed.
-/

namespace Sys2Proof.Machine

open Sys2Proof

/-! ## A command that starts -/

/-- A row that is the start of one command answers what the body of the command does. -/
theorem exec_eq_becomes_of_begun {c : Instr} {s t k : State} {r pos op : Nat} {e : Entry} {body : State → Entry → State}
    (h : s.begun r pos op = some (t, e)) (hwf : c.wellFormed = okPos r pos)
    (hrow : exec c s = runIf c.wellFormed s (s.startCmd r pos op body)) (hbody : body t e = k) : exec c s = s.becomes k :=
  exec_eq_becomes (hwf.trans (okPos_of_begun h)) hrow ((startCmd_of_begun body h).trans hbody)

/-! ## PARTITION_SET (R32 to R34) -/

/-- With its checks passed and no forced window running, a later take sets the partition. -/
theorem partSetWork_of_clear {s : State} {r pos : Nat} {e : Entry} (hhubs : bitList (e.body 0 2) 16 = [] ∨
      (s.hubWorks (e.body 3 1 % 4) = true ∧ s.hubWorks (e.body 3 1 / 4 % 4) = true))
    (hforced : ((List.range 176).any fun x => s.f .CRX_STATUS_STATE x == 3) = false)
    (hwindow : s.windowOn (s.partDies (e.body 2 1) ++ bitList (e.body 0 2) 16) = false) :
    s.partSetWork r pos e = (s.setPartition (e.body 2 1) (e.body 3 1 % 4) (e.body 3 1 / 4 % 4) (bitList (e.body 0 2) 16)
      (bitOf (e.body 4 1) 0)).doneWith r pos := by
  have hgo : (bitList (e.body 0 2) 16 != [] && (!s.hubWorks (e.body 3 1 % 4) || !s.hubWorks (e.body 3 1 / 4 % 4))) = false := by
    rcases hhubs with hnone | ⟨ha, hb⟩
    · rw [hnone]; rfl
    · rw [ha, hb, Bool.not_true, Bool.or_self, Bool.and_false]
  simp only [State.partSetWork, hgo, hforced, hwindow, Bool.or_self, Bool.false_eq_true, if_false]

/-! ## DOMAIN_RESET (R416 to R421) -/

section
variable {s : State} {r pos : Nat} {e : Entry} (he : s.entry? r pos = some e) (hop : e.op = 0x84) (hhub : s.hubWorks (s.ringHub r) = true)
  (hres : e.res.isSome = false) (hstall : e.stall.isSome = false)
include hop hhub hres hstall

/-- Its hub works, it has not ended, and it is accepted or waits: nothing keeps a DOMAIN_RESET from acting. -/
theorem domainReset_goes (hst : e.st = .accepted ∨ e.waitsOn = true) :
    (decide (e.op ≠ 0x84) || !s.hubWorks (s.ringHub r) || e.res.isSome || e.stall.isSome || !(e.st == .accepted || e.waitsOn)) = false := by
  have hgo : (e.st == .accepted || e.waitsOn) = true := by simpa using hst
  simp [hop, hhub, hres, hstall, hgo]

include he

/-- A DOMAIN_RESET whose checks have passed does what its kind says. -/
theorem effDomainReset_of_checked {u : State} {x : Entry} (hst : e.st = .accepted ∨ e.waitsOn = true)
    (hfirst : ¬(e.waitsOn = true ∧ e.body 0 1 = 0)) (hhead : (s.markRunning r pos).headCheck r e = none)
    (hflag : (s.markRunning r pos).flagTaken r pos e = some (u, x)) (hcheck : u.resetCheck r x = none) :
    (x.body 0 1 = 0 → effDomainReset r pos s =
      (u.partResetStart (x.body 1 1) r pos).modEntry r pos fun e => { e with phase := 9 }) ∧
    (x.body 0 1 = 1 → u.windowOn (u.partDies (x.body 1 1)) = false → effDomainReset r pos s =
      ((u.giveUpAll ((u.partDies (x.body 1 1)).flatMap fun n => (List.range 16).map fun c => 32 * n + 4 + c).contains).holdCores
        (x.body 1 1)).doneWith r pos) ∧
    (x.body 0 1 = 2 → (u.rst.hubReset.any fun (y : Nat × (Nat × Nat)) => y.1 == x.body 1 1) = false → effDomainReset r pos s =
      let w := (u.hubDown (x.body 1 1) 0).resetHub (x.body 1 1)
      { w with rst := { w.rst with hubReset := w.rst.hubReset ++ [(x.body 1 1, (r, pos))] } }) := by
  have hnow : (e.waitsOn && decide (e.body 0 1 = 0)) = false := by simpa using hfirst
  simp only [effDomainReset, he, domainReset_goes hop hhub hres hstall hst, hnow, hhead, withFlag_of_flagTaken _ hflag, hcheck,
    Bool.false_eq_true, if_false]
  refine ⟨fun hkind => ?_, fun hkind hwindow => ?_, fun hkind hreset => ?_⟩
  · simp only [hkind]
  · simp only [hkind, hwindow, Bool.false_eq_true, if_false]
  · simp only [hkind, hreset, Bool.false_eq_true, if_false]

/-- The rest of a partition reset, once no window runs and its stacks are cool (R254, R258, R417). -/
theorem effDomainReset_of_waiting (hwaits : e.waitsOn = true) (hkind : e.body 0 1 = 0)
    (hwindow : s.windowOn (s.partDies (e.body 1 1)) = false) (hcool : s.hotStack (e.body 1 1) = false) :
    effDomainReset r pos s = s.partResetEnd (e.body 1 1) r pos (bitOf (e.body 2 1) 0) := by
  have hrest : (e.waitsOn && decide (e.body 0 1 = 0)) = true := by rw [hwaits, decide_eq_true hkind, Bool.and_self]
  simp only [effDomainReset, he, domainReset_goes hop hhub hres hstall (.inr hwaits), hrest, hwindow, hcool, Bool.false_eq_true, if_false,
    if_true]

end

/-! ## The statement about system commands -/

/-- Settles O24: a command that starts does its body, whose checks the hypotheses pass; the later takes of PARTITION_SET and DOMAIN_RESET are
their own lemmas. -/
theorem systemCommandsRun : Obligations.SystemCommandsRun := by
  refine ⟨?reserve, ?release, ?limit, ?partition, ?partitionLater, ?reset, ?resetLater, ?reserved⟩
  case reserve =>
    intro r pos s t e
    dsimp only
    intro hbegun hnew hring hcheck
    exact exec_eq_becomes_of_begun hbegun rfl rfl (by simp only [hnew, hring, hcheck, Bool.false_eq_true, if_false])
  case release =>
    intro r pos s t e
    dsimp only
    intro hbegun hlow hp hsched hkind hi hhigh hvalid howner
    have hrel : bitOf (e.body 26 1) 7 = true := by rw [hkind]; decide
    have hfits : (!e.zero 0 24 || decide (e.body 25 1 ≠ 0) || decide (e.body 26 1 ≠ 0x80) || decide (16 ≤ e.body 27 1) ||
        decide (16 ≤ e.body 24 1) || !e.zero 28 36) = false := by
      simp [hlow, hsched, hkind, hhigh, hi, hp]
    have hmine : (!t.ringModule r && decide (t.f .TLS_RES_FLOW_PART (resIx (e.body 24 1) (e.body 27 1)) ≠ t.ringPart r)) = false := by
      rcases howner with h | h <;> simp [h]
    exact exec_eq_becomes_of_begun hbegun rfl rfl
      (by simp only [hrel, hfits, Nat.mod_eq_of_lt hp, hvalid, hmine, if_true, Bool.not_true, Bool.false_eq_true, if_false])
  case limit =>
    intro r pos s t e
    dsimp only
    intro hbegun hm hm' hd hd' htrump hzero
    have hfits : (decide (e.body 8 2 < 4000) || decide (16500 < e.body 8 2) || decide (e.body 10 2 < 200) || decide (800 < e.body 10 2) ||
        !trumpOk (e.body 12 1) || !e.zero 13 51) = false := by
      simp [htrump, hzero, hm, hm', hd, hd']
    exact exec_eq_becomes_of_begun hbegun rfl rfl (by simp only [hfits, Bool.false_eq_true, if_false])
  case partition =>
    intro r pos s t e
    dsimp only
    intro hbegun hfirst hp hhubs hflags hzero hdies hgood
    have hfits : (decide (16 ≤ e.body 2 1) || decide (16 ≤ e.body 3 1) || decide (2 ≤ e.body 4 1) || !e.zero 5 59 ||
        (decide (bitList (e.body 0 2) 16 = []) && decide (e.body 3 1 ≠ 0))) = false := by
      simpa [hzero, hp, hhubs, hflags] using hdies
    exact exec_eq_becomesR (okPos_of_begun hbegun) rfl
      (by simp only [effPartitionSet, hfirst, startCmd_of_begun _ hbegun, hfits, hgood, Bool.false_eq_true, if_false])
  case partitionLater =>
    intro r pos s e dies p hubs hpos he hop hwaits hstart hhubs hforced hwindow
    have hlater : ((s.entry? r pos).filter fun e => e.op == 0x81 && e.waitsOn && s.canStart r e) = some e := by
      simp [he, Option.filter, hop, hwaits, hstart]
    exact exec_eq_becomesR hpos rfl (by simp only [effPartitionSet, hlater]; exact partSetWork_of_clear hhubs hforced hwindow)
  case reset =>
    intro r pos s u e x v hpos he hop hhub hres hstall hst hfirst hhead hflag hcheck
    obtain ⟨hpart, hcores, hhubReset⟩ :=
      effDomainReset_of_checked he hop hhub hres hstall hst hfirst hhead hflag hcheck
    exact ⟨fun hkind => exec_eq_becomesR hpos rfl (hpart hkind), fun hkind hwindow => exec_eq_becomesR hpos rfl (hcores hkind hwindow),
      fun hkind hbusy => exec_eq_becomesR hpos rfl (hhubReset hkind hbusy)⟩
  case resetLater =>
    intro r pos s e hpos he hop hhub hres hstall hwaits hkind hwindow hcool
    exact exec_eq_becomesR hpos rfl (effDomainReset_of_waiting he hop hhub hres hstall hwaits hkind hwindow hcool)
  case reserved =>
    intro r pos s e hpos he hop hstart
    exact exec_eq_becomes hpos rfl (by simp only [effReservedOpcode, he, hop, hstart, Option.isNone_none, Bool.and_self, if_true])

end Sys2Proof.Machine
end

-- Proofs of the statements about start-up and resets.
section
/-!
SUPPORT. Start-up, resets, rails, coolant and the reference clock (R408 to R414, R471 to R475): the effect of each row in each case.
-/

namespace Sys2Proof.Machine

open Sys2Proof

/-! ## RST_STATUS after a restart (R414) -/

@[simp] theorem f_setPhase_same (s : State) (p : Nat) : (s.setPhase p).f .RST_STATUS_PHASE = p % 8 :=
  State.f_setF_same s .RST_STATUS_PHASE 0 p

theorem f_setPhase_ne (s : State) (p : Nat) {x : Fld} (h : x ≠ .RST_STATUS_PHASE) : (s.setPhase p).f x = s.f x :=
  State.f_setF_ne s p (by decide) (by decide) (.inl h)

theorem restart_phase (s : State) (c : Nat) : (s.restart c).f .RST_STATUS_PHASE = if s.rst.railsGood then 1 else 0 := by
  rw [State.restart, f_setPhase_same]
  split <;> rfl

theorem restart_cause (s : State) {c : Nat} (hc : c < 8) : (s.restart c).f .RST_STATUS_CAUSE = c := by
  rw [State.restart, f_setPhase_ne _ _ (by decide), State.f_setF_same]
  exact Nat.mod_eq_of_lt hc

/-! ## The statement about start-up and resets -/

/-- Settles O43: in each case the row's guard holds, and its effect is the state named. -/
theorem resetPhasesRun : Obligations.ResetPhasesRun := by
  refine ⟨?powerGood, ?coolQualified, ?hubTestDone, ?trainDone, ?clearDone, ?auxiliary, ?mreset, ?moduleReset, ?restart, ?railFault,
    ?coolLost, ?coolBack, ?coolStop, ?refclkLoss, ?refclkReturn⟩
  case powerGood =>
    intro dt s
    dsimp only
    intro hphase hvaux hrefclk
    exact exec_eq_becomes rfl rfl (by simp only [effPowerGood, hphase, hvaux, hrefclk, decide_true, Bool.and_self, if_true])
  case coolQualified =>
    intro dt at_ s
    dsimp only
    intro hphase hcool hsince hlong
    exact exec_eq_becomes rfl rfl (by simp only [effCoolQualified, hphase, hcool, hsince, hlong, decide_true, Bool.and_self, if_true])
  case hubTestDone =>
    intro pass keeper dt s
    dsimp only
    intro hpass hphase
    refine exec_eq_becomes (decide_eq_true hpass) rfl ?_
    simp only [effHubTestDone, hphase, ne_eq, not_true_eq_false, if_false, Bool.and_eq_true, Bool.not_eq_true']
  case trainDone =>
    intro dies guests ml cl dt s
    dsimp only
    intro hdies hguests hml hcl hphase
    have hwf : (decide (dies < 65536) && decide (guests < 4) && ml.all (fun (x : Nat × Nat) => decide (x.1 < 1024) && decide (x.2 < 292)) &&
        cl.all fun (x : Nat × Nat) => decide (x.1 < 176) && decide (x.2 < 68)) = true := by
      rw [decide_eq_true hdies, decide_eq_true hguests, hml, hcl]; rfl
    exact exec_eq_becomes hwf rfl (by simp only [effTrainDone, hphase, ne_eq, not_true_eq_false, if_false])
  case clearDone =>
    intro dt s
    dsimp only
    intro hphase
    exact exec_eq_becomes rfl rfl (by simp only [effClearDone, hphase, ne_eq, not_true_eq_false, if_false])
  case auxiliary =>
    intro s
    exact ⟨exec_eq_becomes rfl rfl rfl, exec_eq_becomes rfl rfl rfl, rfl, rfl, rfl, rfl⟩
  case mreset =>
    intro dt s hvaux hlow
    exact exec_eq_becomes rfl rfl (by simp only [effMresetNAssert, hvaux, hlow, decide_true, Bool.and_self, if_true])
  case moduleReset =>
    intro s hvaux
    exact exec_eq_becomes rfl rfl (if_pos hvaux)
  case restart =>
    intro s c hc
    exact ⟨restart_cause s hc, restart_phase s c⟩
  case railFault =>
    intro rail dt s
    dsimp only
    intro hlong hon hready
    have hnow : (decide (dt ≤ 10000) || decide ((s.elapse dt).f .RST_STATUS_PHASE = 0) || decide (5 < (s.elapse dt).f .RST_STATUS_PHASE)) =
        false := by
      simp only [Bool.or_eq_false_iff, decide_eq_false_iff_not]; omega
    refine ⟨fun hcore htrained => ?_, fun hcore hearly => ?_, fun hmain hrail => ?_⟩
    · refine exec_eq_becomes (decide_eq_true (by omega)) rfl ?_
      simp only [effRailFault, hnow, hcore, htrained, Bool.false_eq_true, if_false, if_true]
    · refine exec_eq_becomes (decide_eq_true (by omega)) rfl ?_
      simp only [effRailFault, hnow, hcore, Nat.not_le.mpr hearly, Bool.false_eq_true, if_false, if_true]
    · refine exec_eq_becomes (decide_eq_true hrail) rfl ?_
      simp only [effRailFault, hnow, Nat.not_lt.mpr hmain, Bool.false_eq_true, if_false]
  case coolLost =>
    intro s hcool
    dsimp only
    refine ⟨fun hready => ?_, fun hon hearly => ?_, fun hoff => ?_⟩
    · exact exec_eq_becomes rfl rfl (by simp only [effCoolOkDeassert, hcool, hready, Bool.not_true, Bool.false_eq_true, if_false, if_true])
    · have hne : s.f .RST_STATUS_PHASE ≠ 5 := by omega
      refine exec_eq_becomes rfl rfl ?_
      simp only [effCoolOkDeassert, hcool, hne, hon, hearly, Bool.not_true, Bool.false_eq_true, if_false, decide_true, Bool.and_self, if_true]
    · have hne : s.f .RST_STATUS_PHASE ≠ 5 := by omega
      have hno : (decide (1 ≤ s.f .RST_STATUS_PHASE) && decide (s.f .RST_STATUS_PHASE ≤ 4)) = false := by
        simp only [Bool.and_eq_false_iff, decide_eq_false_iff_not]; omega
      exact exec_eq_becomes rfl rfl (by simp only [effCoolOkDeassert, hcool, hne, hno, Bool.not_true, Bool.false_eq_true, if_false])
  case coolBack =>
    intro s hcool
    exact exec_eq_becomes rfl rfl (if_neg (Bool.eq_false_iff.mp hcool))
  case coolStop =>
    intro at_ dt s
    dsimp only
    intro hsince hphase hcool hstop hlong
    refine exec_eq_becomes rfl rfl ?_
    simp only [effCoolStopTimeout, hsince, hphase, hcool, hstop, hlong, Bool.not_false, decide_true, Bool.and_self, if_true]
  case refclkLoss =>
    intro dt s
    dsimp only
    intro hlow hon
    have hnow : (decide (dt < 1000) || !(s.elapse dt).rst.refclk) = false := by rw [decide_eq_false (by omega), hon]; rfl
    refine ⟨fun haux => ?_, fun hrun => ⟨?_, by omega, by omega⟩⟩
    · exact exec_eq_becomes rfl rfl (by simp only [effRefclkLoss, hnow, haux, Bool.false_eq_true, if_false, if_true])
    · exact exec_eq_becomes rfl rfl ((if_neg (Bool.eq_false_iff.mp hnow)).trans (if_neg hrun))
  case refclkReturn =>
    intro dt s
    exact exec_eq_becomes rfl rfl rfl

end Sys2Proof.Machine
end

-- Proofs of the statements about failures and the keeper.
section
/-!
SUPPORT. Heartbeats, failures of parts, tally copies, keeper commits and signatures (R421, R425, R426, R431 to R434, R441, R448): the effect of
each row in each case.
-/

namespace Sys2Proof.Machine

open Sys2Proof

/-! ## Signatures and their reports (R448, R449) -/

theorem isActive_of_entry {s : State} {r pos : Nat} {e : Entry} (he : s.entry? r pos = some e) : s.isActive r pos = e.active := by
  simp only [State.isActive, he]

/-- The entry whose report is to be written is the active one. -/
theorem filter_active_of_isActive {s : State} {r pos : Nat} {e : Entry} (he : s.entry? r pos = some e) (hactive : s.isActive r pos = true) :
    (s.entry? r pos).filter Entry.active = some e := by
  rw [isActive_of_entry he] at hactive
  simp only [he, Option.filter, hactive, if_true]

theorem filter_active_of_not_isActive {s : State} {r pos : Nat} (hactive : s.isActive r pos = false) :
    (s.entry? r pos).filter Entry.active = none := by
  cases he : s.entry? r pos with
  | none => rfl
  | some e =>
    rw [isActive_of_entry he] at hactive
    simp only [Option.filter, hactive, Bool.false_eq_true, if_false]

section
variable {s : State} {r pos : Nat} {b : Bytes} {e : Entry}

theorem writeReport_of_open (he : s.entry? r pos = some e) (hopen : e.remoteOpen ≠ 0) :
    s.writeReport r pos b = s.modEntry r pos fun e => { e with phase := 9 } := by
  simp only [State.writeReport, he, hopen, ne_eq, not_false_eq_true, if_true]

/-- A report whose spans stop is dropped unless its command goes on. -/
theorem writeReport_of_stopped (he : s.entry? r pos = some e) (hopen : e.remoteOpen = 0) {t : State}
    (hspans : s.writeSpans r pos (e.body 32 8) e.prog b = (false, t)) :
    s.writeReport r pos b = if t.isActive r pos then t else t.dropReport r pos := by
  simp only [State.writeReport, he, hopen, hspans, ne_eq, not_true_eq_false, if_false]

theorem writeReport_of_written (he : s.entry? r pos = some e) (hopen : e.remoteOpen = 0) {t : State}
    (hspans : s.writeSpans r pos (e.body 32 8) e.prog b = (true, t)) {x : Entry} (hx : t.entry? r pos = some x) (hactive : x.active = true)
    (hclosed : x.remoteOpen = 0) : s.writeReport r pos b = t.attestDone r pos x := by
  have hgo : (!x.active || (decide (x.phase = 4) && decide (x.remoteOpen ≠ 0))) = false := by simp [hactive, hclosed]
  simp only [State.writeReport, he, hopen, hspans, hx, hgo, ne_eq, not_true_eq_false, if_false, Bool.false_eq_true]

end

/-! ## Silent hubs (R426) -/

/-- Hub `a` hears more than half of the working dies. -/
def State.hearsMost (s : State) (a : Nat) : Bool :=
  decide (((List.range 16).filter s.dieWorks).length < 2 * (((List.range 16).filter s.dieWorks).filter fun n => s.reaches n a).length)

section
variable {s t : State} {h dt : Nat}

theorem effHeartbeatTimeout_hub_of_deaf (ht : s.elapse dt = t) (hphase : t.f .RST_STATUS_PHASE = 5) (hworks : t.hubWorks h = true)
    (hsilent : t.rst.heard.fget h 0 + 10000 ≤ t.eng) (hdeaf : t.hearsMost h = false) :
    effHeartbeatTimeout (.hub h) dt s = t.hubFailed h 5 := by
  unfold State.hearsMost at hdeaf
  simp only [effHeartbeatTimeout, ht, hphase, hworks, hsilent, hdeaf, ne_eq, not_true_eq_false, if_false, Bool.not_true, decide_true,
    Bool.or_self, Bool.false_eq_true, Bool.not_false, if_true]

theorem effHeartbeatTimeout_hub_of_heard (ht : s.elapse dt = t) (hphase : t.f .RST_STATUS_PHASE = 5) (hworks : t.hubWorks h = true)
    (hsilent : t.rst.heard.fget h 0 + 10000 ≤ t.eng) (hhears : t.hearsMost h = true)
    (hother : ((List.range 4).any fun a => a != h && t.hubWorks a && t.hearsMost a) = true) :
    effHeartbeatTimeout (.hub h) dt s = t.hubFailed h 4 := by
  unfold State.hearsMost at hhears hother
  simp only [effHeartbeatTimeout, ht, hphase, hworks, hsilent, hhears, hother, ne_eq, not_true_eq_false, if_false, Bool.not_true, decide_true,
    Bool.or_self, Bool.false_eq_true, if_true]

end

/-! ## The statement about failures and the keeper -/

/-- Settles O44: each row's guard holds, and its effect is the state named; the report of a signature goes through `writeReport`. -/
theorem failuresAndKeeperRun : Obligations.FailuresAndKeeperRun := by
  refine ⟨?heartbeat, ?dieSilent, ?hubSilent, ?hubFail, ?dieFail, ?stackFail, ?hubReset, ?tallyCopy, ?endCopy, ?copyReady, ?commit, ?signature,
    ?report, ?attestDone⟩
  case heartbeat =>
    intro dt s
    dsimp only
    intro hphase hdue
    refine exec_eq_becomes rfl rfl ?_
    simp only [effHeartbeatSend, hphase, Nat.not_lt.mpr hdue, ne_eq, not_true_eq_false, decide_false, Bool.or_self, Bool.false_eq_true, if_false]
  case dieSilent =>
    intro n dt s
    dsimp only
    intro hn hphase hworks hsilent
    refine exec_eq_becomes (decide_eq_true hn) rfl ?_
    simp only [effHeartbeatTimeout, hphase, hworks, hsilent, ne_eq, not_true_eq_false, if_false, decide_true, Bool.and_self, if_true]
  case hubSilent =>
    intro h dt s t hears hh hphase hworks hsilent
    refine ⟨fun hfew => exec_eq_becomes (decide_eq_true hh) rfl ?_, fun hmost ⟨a, ha, hne, hup, hheard⟩ =>
      exec_eq_becomes (decide_eq_true hh) rfl ?_⟩
    · exact effHeartbeatTimeout_hub_of_deaf rfl hphase hworks hsilent (decide_eq_false hfew)
    · have hother : ((List.range 4).any fun a => a != h && t.hubWorks a && t.hearsMost a) = true :=
        List.any_eq_true.mpr ⟨a, List.mem_range.mpr ha, by rw [bne_iff_ne.mpr hne, hup, State.hearsMost, decide_eq_true hheard]; rfl⟩
      exact effHeartbeatTimeout_hub_of_heard rfl hphase hworks hsilent (decide_eq_true hmost) hother
  case hubFail =>
    intro h s hh
    exact ⟨exec_eq_becomes (decide_eq_true hh) rfl rfl,
      fun hworks => by simp only [State.hubFailed, hworks, Bool.not_true, Bool.false_eq_true, if_false],
      fun hworks => by simp only [State.hubFailed, hworks, Bool.not_false, if_true]⟩
  case dieFail =>
    intro n s hn
    exact ⟨exec_eq_becomes (decide_eq_true hn) rfl rfl, fun hworks => if_pos hworks, fun hworks => if_neg (Bool.eq_false_iff.mp hworks)⟩
  case stackFail =>
    intro k s hk hworks
    exact exec_eq_becomes (decide_eq_true hk) rfl (if_pos hworks)
  case hubReset =>
    intro h r pos dt s
    dsimp only
    intro hh hfind
    exact ⟨exec_eq_becomes (decide_eq_true hh) rfl (by simp only [effHubResetDone, hfind, Bool.false_eq_true, if_false]),
      exec_eq_becomes (decide_eq_true hh) rfl (by simp only [effHubResetDone, hfind, if_true])⟩
  case tallyCopy =>
    intro h dt s
    dsimp only
    intro hh hworks
    exact exec_eq_becomes (decide_eq_true hh) rfl (by simp only [effTallyCopyDone, hworks, Bool.not_true, Bool.false_eq_true, if_false])
  case endCopy =>
    intro h k s
    exact ⟨fun hready => if_pos hready, fun hready => if_neg (Bool.eq_false_iff.mp hready)⟩
  case copyReady =>
    intro h k s hacting hcopying hlive hworks
    simp only [State.copyReady, hacting, hcopying, hlive, hworks, beq_self_eq_true, decide_true, Bool.and_self, Bool.not_true, Bool.false_or,
      Bool.true_and]
  case commit =>
    intro c q dt s
    dsimp only
    intro hqueue
    exact exec_eq_becomes rfl rfl (by simp only [effKeeperCommitDone, hqueue])
  case signature =>
    intro h g dt s t u next hh hsigning hhub hready hworks
    have hgo : (decide (g.hub ≠ h) || !g.ready || !t.hubWorks h) = false := by rw [hready, hworks, decide_eq_false (not_not.mpr hhub)]; rfl
    refine ⟨fun hgone => exec_eq_becomes (decide_eq_true hh) rfl ?_, fun e hactive he => exec_eq_becomes (decide_eq_true hh) rfl ?_⟩
    · have hnone := filter_active_of_not_isActive hgone
      simp only [effSignatureDone, t, u, next, hsigning, hgo, hnone, Bool.false_eq_true, if_false]
    · have hsome := filter_active_of_isActive he hactive
      simp only [effSignatureDone, t, u, next, hsigning, hgo, hsome, Bool.false_eq_true, if_false]
  case report =>
    intro r pos b e s he
    refine ⟨writeReport_of_open he, ?_⟩
    intro hopen w
    refine ⟨fun hstop => ?_, fun x hwhole hx hactive hclosed => ?_⟩
    · exact writeReport_of_stopped he hopen (Prod.ext hstop rfl)
    · exact writeReport_of_written he hopen (Prod.ext hwhole rfl) hx hactive hclosed
  case attestDone =>
    intro r pos e x s hreport
    simp only [State.attestDone, hreport]

end Sys2Proof.Machine
end

-- Proofs of the statements about memory accesses.
section
/-!
SUPPORT. A write beside a codeword whose directory entry names an owner that the store of copies hides (R242, R276).
-/

namespace Sys2Proof.Machine

open Sys2Proof

/-! ## A hidden copy

The stores of a `State` are lists of (key, value). Canonical ones have rising keys and list no entry that equals the default; the statement
speaks of every `State`. Where a default entry stands before a second entry of its key, the first is read; dropping default entries, as a write
of another codeword does (`State.dropCopies`), uncovers the second. -/

/-- Stack 0's second codeword is recorded as owned by agent 0, whose copy, 64 bytes of 1, is hidden behind a default entry of the same key. -/
def hiddenOwner : State :=
  { State.reset with caches :=
      { dir := [(granKey 0 64, { st := .e, owner := 0 })]
        copies := [(copyKey 0 (granKey 0 64), {}), (copyKey 0 (granKey 0 64), { st := .m, data := List.replicate 64 1 })] } }

/-- An engine that works for no command. -/
def anyEngine : MemReq := ⟨4, 0, none⟩

/-- With no bad lane and no recorded error, no codeword has a symbol in error. -/
theorem badSyms_of_no_errors {s : State} (hstk : s.stk = []) (hecc : s.ecc = []) (g : Nat) : s.badSyms g = [] := by
  simp [State.badSyms, State.stack, hstk, hecc]

/-- Before the write no agent holds the value of a codeword in the range, and no message about one is in flight. -/
theorem hiddenOwner_unowned : ∀ a < 65, hiddenOwner.inCellar 0 a = false ∧ hiddenOwner.inBootImage (hiddenOwner.paOf 0 a) = false ∧
    hiddenOwner.ownerOf (granKey 0 a) = none ∧ hiddenOwner.settled (granKey 0 a) = true := by
  decide +kernel

/-- The write of 65 bytes of 0 at offset 0 makes byte 65, which it does not name, 1: the rest of the second codeword is taken from the copy
that the write of the first has uncovered. -/
theorem hiddenOwner_memByte_65 : (effBulkWrite anyEngine 0 0 (zeroBytes 65) hiddenOwner).memByte 65 = 1 := by
  decide +kernel

theorem memByte_of_becomes {s k t : State} (h : s.becomes k = .next t) (a : Nat) : t.memByte a = k.memByte a := by
  cases h; rfl

/-- Refutes O32: of `hiddenOwner`, whose store of copies is not canonical, every hypothesis of a BULK_WRITE holds, and a byte outside the range
changes from 0 to 1. -/
theorem not_memoryAccessesRun : ¬ Obligations.MemoryAccessesRun := by
  intro h
  obtain ⟨-, -, hwrite, -⟩ := h
  have hclean := badSyms_of_no_errors (s := hiddenOwner) rfl rfl
  obtain ⟨t, ht, hmem⟩ := hwrite anyEngine 0 0 (zeroBytes 65) hiddenOwner (.bulkWrite anyEngine 0 0 (zeroBytes 65)) (by decide)
    (by decide) (by decide) rfl rfl rfl (fun a _ _ => hclean _)
    (fun a _ ha => by
      obtain ⟨hcellar, hboot, hown, hsettled⟩ := hiddenOwner_unowned a ha
      exact ⟨hcellar, .inr hboot, hown, hsettled⟩)
    (.inl rfl)
  have hrow : exec (.bulkWrite anyEngine 0 0 (zeroBytes 65)) hiddenOwner =
      hiddenOwner.becomes (effBulkWrite anyEngine 0 0 (zeroBytes 65) hiddenOwner) := exec_eq_becomes rfl rfl rfl
  have hafter : t.memByte 65 = 1 := (memByte_of_becomes (hrow.symm.trans ht) 65).trans hiddenOwner_memByte_65
  have houtside : ¬(0 * 2 ^ 37 + 0 ≤ 65 ∧ 65 < 0 * 2 ^ 37 + 0 + (zeroBytes 65).length) := by simp [zeroBytes]
  rw [hmem 65, if_neg houtside] at hafter
  exact absurd hafter (by decide)

end Sys2Proof.Machine
end

-- Proofs of the statements about launches and kernels.
section
/-!
SUPPORT. Launches and the kernel events (R71, R134 to R146): the body of each command once its checks have passed, and the effect of each
event once its trigger holds.
-/

namespace Sys2Proof.Machine

open Sys2Proof

/-- The same as `exec_eq_becomes_of_begun`, of a command that reads stacks. -/
theorem exec_eq_becomesR_of_begun {c : Instr} {s t k : State} {r pos op : Nat} {e : Entry} {body : State → Entry → State}
    (h : s.begun r pos op = some (t, e)) (hwf : c.wellFormed = okPos r pos)
    (hrow : exec c s = runIf c.wellFormed s (s.startCmd r pos op body).settleRetire) (hbody : body t e = k) : exec c s = s.becomesR k :=
  exec_eq_becomesR (hwf.trans (okPos_of_begun h)) hrow ((startCmd_of_begun body h).trans hbody)

/-! ## LAUNCH_AT (R138) -/

/-- A LAUNCH_AT that does not act at a deal, or whose schedule is defined, passes the check of its schedule. -/
theorem launchSched_check {s : State} {r : Nat} {e : Entry} (h : e.body 40 1 = 1 → (s.launchSched r e).defined = true) :
    (decide (e.body 40 1 = 1) && !(s.launchSched r e).defined) = false := by
  simpa using h

/-- A held LAUNCH_AT whose time has come enters its kernel. -/
theorem effLaunchAtRelease_of_due {s t : State} {r pos dt : Nat} {e : Entry} (ht : s.elapse dt = t) (he : t.entry? r pos = some e)
    (hactive : e.active = true) (hop : e.op = 0x09) (hphase : e.phase = 1)
    (hsched : e.body 40 1 = 1 → (t.launchSched r e).defined = true) (hdue : t.launchDue r e = true)
    (horder : (t.actionTime r e).all t.inOrder = true) :
    effLaunchAtRelease r pos dt s =
      (t.modEntry r pos fun e => { e with phase := 0 }).addKernel r e ((e.got.head?.map (·.2)).getD []) := by
  simp only [effLaunchAtRelease, ht, he, hactive, hop, hphase, launchSched_check hsched, hdue, horder, ne_eq, not_true_eq_false,
    decide_false, Bool.not_true, Bool.or_self, Bool.and_self, Bool.false_eq_true, if_false, if_true]

/-! ## Start and dispatch (R139 to R142) -/

/-- A queued kernel with room in its partition and a working die starts. -/
theorem effKernelStart_of_queued {s t : State} {id dt : Nat} (ht : s.elapse dt = t) (hlive : (t.kernel id).live = true)
    (hphase : (t.kernel id).phase = .queued) (hroom : t.runningIn (t.kernel id).part < 32) (hdies : t.dieSet (t.kernel id) ≠ []) :
    effKernelStart id dt s = ((t.setKernel id { t.kernel id with phase := .running }).dropClean fun c =>
      (t.dieSet (t.kernel id)).contains (nearDie c)).dispatch id := by
  have hgo : (!(t.kernel id).live || (t.kernel id).phase != .queued || decide (32 ≤ t.runningIn (t.kernel id).part)) = false := by
    simp [hlive, hphase, hroom]
  simp only [effKernelStart, ht, hgo, hdies, Bool.false_eq_true, if_false]

/-- The next team goes to the chosen cluster when no kernel served before this one has teams pending. -/
theorem dispatch_of_first {s : State} {id cl : Nat} (hpending : (s.kernel id).pending = true)
    (hcluster : s.pickCluster (s.kernel id) = some cl)
    (hfirst : (s.kernels.any fun (e : Nat × Kernel) => e.2.pending && e.2.part == (s.kernel id).part && e.2.before (s.kernel id)) = false) :
    s.dispatch id = s.placeTeam id cl := by
  simp only [State.dispatch, hpending, hfirst, hcluster, Bool.not_true, Bool.false_eq_true, if_false]

/-! ## End of a kernel (R143, R144) -/

/-- A kernel whose groups have ended, or that has stopped, is ended once every fault on its way has been taken. -/
theorem kernelEnd_goes {s : State} {id : Nat} (hlive : (s.kernel id).live = true)
    (hfaults : (s.gfaults.any fun x => x.kernel == id) = false)
    (hover : s.stopped id = true ∨ ((s.kernel id).phase = .running ∧ (s.kernel id).allEnded = true)) :
    (!(s.kernel id).live || s.gfaults.any (fun x => x.kernel == id) ||
      !(s.stopped id || ((s.kernel id).phase == .running && (s.kernel id).allEnded))) = false := by
  rw [hlive, hfaults]
  rcases hover with hstopped | ⟨hrunning, hended⟩
  · simp [hstopped]
  · simp [hrunning, hended]

/-! ## The fault of the lowest unit (R145, R146) -/

/-- Of a fault and the one chosen so far, the one of the lower unit. -/
def lowerUnit (best : Option GFault) (x : GFault) : Option GFault :=
  match best with
  | none => some x
  | some y => if x.unit < y.unit then some x else some y

theorem lowerUnit_of_lt {best : Option GFault} {x : GFault} (h : ∀ y ∈ best, x.unit < y.unit) : lowerUnit best x = some x := by
  cases best with
  | none => rfl
  | some y => exact if_pos (h y rfl)

theorem lowerUnit_eq_or (best : Option GFault) (x : GFault) : lowerUnit best x = some x ∨ lowerUnit best x = best := by
  cases best with
  | none => exact .inl rfl
  | some y => exact ite_eq_or_eq ..

/-- The choice of a list is one of its faults, or the choice so far. -/
theorem mem_of_mem_foldl_lowerUnit {l : List GFault} {best : Option GFault} {y : GFault} (h : y ∈ l.foldl lowerUnit best) :
    y ∈ best ∨ y ∈ l := by
  induction l generalizing best with
  | nil => exact .inl h
  | cons x l ih =>
    rcases ih h with hbest | hl
    · rcases lowerUnit_eq_or best x with hx | hx <;> rw [hx] at hbest
      · exact .inr (Option.mem_some.mp hbest ▸ List.mem_cons_self ..)
      · exact .inl hbest
    · exact .inr (List.mem_cons_of_mem _ hl)

/-- No later fault of the same or a higher unit changes the choice. -/
theorem foldl_lowerUnit_of_le {l : List GFault} {x : GFault} (h : ∀ y ∈ l, x.unit ≤ y.unit) : l.foldl lowerUnit (some x) = some x := by
  induction l with
  | nil => rfl
  | cons y l ih =>
    rw [List.forall_mem_cons] at h
    rw [List.foldl_cons, show lowerUnit (some x) y = some x from if_neg (Nat.not_lt.mpr h.1), ih h.2]

/-- The choice is the first fault of the lowest unit. -/
theorem foldl_lowerUnit_eq {l1 l2 : List GFault} {x : GFault} (h1 : ∀ y ∈ l1, x.unit < y.unit) (h2 : ∀ y ∈ l2, x.unit ≤ y.unit) :
    (l1 ++ x :: l2).foldl lowerUnit none = some x := by
  have hbefore : ∀ y ∈ l1.foldl lowerUnit none, x.unit < y.unit := fun y hy =>
    h1 y ((mem_of_mem_foldl_lowerUnit hy).resolve_left (by simp))
  rw [List.foldl_append, List.foldl_cons, lowerUnit_of_lt hbefore, foldl_lowerUnit_of_le h2]

/-- KERNEL_FAULT hands the fault of the lowest unit to its kernel. -/
theorem effKernelFault_of_lowest {s t : State} {id dt : Nat} {x : GFault} (ht : s.elapse dt = t)
    (hlowest : (t.gfaults.filter fun x => x.kernel == id).foldl lowerUnit none = some x) :
    effKernelFault id dt s = { t with gfaults := t.gfaults.erase x }.kernelFault id x.res x.frec := by
  subst ht
  change (match ((s.elapse dt).gfaults.filter fun x => x.kernel == id).foldl lowerUnit none with
    | none => s.elapse dt
    | some x => { s.elapse dt with gfaults := (s.elapse dt).gfaults.erase x }.kernelFault id x.res x.frec) = _
  rw [hlowest]

/-- The first fault of a kernel stops it. -/
theorem kernelFault_of_first {s : State} {id : Nat} (res : Result) (x : FRec) (hlive : (s.kernel id).live = true)
    (hfault : (s.kernel id).fault = none) :
    s.kernelFault id res x =
      (let u := s.stopGroups id
       let (w, v) := if x.cause = 0 then (false, u) else u.fqWrite (s.ringQueue (s.kernel id).ring) x
       v.setKernel id { v.kernel id with
         phase := .stopping, fault := some { res with faultRec := w }, frec := if w || x.cause == 0 then none else some x }) := by
  simp only [State.kernelFault, hlive, hfault, Bool.not_true, Option.isSome_none, Bool.false_eq_true, if_false]

/-! ## The statement about launches and kernels -/

/-- Settles O16: a launch does its body, whose checks the hypotheses pass; each event's trigger holds, and its effect is the state named. -/
theorem launchesAndKernelEvents : Obligations.LaunchesAndKernelEvents := by
  refine ⟨?launchEmpty, ?launch, ?launchAt, ?launchAtEmpty, ?release, ?start, ?dispatch, ?kernelEnd, ?fault, ?timeLimit, ?epoch⟩
  case launchEmpty =>
    intro r pos s t e hbegun hbody hgroups
    exact exec_eq_becomesR_of_begun hbegun rfl rfl (by simp only [hbody, hgroups, Bool.not_true, Bool.false_eq_true, if_false, if_true])
  case launch =>
    intro r pos s t u e d hbegun hbody hgroups hdesc hcheck
    exact exec_eq_becomesR_of_begun hbegun rfl rfl
      (by simp only [hbody, hgroups, hdesc, hcheck, Bool.not_true, Bool.false_eq_true, if_false])
  case launchAt =>
    intro r pos s t u e d hbegun hbody hgroups hsched hdesc hcheck
    exact exec_eq_becomesR_of_begun hbegun rfl rfl
      (by simp only [hbody, launchSched_check hsched, hgroups, hdesc, hcheck, Bool.not_true, Bool.false_eq_true, if_false])
  case launchAtEmpty =>
    intro r pos s t e hbegun hbody hgroups hsched
    exact exec_eq_becomesR_of_begun hbegun rfl rfl
      (by simp only [hbody, launchSched_check hsched, hgroups, Bool.not_true, Bool.false_eq_true, if_false, if_true])
  case release =>
    intro r pos dt s e hpos he hactive hop hphase hsched hdue horder
    exact exec_eq_becomes hpos rfl (effLaunchAtRelease_of_due rfl he hactive hop hphase hsched hdue horder)
  case start =>
    intro id dt s t k hlive hphase hroom hdies
    exact exec_eq_becomes rfl rfl (effKernelStart_of_queued rfl hlive hphase hroom hdies)
  case dispatch =>
    intro id dt s cl t k hpending hcluster hfirst
    exact exec_eq_becomes rfl rfl (dispatch_of_first hpending hcluster hfirst)
  case kernelEnd =>
    intro id dt s bad u
    dsimp only
    intro hlive hfaults hover hflush
    have hgo := kernelEnd_goes hlive hfaults hover
    refine exec_eq_becomesR rfl rfl ?_
    cases hfault : ((s.elapse dt).kernel id).fault with
    | none =>
      cases hlost : (lostOf id bad).1 with
      | none => simp only [effKernelEnd, hgo, hflush, hfault, hlost, Bool.false_eq_true, if_false]
      | some x => simp only [effKernelEnd, hgo, hflush, hfault, hlost, lostStatus, Bool.false_eq_true, if_false]
    | some res =>
      cases hrec : ((s.elapse dt).kernel id).frec with
      | none => simp only [effKernelEnd, hgo, hflush, hfault, hrec, Bool.false_eq_true, if_false]
      | some x => simp only [effKernelEnd, hgo, hflush, hfault, hrec, Bool.false_eq_true, if_false]
  case fault =>
    intro id dt s x l1 l2 t k hmine hbefore hafter hlive hfault
    have hlowest : (t.gfaults.filter fun x => x.kernel == id).foldl lowerUnit none = some x := by
      rw [hmine, foldl_lowerUnit_eq hbefore hafter]
    exact exec_eq_becomes rfl rfl ((effKernelFault_of_lowest rfl hlowest).trans (kernelFault_of_first _ _ hlive hfault))
  case timeLimit =>
    intro id dt s t0
    dsimp only
    intro hfirst hlive hphase hlimit hended hover
    refine exec_eq_becomes rfl rfl ?_
    simp only [effKernelTimeLimit, hfirst, hlive, hphase, bne_iff_ne.mpr hlimit, hended, hover, beq_self_eq_true, Bool.not_false,
      decide_true, Bool.and_self, if_true]
  case epoch =>
    intro u dt s p x hu howner happlies hnew horder
    refine exec_eq_becomes (decide_eq_true hu) rfl ?_
    simp only [effEpochApply, howner, happlies, Nat.not_le.mpr hnew, horder, decide_false, Bool.not_true, Bool.or_self, Bool.false_eq_true,
      if_false]

end Sys2Proof.Machine
end

-- Proofs of the statements about counters, deals and modes.
section
/-!
SUPPORT. COUNTER_SET, COUNTER_SNAP, their actions and latches, wraps (R455 to R463), DEAL_SET (R54 to R56) and MODE_SET (R70).
-/

namespace Sys2Proof.Machine

open Sys2Proof

/-! ## The bodies of COUNTER_SET, COUNTER_SNAP and DEAL_SET -/

/-- A COUNTER_SET within its ranges passes the checks of its body. -/
theorem counterSet_bodyOk {e : Entry} (hcounters : e.body 8 8 < 2 ^ 36) (hhubs : e.body 18 1 < 16) (hact : e.body 19 1 < 16)
    (hone : ¬ (bitOf (e.body 19 1) 2 = true ∧ bitOf (e.body 19 1) 3 = true)) (hat : e.body 20 1 < 2) (hsched : e.body 21 1 < 16)
    (hzero : e.zero 22 42 = true) (hsel : bitOf (e.body 19 1) 0 = true → e.zero 208 48 = true ∧ ∀ i < 36, ctrSel e i < 2 ^ 17) :
    (decide (2 ^ 36 ≤ e.body 8 8) || decide (16 ≤ e.body 18 1) || decide (16 ≤ e.body 19 1) ||
      (bitOf (e.body 19 1) 2 && bitOf (e.body 19 1) 3) || decide (2 ≤ e.body 20 1) || decide (16 ≤ e.body 21 1) || !e.zero 22 42 ||
      (bitOf (e.body 19 1) 0 && (!e.zero 208 48 || (List.range 36).any fun i => decide (2 ^ 17 ≤ ctrSel e i)))) = false := by
  have hboth : (bitOf (e.body 19 1) 2 && bitOf (e.body 19 1) 3) = false := by simpa using hone
  have hprogram : (bitOf (e.body 19 1) 0 && (!e.zero 208 48 || (List.range 36).any fun i => decide (2 ^ 17 ≤ ctrSel e i))) = false := by
    simpa using hsel
  rw [hboth, hprogram]
  simp [-Nat.reducePow, hcounters, hhubs, hact, hat, hsched, hzero]

/-- A COUNTER_SNAP within its ranges passes the checks of its body. -/
theorem counterSnap_bodyOk {e : Entry} (hcounters : e.body 8 8 < 2 ^ 36) (hhubs : e.body 18 1 < 16) (hclear : e.body 19 1 < 2)
    (hat : e.body 20 1 < 2) (hsched : e.body 21 1 < 16) (hzero : e.zero 22 2 = true) (hzero' : e.zero 40 24 = true)
    (hrepeat : e.body 36 4 ≠ 0) (hrepeat' : e.body 36 4 ≤ 65536) (honce : e.body 20 1 = 0 → e.body 36 4 = 1) (hdest : e.body 24 8 % 64 = 0) :
    (decide (2 ^ 36 ≤ e.body 8 8) || decide (16 ≤ e.body 18 1) || decide (2 ≤ e.body 19 1) || decide (2 ≤ e.body 20 1) ||
      decide (16 ≤ e.body 21 1) || !e.zero 22 2 || !e.zero 40 24 || decide (e.body 36 4 = 0) || decide (65536 < e.body 36 4) ||
      (decide (e.body 20 1 = 0) && decide (e.body 36 4 ≠ 1)) || decide (e.body 24 8 % 64 ≠ 0)) = false := by
  have hcount : (decide (e.body 20 1 = 0) && decide (e.body 36 4 ≠ 1)) = false := by simpa using honce
  rw [hcount]
  simp [-Nat.reducePow, hcounters, hhubs, hclear, hat, hsched, hzero, hzero', hrepeat, hrepeat', hdest]

/-- The period of a DEAL_SET is in range, or, where it clears its schedule, its period and anchor are 0. -/
theorem dealSet_periodOk {e : Entry} (hclear : e.body 17 1 < 2)
    (hperiod : if e.body 17 1 = 1 then e.body 0 8 = 0 ∧ e.body 8 8 = 0 else 1000 ≤ e.body 0 8 ∧ e.body 0 8 ≤ 1000000000) :
    (!bitOf (e.body 17 1) 0 && (decide (e.body 0 8 < 1000) || decide (1000000000 < e.body 0 8))) = false ∧
      (bitOf (e.body 17 1) 0 && (decide (e.body 0 8 ≠ 0) || decide (e.body 8 8 ≠ 0))) = false := by
  by_cases hset : e.body 17 1 = 1
  · rw [if_pos hset] at hperiod
    simp [show bitOf (e.body 17 1) 0 = true by rw [hset]; rfl, hperiod]
  · rw [if_neg hset] at hperiod
    simp [show bitOf (e.body 17 1) 0 = false by rw [show e.body 17 1 = 0 by omega]; rfl, hperiod]

@[simp] theorem modEntry_ctrOps (s : State) (r pos : Nat) (f : Entry → Entry) : (s.modEntry r pos f).ctrOps = s.ctrOps := rfl

/-- A command that acts at its time, or whose schedule is defined, passes the check of its schedule. -/
theorem ctrSched_check {s : State} {r : Nat} {e : Entry} (h : e.body 20 1 = 1 → (s.ctrSched r e).defined = true) :
    (decide (e.body 20 1 = 1) && !(s.ctrSched r e).defined) = false := by
  simpa using h

/-! ## Action times (R460, R463) -/

/-- A listed command whose action time has come, and that no other precedes, acts. -/
theorem ctrWhen_of_due {s : State} {r pos op time : Nat} {o : CtrOp} {e : Entry} (act : State → CtrOp → Entry → State)
    (ho : s.ctrOps.find? (fun o => o.ring == r && o.pos == pos) = some o) (he : s.entry? r pos = some e) (hop : e.op = op)
    (hactive : e.active = true) (hhub : s.hubWorks (s.ringHub r) = true) (hphase : e.phase ≠ 4) (htime : s.ctrTime o e = some time)
    (hdue : time ≤ s.now) (horder : s.inOrder time = true) (hfirst : s.ctrBlocked o time (op == 0x2A) = false) :
    s.ctrWhen r pos op act = act s o e := by
  simp only [State.ctrWhen, ho, he, hop, hactive, hhub, hphase, htime, hdue, horder, hfirst, ne_eq, not_true_eq_false, decide_false,
    decide_true, Bool.not_true, Bool.not_false, Bool.or_self, Bool.and_self, Bool.false_eq_true, if_false, if_true]

/-- A latch that writes its whole record, with snapshots still to take, turns to the next. -/
theorem effCounterLatch_of_written {s t u v : State} {r pos dt time : Nat} {o : CtrOp} {e : Entry} {b : Bytes} (ht : s.elapse dt = t)
    (ho : t.ctrOps.find? (fun o => o.ring == r && o.pos == pos) = some o) (he : t.entry? r pos = some e) (hop : e.op = 0x2A)
    (hactive : e.active = true) (hhub : t.hubWorks (t.ringHub r) = true) (hphase : e.phase ≠ 4) (htime : t.ctrTime o e = some time)
    (hdue : time ≤ t.now) (horder : t.inOrder time = true) (hfirst : t.ctrBlocked o time true = false) (hnew : o.latched = none)
    (hlatch : t.latch e o.dies (t.snapNext o e) = (b, u))
    (hwrite : u.snapWrite r pos (e.body 24 8 + t.snapNext o e * snapLen (e.body 8 8) o.dies (e.body 18 1)) b = (.done, v))
    (hmore : t.snapNext o e + 1 < e.body 36 4) :
    effCounterLatch r pos dt s =
      (v.modEntry r pos fun e => { e with phase := 0 }).setCtr r pos { o with done := t.snapNext o e + 1, latched := none } := by
  rw [effCounterLatch, ht, ctrWhen_of_due _ ho he hop hactive hhub hphase htime hdue horder hfirst]
  simp only [hnew, hlatch, hwrite, hmore, if_true]

/-! ## COUNTER_WRAP (R456) -/

/-- An enabled die or hub counter whose gain reaches 2^64 takes it. -/
theorem effCounterWrap_of_wrap {s : State} {c add : Nat} (hc : c < 320) (henabled : s.fb .CTR_SEL_ENABLE c = true)
    (hsource : s.f .CTR_SEL_SEL c % 256 ≠ 0) (hwrap : 2 ^ 64 ≤ s.f .CTR_VAL_VALUE c + add) :
    effCounterWrap c add s = s.addCtr .CTR_VAL_VALUE .CTR_SEL_WRAPPED c c add := by
  have hgo : (s.fb .CTR_SEL_ENABLE c && s.f .CTR_SEL_SEL c % 256 != 0 &&
      (selTimed (s.f .CTR_SEL_SEL c) || decide (2 ^ 64 ≤ s.f .CTR_VAL_VALUE c + add))) = true := by
    simp [-Nat.reducePow, henabled, hsource, hwrap]
  simp only [effCounterWrap, hc, hgo, if_true]

/-- A gain that reaches 2^64 marks the wrap. -/
theorem addCtr_of_wrap {s : State} {valF wrF : Fld} {valIx selIx k : Nat} (hwrap : 2 ^ 64 ≤ s.f valF valIx + k) :
    s.addCtr valF wrF valIx selIx k = (s.setF valF valIx (s.f valF valIx + k)).setF wrF selIx 1 := if_pos hwrap

/-! ## The statement about counters, deals and modes -/

/-- Settles O21: a command that starts does its body, whose checks the hypotheses pass; an action or latch that is due runs through
`ctrWhen`, and a wrap through `addCtr`. -/
theorem countersAndDealsRun : Obligations.CountersAndDealsRun := by
  refine ⟨?set, ?snap, ?action, ?latch, ?wrap, ?deal, ?mode⟩
  case set =>
    intro r pos s t e
    dsimp only
    intro hbegun hcounters hhubs hact hone hat hsched hzero hsel
    have hbody := counterSet_bodyOk hcounters hhubs hact hone hat hsched hzero hsel
    refine ⟨fun hnone => ?_, fun hsome hnames hsels hdefined => ?_⟩
    · exact exec_eq_becomes_of_begun hbegun rfl rfl ((if_neg (Bool.eq_false_iff.mp hbody)).trans (if_pos hnone))
    · have hlast : ((bitOf (e.body 19 1) 0 && !ctrSelsOk e) || (decide (e.body 20 1 = 1) && !(t.ctrSched r e).defined)) = false := by
        rw [ctrSched_check hdefined, Bool.or_false]; simpa using hsels
      exact exec_eq_becomes_of_begun hbegun rfl rfl (by simp only [hbody, hsome, hnames, hlast, Bool.false_eq_true, if_false])
  case snap =>
    intro r pos s t u e hs
    dsimp only
    intro hbegun hcounters hsome hhubs hclear hat hsched hzero hzero' hrepeat hrepeat' honce hdest hlisted hnames hdefined hroom hheld
    have hbody := counterSnap_bodyOk hcounters hhubs hclear hat hsched hzero hzero' hrepeat hrepeat' honce hdest
    exact exec_eq_becomes_of_begun hbegun rfl rfl (by
      simp only [hbody, hlisted, hsome, hnames, ctrSched_check hdefined, Nat.not_lt.mpr hroom, hheld, modEntry_ctrOps,
        Bool.false_eq_true, if_false])
  case action =>
    intro r pos dt s o e time
    dsimp only
    intro hpos ho he hop hactive hhub hphase htime hdue horder hfirst
    exact exec_eq_becomes hpos rfl (ctrWhen_of_due _ ho he hop hactive hhub hphase htime hdue horder hfirst)
  case latch =>
    intro r pos dt s u v o e time b
    dsimp only
    intro hpos ho he hop hactive hhub hphase htime hdue horder hfirst hnew hlatch hwrite hmore
    exact exec_eq_becomesR hpos rfl
      (effCounterLatch_of_written rfl ho he hop hactive hhub hphase htime hdue horder hfirst hnew hlatch hwrite hmore)
  case wrap =>
    intro c add s hc henabled hsource hwrap
    have heff := (effCounterWrap_of_wrap hc henabled hsource hwrap).trans (addCtr_of_wrap hwrap)
    refine ⟨_, exec_eq_becomes (decide_eq_true (by omega)) rfl heff, State.f_setF_same _ .CTR_SEL_WRAPPED c 1, ?_⟩
    exact (State.f_setF_ne _ (x := .CTR_SEL_WRAPPED) (y := .CTR_VAL_VALUE) 1 (by omega) (by omega) (.inl (by decide))).trans
      (State.f_setF_same ..)
  case deal =>
    intro r pos s t e
    dsimp only
    intro hbegun hk hclear hzero hperiod hfree
    have hfits : (decide (16 ≤ e.body 16 1) || decide (2 ≤ e.body 17 1) || !e.zero 18 46) = false := by simp [hk, hclear, hzero]
    have hunused : (!t.ringModule r && t.schedUsed (t.ringPart r) (e.body 16 1)) = false := by
      rcases hfree with h | h <;> simp [h]
    obtain ⟨hset, hunset⟩ := dealSet_periodOk hclear hperiod
    exact exec_eq_becomes_of_begun hbegun rfl rfl (by simp only [hfits, hset, hunset, hunused, Bool.false_eq_true, if_false])
  case mode =>
    intro r pos s t e
    dsimp only
    intro hbegun hmode hzero hfirst
    have hfits : (decide (64 ≤ e.body 8 8) || !e.zero 16 48) = false := by simp [hmode, hzero]
    exact exec_eq_becomes_of_begun hbegun rfl rfl (by simp only [hfits, hfirst, Bool.false_eq_true, if_false])

end Sys2Proof.Machine
end

-- Proofs of the statements about time events.
section
/-!
SUPPORT. Beacons, holdover and conflict (R41 to R50, R367, R368): what a beacon that is sent says, and the effect of each time event once its
trigger holds.
-/

namespace Sys2Proof.Machine

open Sys2Proof

/-! ## BEACON_SEND (R44, R367, R368) -/

/-- The port has sent no beacon in the present microsecond. -/
def State.beaconDue (s : State) (p : Nat) : Bool :=
  match (s.tport p).sent with
  | [] => true
  | t :: _ => t.1 / 1000 != s.time.now / 1000

/-- What BEACON_SEND does at one port. -/
def State.beaconPort (s : State) (p : Nat) : State :=
  if s.tlsUp p && s.beaconDue p then
    (s.setTport p { s.tport p with sent := ((s.time.now, s.time.frac) :: (s.tport p).sent).take 16 }).sendFrame p 2 0 (beaconBody (s.beaconOf p))
  else s

/-- BEACON_SEND acts at the four ports of its hub in turn. -/
theorem effBeaconSend_eq_foldl (h dt : Nat) (s : State) :
    effBeaconSend h dt s = ((List.range 4).map fun q => 4 * h + q).foldl State.beaconPort (s.elapse dt) := rfl

theorem beaconDue_of_sent {s : State} {p : Nat} (h : ∀ x l, (s.tport p).sent = x :: l → x.1 / 1000 ≠ s.time.now / 1000) :
    s.beaconDue p = true := by
  unfold State.beaconDue
  split
  · rfl
  · next x l hsent => exact bne_iff_ne.mpr (h x l hsent)

/-- `t` agrees with `s` in everything that a beacon of port `p` depends on, and has sent what `s` has. -/
structure BeaconSame (p : Nat) (s t : State) : Prop where
  regs : t.regs = s.regs
  fuse : t.fuse = s.fuse
  now : t.time.now = s.time.now
  frac : t.time.frac = s.time.frac
  dealer : t.time.dealer = s.time.dealer
  tport : t.tport p = s.tport p
  tls : t.tls p = s.tls p
  sent : s.out.tls ⊆ t.out.tls

theorem BeaconSame.refl (p : Nat) (s : State) : BeaconSame p s s := ⟨rfl, rfl, rfl, rfl, rfl, rfl, rfl, List.Subset.refl _⟩

theorem f_of_regs {s t : State} (h : t.regs = s.regs) (x : Fld) (ix : Nat) : t.f x ix = s.f x ix := by
  simp only [State.f, h]

theorem fb_of_regs {s t : State} (h : t.regs = s.regs) (x : Fld) (ix : Nat) : t.fb x ix = s.fb x ix := by
  simp only [State.fb, f_of_regs h]

theorem BeaconSame.beaconOf {p : Nat} {s t : State} (h : BeaconSame p s t) : t.beaconOf p = s.beaconOf p := by
  simp only [State.beaconOf, fb_of_regs h.regs, State.tstate, State.node, f_of_regs h.regs, h.fuse, h.now, h.frac, h.dealer, h.tport]

theorem BeaconSame.tlsUp {p : Nat} {s t : State} (h : BeaconSame p s t) : t.tlsUp p = s.tlsUp p := by
  simp only [State.tlsUp, State.hubWorks, State.hubPresent, f_of_regs h.regs]

theorem BeaconSame.beaconDue {p : Nat} {s t : State} (h : BeaconSame p s t) : t.beaconDue p = s.beaconDue p := by
  simp only [State.beaconDue, h.tport, h.now]

/-- Another port's beacon changes none of it. -/
theorem BeaconSame.beaconPort_ne {p q : Nat} {s t : State} (h : BeaconSame p s t) (hne : p ≠ q) : BeaconSame p s (t.beaconPort q) := by
  unfold State.beaconPort
  split
  · exact {
      regs := h.regs, fuse := h.fuse, now := h.now, frac := h.frac, dealer := h.dealer
      tport := (State.setTport_tport_ne t _ hne).trans h.tport
      tls := (State.setTls_tls_ne _ _ hne).trans h.tls
      sent := fun x hx => List.mem_cons_of_mem _ (h.sent hx) }
  · exact h

theorem BeaconSame.foldl_beaconPort {p : Nat} {s t : State} {l : List Nat} (h : BeaconSame p s t) (hp : p ∉ l) :
    BeaconSame p s (l.foldl State.beaconPort t) := by
  induction l generalizing t with
  | nil => exact h
  | cons q l ih =>
    rw [List.mem_cons, not_or] at hp
    exact ih (h.beaconPort_ne hp.1) hp.2

/-- The beacon of a port that is up and due: its time is noted, and its frame leaves. -/
theorem beaconPort_of_due {s : State} {p : Nat} (hup : s.tlsUp p = true) (hdue : s.beaconDue p = true) :
    ((s.beaconPort p).tport p).sent = ((s.time.now, s.time.frac) :: (s.tport p).sent).take 16 ∧
      (∃ a b, (p, tilusFrame 0 (s.tls p).rxSeq (s.tls p).nakOut 2 a b ((s.tls p).back.getD 8 0) (beaconBody (s.beaconOf p))) ∈
        (s.beaconPort p).out.tls) ∧
      (s.beaconPort p).time.now = s.time.now ∧ (s.beaconPort p).regs = s.regs := by
  simp only [State.beaconPort, hup, hdue, Bool.and_self, if_true]
  exact ⟨congrArg TPort.sent (State.setTport_tport s p _), ⟨_, _, List.mem_cons_self ..⟩, rfl, rfl⟩

/-- A port that BEACON_SEND visits once sends its beacon as if it were alone. -/
theorem foldl_beaconPort_of_mem {s : State} {p : Nat} {l : List Nat} (hnodup : l.Nodup) (hp : p ∈ l) (hup : s.tlsUp p = true)
    (hdue : s.beaconDue p = true) :
    let u := l.foldl State.beaconPort s
    (u.tport p).sent = ((s.time.now, s.time.frac) :: (s.tport p).sent).take 16 ∧
      (∃ a b, (p, tilusFrame 0 (s.tls p).rxSeq (s.tls p).nakOut 2 a b ((s.tls p).back.getD 8 0) (beaconBody (s.beaconOf p))) ∈ u.out.tls) ∧
      u.time.now = s.time.now ∧ u.regs = s.regs := by
  obtain ⟨l1, l2, rfl⟩ := List.append_of_mem hp
  rw [List.nodup_middle, List.nodup_cons, List.mem_append, not_or] at hnodup
  obtain ⟨⟨hp1, hp2⟩, -⟩ := hnodup
  rw [List.foldl_append, List.foldl_cons]
  have before := (BeaconSame.refl p s).foldl_beaconPort hp1
  have after := (BeaconSame.refl p ((l1.foldl State.beaconPort s).beaconPort p)).foldl_beaconPort hp2
  obtain ⟨hsent, ⟨a, b, hframe⟩, hnow, hregs⟩ := beaconPort_of_due (before.tlsUp.trans hup) (before.beaconDue.trans hdue)
  rw [before.now, before.frac, before.tport] at hsent
  rw [before.tls, before.beaconOf] at hframe
  exact ⟨(congrArg TPort.sent after.tport).trans hsent, ⟨a, b, after.sent hframe⟩, after.now.trans (hnow.trans before.now),
    after.regs.trans (hregs.trans before.regs)⟩

theorem nodup_portsOfHub (h : Nat) : ((List.range 4).map fun q => 4 * h + q).Nodup :=
  List.nodup_range.map fun _ _ => Nat.add_left_cancel

/-! ## BEACON_RECEIVE (R44 to R50) -/

section
variable {s t : State} {p dt : Nat} {f : BeaconFrame}

theorem beaconReceive_wellFormed (hp : p < 16) (hlen : f.body.length = 768) : (Instr.beaconReceive p f dt).wellFormed = true := by
  simp [Instr.wellFormed, hp, hlen]

/-- A port that takes beacons is up or retraining. -/
theorem beaconPort_takes (hstate : t.f .TLS_PSTAT_STATE p = 2 ∨ t.f .TLS_PSTAT_STATE p = 3) :
    ¬ (t.f .TLS_PSTAT_STATE p ≠ 2 ∧ t.f .TLS_PSTAT_STATE p ≠ 3) := by omega

/-- With beacons off or NO_TIME set, the beacon is noted and no more. -/
theorem effBeaconReceive_of_noTime (ht : s.elapse dt = t) (hstate : t.f .TLS_PSTAT_STATE p = 2 ∨ t.f .TLS_PSTAT_STATE p = 3)
    (hoff : (t.noteBeacon p (beaconOfBody f.body)).fb .TIME_CTRL_BEACON_EN = false ∨ (beaconOfBody f.body).noTime = true) :
    effBeaconReceive p f dt s = t.noteBeacon p (beaconOfBody f.body) := by
  have hstop : (!(t.noteBeacon p (beaconOfBody f.body)).fb .TIME_CTRL_BEACON_EN || (beaconOfBody f.body).noTime) = true := by
    simpa using hoff
  simp only [effBeaconReceive, ht, if_neg (beaconPort_takes hstate), hstop, if_true]

section
variable {b : Beacon} {delay : Option Int} {u : State} (ht : s.elapse dt = t) (hb : beaconOfBody f.body = b)
  (hdelay : t.measure p b f.behind = delay) (hu : ((t.noteBeacon p b).showDelay p delay).timeBeacon p b = u)
  (hstate : t.f .TLS_PSTAT_STATE p = 2 ∨ t.f .TLS_PSTAT_STATE p = 3) (hon : (t.noteBeacon p b).fb .TIME_CTRL_BEACON_EN = true)
  (htime : b.noTime = false)
include ht hb hdelay hu hstate hon htime

/-- A follower chooses its upstream port again, and follows this one if it is that port. -/
theorem effBeaconReceive_of_follower (hrole : u.fb .TIME_CTRL_ROLE = false) :
    effBeaconReceive p f dt s =
      let c := u.rechoose
      if c.f .TIME_STATUS_UPPORT = p then
        let up := tick b.txTime b.txFrac + delay.getD (toSigned 32 (c.f .TIME_PORT_DELAY p) * 65536 / 1000)
        (if delay.isSome then c.trackRate up else c).followUp (up - tick c.time.now c.time.frac)
      else c := by
  simp only [effBeaconReceive, ht, hb, hdelay, if_neg (beaconPort_takes hstate), hon, htime, hu, hrole, Bool.not_true, Bool.or_self,
    Bool.false_eq_true, if_false]

/-- The dealer notes a competing dealer of lower serial number. -/
theorem effBeaconReceive_of_dealer (hrole : u.fb .TIME_CTRL_ROLE = true) (hlower : b.dealer.toNat < u.fuse.serial)
    (hfirst : u.fb .TIME_STATUS_CONFLICT = false) :
    effBeaconReceive p f dt s =
      let v := (u.setF .TIME_STATUS_CONFLICT 0 1).incF .TIME_EVENTS_CONFLICTS 0
      { v with time := { v.time with conflictAt := v.eng } } := by
  simp only [effBeaconReceive, ht, hb, hdelay, if_neg (beaconPort_takes hstate), hon, htime, hu, hrole, hlower, hfirst, Bool.not_true, Bool.or_self,
    Bool.false_eq_true, if_false, if_true]

end
end

/-! ## BEACON_TIMEOUT (R46) -/

/-- A port that is up and has been silent for 2 µs is lost, and is no candidate any more. -/
theorem effBeaconTimeout_of_silent {s t : State} {p dt x : Nat} (ht : s.elapse dt = t) (hp : p < 16)
    (hquiet : (t.tls p).lastBeacon + 2000 ≤ t.eng) (hup : t.tlsUp p = true) (hlast : (t.tport p).lastAt = some x)
    (hvalid : t.fb .TIME_PORT_VALID p = true) (hlong : x + 2000 ≤ t.eng) :
    effBeaconTimeout p dt s = (t.setF .TIME_PORT_LOST p 1).dropBeacons p := by
  have hsilent : (decide ((t.tls p).lastBeacon + 2000 ≤ t.eng) && t.tlsUp p) = true := by rw [decide_eq_true hquiet, hup]; rfl
  have hcandidate : ((t.setF .TIME_PORT_LOST p 1).fb .TIME_PORT_VALID p && decide (x + 2000 ≤ (t.setF .TIME_PORT_LOST p 1).eng)) = true := by
    rw [State.fb, State.f_setF_ne t 1 (by omega) (by omega) (.inl (by decide))]
    exact Bool.and_eq_true_iff.mpr ⟨hvalid, decide_eq_true hlong⟩
  have hport : ((t.setF .TIME_PORT_LOST p 1).tport p).lastAt = some x := hlast
  simp only [effBeaconTimeout, ht, hsilent, hport, hcandidate, if_true]

/-! ## The statement about time events -/

/-- Settles O22: the beacons of a hub's ports do not meet, so each port sends as if alone; each other event's trigger holds, and its effect is
the state named. -/
theorem timeEventsRun : Obligations.TimeEventsRun := by
  refine ⟨?send, ?noTime, ?follower, ?dealer, ?timeout, ?holdover, ?conflict⟩
  case send =>
    intro h q dt s t p hh hq hup hlast
    have hp : p ∈ (List.range 4).map fun q => 4 * h + q := List.mem_map_of_mem (List.mem_range.mpr hq)
    have hrow : exec (.beaconSend h dt) s = s.becomes (effBeaconSend h dt s) := exec_eq_becomes (decide_eq_true hh) rfl rfl
    have hsent := foldl_beaconPort_of_mem (nodup_portsOfHub h) hp hup (beaconDue_of_sent hlast)
    rw [← effBeaconSend_eq_foldl] at hsent
    generalize effBeaconSend h dt s = k at hrow hsent
    exact ⟨_, hrow, hsent⟩
  case noTime =>
    intro p f dt s t b hp hlen hstate hoff
    exact exec_eq_becomes (beaconReceive_wellFormed hp hlen) rfl (effBeaconReceive_of_noTime rfl hstate hoff)
  case follower =>
    intro p f dt s t b delay u c hp hlen hstate hon htime hrole
    have heff := effBeaconReceive_of_follower (s := s) (t := t) (b := b) (delay := delay) (u := u) rfl rfl rfl rfl hstate hon htime hrole
    have hrow : ∀ {k : State}, effBeaconReceive p f dt s = k → exec (.beaconReceive p f dt) s = s.becomes k :=
      exec_eq_becomes (beaconReceive_wellFormed hp hlen) rfl
    clear_value delay u
    refine ⟨fun hother => hrow ?_, fun hthis d hmeasured => hrow ?_, fun hthis hnone => hrow ?_⟩
    · rw [heff, if_neg hother]
    · rw [heff, if_pos hthis, hmeasured]; rfl
    · rw [heff, if_pos hthis, hnone]; rfl
  case dealer =>
    intro p f dt s t b u hp hlen hstate hon htime hrole hlower hfirst
    have heff := effBeaconReceive_of_dealer (s := s) (t := t) (b := b) (u := u) rfl rfl rfl rfl hstate hon htime hrole hlower hfirst
    clear_value u
    refine ⟨_, exec_eq_becomes (beaconReceive_wellFormed hp hlen) rfl heff, ?_, rfl⟩
    exact (State.f_setF_ne _ (y := .TIME_STATUS_CONFLICT) _ (by decide) (by decide) (.inl (by decide))).trans (State.f_setF_same ..)
  case timeout =>
    intro p dt s x t hp hquiet hup hlast hvalid hlong
    exact exec_eq_becomes (decide_eq_true hp) rfl (effBeaconTimeout_of_silent rfl hp hquiet hup hlast hvalid hlong)
  case holdover =>
    intro dt s t hstate hlong
    exact exec_eq_becomes rfl rfl (if_pos ⟨hstate, hlong⟩)
  case conflict =>
    intro dt s t hconflict hlong
    exact exec_eq_becomes rfl rfl (if_pos (by rw [hconflict, decide_eq_true hlong]; rfl))

end Sys2Proof.Machine
end

-- Proofs of the statements about tables.
section
/-!
SUPPORT. TABLE_JOIN and the table events (R58 to R69, R382): what a command does once its checks have passed, and the effect of each event once
its trigger holds.
-/

namespace Sys2Proof.Machine

open Sys2Proof

/-! ## TABLE_JOIN (R58, R59) -/

/-- The operands of a TABLE_JOIN are no reserved encodings. -/
theorem tableJoin_bodyOk {e : Entry} (hsched : e.body 48 1 < 16) (hpolicy : e.body 49 1 < 3) (hlog : e.body 50 1 < 32)
    (hleave : e.body 51 1 < 2) (hzero : e.zero 52 12 = true) :
    (decide (16 ≤ e.body 48 1) || decide (3 ≤ e.body 49 1) || decide (32 ≤ e.body 50 1) || decide (2 ≤ e.body 51 1) || !e.zero 52 12) =
      false := by
  simp [hsched, hpolicy, hlog, hleave, hzero]

/-- The operands of a member's own TABLE_JOIN are in range, and its schedule is defined. -/
theorem tableJoin_rangeOk {e : Entry} {c : Sched} (hindex : e.body 8 4 < e.body 4 4) (hmembers : e.body 4 4 ≤ 131072)
    (hwait : e.body 12 4 ≤ 1000000) (harea : e.body 24 8 % 64 = 0) (hready : e.body 32 8 % 8 = 0) (hlog : 4 ≤ e.body 50 1)
    (hlog' : e.body 50 1 ≤ 16) (hdefined : c.defined = true) :
    (decide (e.body 4 4 = 0) || decide (131072 < e.body 4 4) || decide (e.body 4 4 ≤ e.body 8 4) || decide (1000000 < e.body 12 4) ||
      decide (e.body 24 8 % 64 ≠ 0) || decide (e.body 32 8 % 8 ≠ 0) || decide (e.body 50 1 < 4) || decide (16 < e.body 50 1) || !c.defined) =
      false := by
  simp [hindex, hmembers, hwait, harea, hready, hlog, hlog', hdefined, Nat.ne_of_gt (Nat.zero_lt_of_lt hindex)]

/-- The module's time lets it be in tables: it is LOCKED or the dealer. -/
theorem tableTime_ok {s : State} (h : s.f .TIME_STATUS_STATE = 2 ∨ s.f .TIME_STATUS_STATE = 5) :
    (decide (s.f .TIME_STATUS_STATE ≠ 2) && decide (s.f .TIME_STATUS_STATE ≠ 5)) = false := by
  rcases h with h | h <;> rw [h] <;> rfl

/-! ## TABLE_CTL (R59, R68) -/

section
variable {s t : State} {p id src dt : Nat} {m : TableMsg}

theorem joinArrives_of_forming (hlive : (s.table (tkey p id)).live = true) (hformed : (s.table (tkey p id)).formed = false) :
    s.joinArrives p id src m = s.takeJoin p id m := by
  simp only [State.joinArrives, hlive, hformed, Bool.not_false, Bool.and_self, if_true]

theorem joinArrives_of_refused (hlive : (s.table (tkey p id)).live = false) (hearly : joinLate m s.now = false)
    (hrefused : (s.table (tkey p id)).mismatch = true) : s.joinArrives p id src m = s.answerJoin p id src stPARAM := by
  simp only [State.joinArrives, hlive, hearly, hrefused, Bool.false_and, Bool.false_eq_true, if_false, if_true]

theorem joinArrives_of_waiting (hlive : (s.table (tkey p id)).live = false) (hearly : joinLate m s.now = false)
    (hrefused : (s.table (tkey p id)).mismatch = false) :
    s.joinArrives p id src m = s.setTable (tkey p id) { s.table (tkey p id) with early := (s.table (tkey p id)).early ++ [(src, m)] } := by
  simp only [State.joinArrives, hlive, hearly, hrefused, Bool.false_and, Bool.false_eq_true, if_false]

/-- A loss ends a table of this module, unless it refuses one being formed. -/
theorem effTableCtl_loss_of_live (ht : s.elapse dt = t) (hlive : (t.table (tkey p id)).live = true) {st : Nat}
    (hst : (t.table (tkey p id)).formed = true ∨ st ≠ stPARAM) :
    effTableCtl p id src (.loss st) dt s = t.endTable p id st (.loss st) (some src) := by
  have hend : ((t.table (tkey p id)).live && !(t.table (tkey p id)).formed && st == stPARAM) = false := by
    rcases hst with h | h <;> simp [h]
  subst ht
  exact (if_neg (Bool.eq_false_iff.mp hend)).trans (if_pos hlive)

theorem effTableCtl_loss_of_forming (ht : s.elapse dt = t) (hlive : (t.table (tkey p id)).live = true)
    (hformed : (t.table (tkey p id)).formed = false) :
    effTableCtl p id src (.loss stPARAM) dt s = t.refuseTable p id stPARAM (some src) := by
  simp only [effTableCtl, ht, hlive, hformed, Bool.not_false, Bool.and_self, beq_self_eq_true, if_true]

/-- Without a member here, a loss answers every join that waits. -/
theorem effTableCtl_loss_of_free (ht : s.elapse dt = t) (hfree : (t.table (tkey p id)).live = false) (st : Nat) :
    effTableCtl p id src (.loss st) dt s = t.answerEarly p id st fun _ => true := by
  simp only [effTableCtl, ht, hfree, Bool.false_and, Bool.false_eq_true, if_false]

end

/-! ## Deadlines, steps, markers and records (R61 to R67) -/

section
variable {s t : State} {p id dt : Nat} {x : TTable} (ht : s.elapse dt = t) (hx : t.table (tkey p id) = x)
include ht hx

/-- An unformed table ends at its root with LATE at the boundary of FIRST_DEAL, and its late joins are answered. -/
theorem effTableJoinDeadline_of_unformed (hlive : x.live = true) (hformed : x.formed = false) (hroot : x.index = 0)
    (hdefined : (t.tableSched p x).defined = true) (hover : (t.tableSched p x).boundary x.firstDeal ≤ t.now) :
    effTableJoinDeadline p id dt s =
      (let v := t.endTable p id stLATE (.loss stLATE) none
       if (v.table (tkey p id)).live then v else v.answerEarly p id stLATE fun m => joinLate m v.now) := by
  simp only [effTableJoinDeadline, ht, hx, hlive, hformed, hroot, hdefined, State.joinOver, hover, Bool.not_false, beq_self_eq_true,
    decide_true, Bool.and_self, if_true]

/-- A step whose boundary has come is evaluated by the ready word. -/
theorem effStepEvaluate_of_due {w : Nat} {v : State} (hrunning : x.running = true) (hnew : x.evaluated = false)
    (hdefined : (t.tableSched p x).defined = true) (hdue : t.stepAt p x ≤ t.now) (hread : t.readReady p id x = (.done w, v)) :
    effStepEvaluate p id dt s =
      (let y := v.setTable (tkey p id) { v.table (tkey p id) with evaluated := true, readAt := v.eng }
       (if (v.table (tkey p id)).step < w then y.postArrived p id else y.postLate p id).settleTable p id) := by
  simp only [effStepEvaluate, ht, hx, hrunning, hnew, hdefined, hdue, Bool.not_false, decide_true, Bool.and_self, if_true, State.tryReady,
    hread, decide_eq_true_eq]

/-- A microsecond after its last read the ready word is read again for every step that the member is late for. -/
theorem effReadyReread_of_due {w : Nat} {v : State} (hrunning : x.running = true) (howes : x.owes ≠ []) (hdue : x.readAt + 1000 ≤ t.eng)
    (hread : t.readReady p id x = (.done w, v)) :
    effReadyReread p id dt s =
      (let y := v.table (tkey p id)
       let met := y.owes.filter fun k => decide (k < w)
       let z := v.setTable (tkey p id)
         { y with readAt := v.eng, owes := y.owes.filter fun k => !decide (k < w)
                  discarded := y.discarded + (met.filter fun k => k != y.step).length }
       (if met.contains y.step then z.postArrived p id else z).settleTable p id) := by
  have hlate : x.owes.isEmpty = false := by simpa using howes
  simp only [effReadyReread, ht, hx, hrunning, hlate, hdue, Bool.not_false, decide_true, Bool.and_self, if_true, State.tryReady,
    hread, Bool.false_eq_true, if_false]

/-- The root completes with LATE a step that WAIT_LIMIT has passed over. -/
theorem effStepWaitLimit_of_over (hlive : x.live = true) (hformed : x.formed = true) (hwriting : x.writing = none) (hroot : x.index = 0)
    (hpolicy : x.policy ≠ 2) (hlimit : x.waitLimit ≠ 0) (hdefined : (t.tableSched p x).defined = true)
    (hover : t.stepAt p x + x.waitLimit * 1000 ≤ t.now) : effStepWaitLimit p id dt s = t.completeStep p id stLATE := by
  simp only [effStepWaitLimit, ht, hx, hlive, hformed, hwriting, hroot, bne_iff_ne.mpr hpolicy, bne_iff_ne.mpr hlimit, hdefined, hover,
    Option.isNone_none, beq_self_eq_true, decide_true, Bool.and_self, if_true]

section
variable {src : Nat} {m : MarkerMsg} (hlive : x.live = true) (hformed : x.formed = true) (hwriting : x.writing = none)
  (hstep : m.step = x.step) (hchild : x.childNodes.contains src = true)
include hlive hformed hwriting hstep hchild

theorem effMarker_of_late (hlate : m.isLate = true) :
    effMarker p id src m dt s =
      ((t.setTable (tkey p id) { x with lateCount := x.lateCount + m.lateCount, lateIdx := mergeLate x.lateIdx m.lateIdx }).sendMark p id
        m).settleTable p id := by
  simp only [effMarker, ht, hx, hlive, hformed, hwriting, hstep, hchild, hlate, Option.isNone_none, beq_self_eq_true, Bool.and_self, if_true]

theorem effMarker_of_arrived (harrived : m.isLate = false) (hnew : x.doneKids.contains src = false) :
    effMarker p id src m dt s =
      ((t.setTable (tkey p id) { x with doneKids := src :: x.doneKids, arrived := x.arrived + m.arrived }).subtreeStep p id).settleTable
        p id := by
  simp only [effMarker, ht, hx, hlive, hformed, hwriting, hstep, hchild, harrived, hnew, Option.isNone_none, beq_self_eq_true, Bool.and_self,
    Bool.false_eq_true, if_true, if_false]

end

/-- A step record in order has its held time counted and joins those to be written. -/
theorem effRecord_of_next {y : StepRec} (hlive : x.live = true) (hformed : x.formed = true) (hbelow : x.index ≠ 0) (hend : x.ending = none)
    (hlast : x.writing.any (·.ending) = false) (hnext : y.step = x.step + (if x.writing.isSome then 1 else 0) + x.recs.length) :
    effRecord p id y dt s =
      (let c := t.countHeld p id y
       (c.setTable (tkey p id) { c.table (tkey p id) with recs := x.recs ++ [y] }).settleRecs p id) := by
  have horder : y.step = x.step + b2n x.writing.isSome + x.recs.length := hnext
  simp only [effRecord, ht, hx, hlive, hformed, bne_iff_ne.mpr hbelow, hend, hlast, horder, Option.isNone_none, beq_self_eq_true,
    Bool.not_false, Bool.and_self, if_true]

/-- An acknowledgement that a neighbour owes beyond the remote limit loses the table. -/
theorem effTableAckTimeout_of_owed {nbr at_ : Nat} (hlive : x.live = true) (howed : (nbr, at_) ∈ x.owed)
    (hover : at_ + (if t.f .TLS_CTRL_REMOTE_US 0 = 0 then 1000 else t.f .TLS_CTRL_REMOTE_US 0) * 1000 ≤ t.eng) :
    effTableAckTimeout p id nbr dt s = t.endTable p id stREMOTELOST (.loss stREMOTELOST) (some nbr) := by
  have hany : (x.owed.any fun o => o.1 == nbr &&
      decide (o.2 + (if t.f .TLS_CTRL_REMOTE_US 0 = 0 then 1000 else t.f .TLS_CTRL_REMOTE_US 0) * 1000 ≤ t.eng)) = true :=
    List.any_eq_true.mpr ⟨_, howed, by rw [decide_eq_true hover, beq_self_eq_true]; rfl⟩
  simp only [effTableAckTimeout, ht, hx, hlive, hany, Bool.and_self, if_true]

end

/-! ## The statement about tables -/

/-- Settles O23: a TABLE_JOIN that starts does its body, whose checks the hypotheses pass; each event's trigger holds, and its effect is the
state named. -/
theorem tableCommandsRun : Obligations.TableCommandsRun := by
  refine ⟨?join, ?leave, ?repeated, ?ctl, ?step, ?marker, ?record, ?overdue⟩
  case join =>
    intro r pos s t u v w e ly area nodes
    dsimp only
    intro hbegun hsched hpolicy hlog hlog' hleave hzero hindex hmembers hwait harea hready hdefined hfree hrefused hpart hmodule htime hxlate
      hheld hnodes
    have hbody := tableJoin_bodyOk hsched hpolicy (by omega) (by omega) hzero
    have hrange := tableJoin_rangeOk hindex hmembers hwait harea hready hlog hlog' hdefined
    have hjoin : bitOf (e.body 51 1) 0 = false := by rw [hleave]; rfl
    exact exec_eq_becomesR_of_begun hbegun rfl rfl (by
      simp only [hbody, hjoin, hrange, hfree, hrefused, Nat.not_le.mpr hpart, Nat.not_le.mpr hmodule, tableTime_ok htime, hxlate, hheld, hnodes,
        Bool.false_and, decide_false, Bool.or_self, Bool.false_eq_true, if_false])
  case leave =>
    intro r pos s t e
    dsimp only
    intro hbegun hsched hpolicy hlog hleave hzero hlive htime
    have hbody := tableJoin_bodyOk hsched hpolicy hlog (by omega) hzero
    have hleaves : bitOf (e.body 51 1) 0 = true := by rw [hleave]; rfl
    exact exec_eq_becomesR_of_begun hbegun rfl rfl (by
      simp only [hbody, hleaves, hlive, tableTime_ok htime, Bool.not_true, Bool.false_eq_true, if_false, if_true])
  case repeated =>
    intro r pos s t e
    dsimp only
    intro hbegun hsched hpolicy hlog hlog' hleave hzero hindex hmembers hwait harea hready hdefined hlive hformed hsame hother
    have hbody := tableJoin_bodyOk hsched hpolicy (by omega) (by omega) hzero
    have hrange := tableJoin_rangeOk hindex hmembers hwait harea hready hlog hlog' hdefined
    have hjoin : bitOf (e.body 51 1) 0 = false := by rw [hleave]; rfl
    exact exec_eq_becomesR_of_begun hbegun rfl rfl (by
      simp only [hbody, hjoin, hrange, hlive, hformed, hsame, bne_iff_ne.mpr hother, Bool.not_false, decide_true, Bool.and_self,
        Bool.false_eq_true, if_false, if_true])
  case ctl =>
    intro p id src dt s u t hok
    have hrow : ∀ {m : TableMsg} {k : State}, effTableCtl p id src m dt s = k → exec (.tableCtl p id src m dt) s = s.becomesR k :=
      exec_eq_becomesR hok rfl
    refine ⟨?forming, ?refused, ?waiting, ?start, ?loss, ?lossForming, ?lossFree, ?leaves⟩
    case forming =>
      intro ix n wl fd pol per anc hlive hformed
      exact hrow (joinArrives_of_forming hlive hformed)
    case refused =>
      intro ix n wl fd pol per anc m hlive hearly hrefused
      exact hrow (joinArrives_of_refused hlive hearly hrefused)
    case waiting =>
      intro ix n wl fd pol per anc m hlive hrefused hearly
      exact hrow (joinArrives_of_waiting hlive hearly hrefused)
    case start =>
      intro hlive hformed hbelow
      exact hrow (if_pos (by rw [hlive, hformed, bne_iff_ne.mpr hbelow]; rfl))
    case loss =>
      intro hlive st hst
      exact hrow (effTableCtl_loss_of_live rfl hlive hst)
    case lossForming =>
      intro hlive hformed
      exact hrow (effTableCtl_loss_of_forming rfl hlive hformed)
    case lossFree =>
      intro hfree st
      exact hrow (effTableCtl_loss_of_free rfl hfree st)
    case leaves =>
      intro hlive
      exact hrow (if_pos hlive)
  case step =>
    intro p id dt s u t c hok hlive hdefined
    refine ⟨fun hformed hroot hover => ?_, fun w v hrunning hnew hdue hread => ?_, fun w v hrunning howes hdue hread => ?_,
      fun hformed hwriting hroot hpolicy hlimit hover => ?_⟩
    · exact exec_eq_becomes hok rfl (effTableJoinDeadline_of_unformed rfl rfl hlive hformed hroot hdefined hover)
    · exact exec_eq_becomesR hok rfl (effStepEvaluate_of_due rfl rfl hrunning hnew hdefined hdue hread)
    · exact exec_eq_becomesR hok rfl (effReadyReread_of_due rfl rfl hrunning howes hdue hread)
    · exact exec_eq_becomesR hok rfl (effStepWaitLimit_of_over rfl rfl hlive hformed hwriting hroot hpolicy hlimit hdefined hover)
  case marker =>
    intro p id src m dt s u t hok hlive hformed hwriting hstep hchild
    exact ⟨fun hlate => exec_eq_becomesR hok rfl (effMarker_of_late rfl rfl hlive hformed hwriting hstep hchild hlate),
      fun harrived hnew => exec_eq_becomesR hok rfl (effMarker_of_arrived rfl rfl hlive hformed hwriting hstep hchild harrived hnew)⟩
  case record =>
    intro p id x dt s u t c hok hlive hformed hbelow hend hlast hnext
    exact exec_eq_becomesR hok rfl (effRecord_of_next rfl rfl hlive hformed hbelow hend hlast hnext)
  case overdue =>
    intro p id nbr dt at_ s u t hok hlive howed hover
    exact exec_eq_becomesR hok rfl (effTableAckTimeout_of_owed rfl rfl hlive howed hover)

end Sys2Proof.Machine
end

-- Proofs of the statements about generic ring commands.
section
/-!
SUPPORT. NOP, FENCE, SIGNAL, WAIT_FLAG, WAIT_TIME and COPY_INLINE (R103 to R108): the body of each command once its checks have passed, and
what the start and the end of a command leave alone.
-/

namespace Sys2Proof.Machine

open Sys2Proof

/-! ## Tally entries of other positions and rings -/

/-- Changing an entry leaves the ring's other positions alone. -/
theorem entry?_modEntry_pos_ne (s : State) (r : Nat) {pos p : Nat} {f : Entry → Entry} (hpos : ∀ e, (f e).pos = e.pos) (h : p ≠ pos) :
    (s.modEntry r pos f).entry? r p = s.entry? r p := by
  have hf : ∀ e : Entry, ((if e.pos == pos then f e else e).pos == p) = (e.pos == p) ∧
      (e.pos = p → (if e.pos == pos then f e else e) = e) := by
    intro e
    by_cases he : e.pos = pos
    · simp [he, hpos, h.symm]
    · simp [he]
  unfold State.modEntry State.entry?
  rw [State.setRing_ring]
  induction (s.ring r).entries with
  | nil => rfl
  | cons e l ih =>
    obtain ⟨hsame, hkept⟩ := hf e
    simp only [List.map_cons, List.find?_cons, hsame, ih]
    split
    · next hp => rw [hkept (beq_iff_eq.mp hp)]
    · rfl

theorem ring_modEntry_ne (s : State) {r q : Nat} (pos : Nat) (f : Entry → Entry) (h : q ≠ r) : (s.modEntry r pos f).ring q = s.ring q :=
  State.setRing_ring_ne s _ h

@[simp] theorem modEntry_hostMem (s : State) (r pos : Nat) (f : Entry → Entry) : (s.modEntry r pos f).hostMem = s.hostMem := rfl

/-! ## The start of a command -/

/-- A command without a flag to translate that R96 lets start, and whose header passes, begins on the state that marks it RUNNING. -/
theorem begun_of_noFlag {s : State} {r pos op : Nat} {e : Entry} (hpos : okPos r pos = true) (he : s.entry? r pos = some e)
    (hop : e.op = op) (hflag : e.flagEn = false) (hstart : s.canStart r e = true) (hhead : (s.markRunning r pos).headCheck r e = none) :
    s.begun r pos op = some (s.markRunning r pos, e) := by
  have hgo : (okPos r pos && e.op == op && s.canStart r e && ((s.markRunning r pos).headCheck r e).isNone) = true := by
    simp [hpos, hop, hstart, hhead]
  have htaken : (s.markRunning r pos).flagTaken r pos e = some (s.markRunning r pos, e) :=
    if_pos (by rw [hflag]; rfl)
  simp only [State.begun, he, hgo, htaken, if_true]

/-- A command that may start has no result and no stalled record. -/
theorem open_of_canStart {s : State} {r : Nat} {e : Entry} (h : s.canStart r e = true) : e.res = none ∧ e.stall = none := by
  simp only [State.canStart, Bool.and_eq_true, Option.isNone_iff_eq_none] at h
  obtain ⟨⟨⟨-, hres⟩, hstall⟩, -⟩ := h
  exact ⟨hres, hstall⟩

/-- The entry of a command that starts at `s`: RUNNING, with the times, the number and the mode of its start unless it ran already. -/
def State.startedEntry (s : State) (r : Nat) (e : Entry) : Entry :=
  if e.st == .running then { e with phase := 0 }
  else
    let m := s.launchMode (s.ringPart r) s.now
    { e with st := .running, phase := 0, startAt := s.eng, pollAt := s.eng, startNo := s.nextKernel, epoch := m.1, mode := m.2 }

theorem markRunning_eq_modEntry (s : State) (r pos : Nat) :
    s.markRunning r pos = State.modEntry { s with nextKernel := s.nextKernel + 1 } r pos (s.startedEntry r) := rfl

@[simp] theorem startedEntry_pos (s : State) (r : Nat) (e : Entry) : (s.startedEntry r e).pos = e.pos := by
  unfold State.startedEntry; split <;> rfl
@[simp] theorem startedEntry_res (s : State) (r : Nat) (e : Entry) : (s.startedEntry r e).res = e.res := by
  unfold State.startedEntry; split <;> rfl
@[simp] theorem startedEntry_stall (s : State) (r : Nat) (e : Entry) : (s.startedEntry r e).stall = e.stall := by
  unfold State.startedEntry; split <;> rfl
@[simp] theorem startedEntry_st (s : State) (r : Nat) (e : Entry) : (s.startedEntry r e).st = .running := by
  unfold State.startedEntry
  split
  · next hrunning => exact beq_iff_eq.mp hrunning
  · rfl

theorem entry?_markRunning {s : State} {r pos : Nat} {e : Entry} (he : s.entry? r pos = some e) :
    (s.markRunning r pos).entry? r pos = some (s.startedEntry r e) := by
  rw [markRunning_eq_modEntry, entry?_modEntry _ r pos _ (startedEntry_pos s r)]
  exact congrArg _ he

theorem entry?_markRunning_ne (s : State) (r : Nat) {pos p : Nat} (h : p ≠ pos) : (s.markRunning r pos).entry? r p = s.entry? r p := by
  rw [markRunning_eq_modEntry, entry?_modEntry_pos_ne _ r (startedEntry_pos s r) h]
  rfl

theorem ring_markRunning_ne (s : State) {r q : Nat} (pos : Nat) (h : q ≠ r) : (s.markRunning r pos).ring q = s.ring q :=
  ring_modEntry_ne _ pos _ h

/-- The start of a command writes no register, no memory and not the clock. -/
theorem markRunning_frame (s : State) (r pos : Nat) :
    let t := s.markRunning r pos
    t.regs = s.regs ∧ t.mem = s.mem ∧ t.hostMem = s.hostMem ∧ t.time = s.time := ⟨rfl, rfl, rfl, rfl⟩

/-! ## The end of a command -/

/-- The result with which an entry ends: a re-execution that would end with DONE ends with REPLAYED (R428). -/
def Entry.finalResult (e : Entry) (x : Result) : Result :=
  if e.retried && x.status == stDONE then { x with status := stREPLAYED } else x

/-- The entry with a final result, unless it has one already. -/
def Entry.ended (x : Result) (e : Entry) : Entry :=
  if e.res.isSome then e else { e with res := some (e.finalResult x), stall := none }

@[simp] theorem Entry.ended_pos (x : Result) (e : Entry) : (e.ended x).pos = e.pos := by
  unfold Entry.ended; split <;> rfl

theorem Entry.ended_of_open (x : Result) {e : Entry} (hres : e.res = none) :
    e.ended x = { e with res := some (e.finalResult x), stall := none } := if_neg (by rw [hres]; exact Bool.false_ne_true)

theorem finish_eq_modEntry (s : State) (r pos : Nat) (x : Result) :
    s.finish r pos x = (s.keepStall r pos).modEntry r pos (Entry.ended x) := rfl

@[simp] theorem keepStall_rings (s : State) (r pos : Nat) : (s.keepStall r pos).rings = s.rings := by
  unfold State.keepStall; split <;> rfl
@[simp] theorem keepStall_hostMem (s : State) (r pos : Nat) : (s.keepStall r pos).hostMem = s.hostMem := by
  unfold State.keepStall; split <;> rfl

theorem ring_keepStall (s : State) (r pos q : Nat) : (s.keepStall r pos).ring q = s.ring q := by
  rw [State.ring, State.ring, keepStall_rings]

theorem entry?_keepStall (s : State) (r pos p : Nat) : (s.keepStall r pos).entry? r p = s.entry? r p := by
  rw [State.entry?, State.entry?, ring_keepStall]

theorem entry?_finish {s : State} {r pos : Nat} {e : Entry} (he : s.entry? r pos = some e) (x : Result) :
    (s.finish r pos x).entry? r pos = some (e.ended x) := by
  rw [finish_eq_modEntry, entry?_modEntry _ r pos _ (Entry.ended_pos x), entry?_keepStall, he, Option.map_some]

theorem entry?_finish_ne (s : State) (r : Nat) {pos p : Nat} (x : Result) (h : p ≠ pos) :
    (s.finish r pos x).entry? r p = s.entry? r p :=
  (entry?_modEntry_pos_ne _ r (Entry.ended_pos x) h).trans (entry?_keepStall s r pos p)

theorem ring_finish_ne (s : State) {r q : Nat} (pos : Nat) (x : Result) (h : q ≠ r) : (s.finish r pos x).ring q = s.ring q :=
  (ring_modEntry_ne _ pos _ h).trans (ring_keepStall s r pos q)

@[simp] theorem finish_hostMem (s : State) (r pos : Nat) (x : Result) : (s.finish r pos x).hostMem = s.hostMem := by
  rw [finish_eq_modEntry, modEntry_hostMem, keepStall_hostMem]

/-- A command that has not stalled ends without a write to a register, to memory or to the clock. -/
theorem doneWith_frame {s : State} {r pos : Nat} (hgoing : (s.entry? r pos).bind (·.stall) = none) (result vis detail : Nat) :
    let t := s.doneWith r pos result vis detail
    t.regs = s.regs ∧ t.mem = s.mem ∧ t.hostMem = s.hostMem ∧ t.time = s.time :=
  ⟨finish_regs hgoing _, finish_mem _ _ _ _, finish_hostMem _ _ _ _, finish_time _ _ _ _⟩

/-! ## NOP (R108) -/

theorem exec_nop_of_begun {s t : State} {r pos : Nat} {e : Entry} (h : s.begun r pos 0x00 = some (t, e)) :
    exec (.nop r pos) s = s.becomes (t.doneWith r pos) := exec_eq_becomes_of_begun h rfl rfl rfl

/-- Settles O14: the NOP begins on the state that marks it RUNNING, and its end gives that entry its result and changes nothing else. -/
theorem nopCompletesDone : Obligations.NopCompletesDone := by
  intro r pos s e0 he hflag hop hpos hstart hhead
  obtain ⟨hres, hstall⟩ := open_of_canStart hstart
  have hstarted := entry?_markRunning he
  have hopen : (s.startedEntry r e0).res = none := (startedEntry_res s r e0).trans hres
  have hgoing : ((s.markRunning r pos).entry? r pos).bind (·.stall) = none := by
    rw [hstarted]
    exact (startedEntry_stall s r e0).trans hstall
  obtain ⟨hregs0, hmem0, hhost0, htime0⟩ := markRunning_frame s r pos
  obtain ⟨hregs, hmem, hhost, htime⟩ := doneWith_frame hgoing 0 0 0
  refine ⟨_, exec_nop_of_begun (begun_of_noFlag hpos he hop hflag hstart hhead), ⟨_, entry?_finish hstarted _, ?_⟩,
    fun p hp => (entry?_finish_ne _ r _ hp).trans (entry?_markRunning_ne s r hp),
    fun q hq => (ring_finish_ne _ pos _ hq).trans (ring_markRunning_ne s pos hq),
    hregs.trans hregs0, hmem.trans hmem0, hhost.trans hhost0, htime.trans htime0, rfl⟩
  rw [Entry.ended_of_open _ hopen]
  refine ⟨startedEntry_st s r e0, congrArg some ?_⟩
  unfold Entry.finalResult
  cases (s.startedEntry r e0).retried <;> rfl

/-! ## FENCE, SIGNAL, WAIT_FLAG and WAIT_TIME (R103 to R106) -/

section
variable {s t u : State} {r pos : Nat} {e : Entry} {l : Loc}

theorem exec_fence_of_begun (h : s.begun r pos 0x01 = some (t, e)) (hscope : e.body 0 1 < 64) (hzero : e.zero 1 63 = true) :
    exec (.fence r pos) s = s.becomes ((t.sendFlush r pos (t.scopePorts r (e.body 0 1))).doneWith r pos 0 (e.body 0 1)) := by
  have hlegal : (decide (64 ≤ e.body 0 1) || !e.zero 1 63) = false := by simp [hscope, hzero]
  exact exec_eq_becomes_of_begun h rfl rfl (if_neg (Bool.eq_false_iff.mp hlegal))

/-- A SIGNAL with a legal aligned body, whose address is held and may be written so, writes or flushes first. -/
theorem exec_signal_of_begun (h : s.begun r pos 0x02 = some (t, e)) (hop : e.body 16 1 < 3) (hscope : e.body 17 1 < 64)
    (hzero : e.zero 18 46 = true) (haligned : e.body 0 8 % (if e.body 16 1 = 2 then 4 else 8) = 0)
    (hxlate : t.cmdXlate (t.cmdCache r) r (e.body 0 8) (if e.body 16 1 = 1 then 4 else 2) = (.ok l, u))
    (hhost : e.body 16 1 = 1 → l.port? = none) :
    exec (.signal r pos) s = s.becomesR
      (if u.scopePorts r (e.body 17 1) = [] then
        (u.modEntry r pos fun x => { x with holds := [u.holdOf r (e.body 0 8) l] }).signalWrite r pos e l
      else
        ((u.modEntry r pos fun x => { x with holds := [u.holdOf r (e.body 0 8) l] }).modEntry r pos fun x => { x with phase := 3 }).sendFlush
          r pos (u.scopePorts r (e.body 17 1))) := by
  have hlegal : (decide (3 ≤ e.body 16 1) || decide (64 ≤ e.body 17 1) || !e.zero 18 46) = false := by simp [hop, hscope, hzero]
  have hplace : (decide (e.body 16 1 = 1) && l.port?.isSome) = false := by
    by_cases hatomic : e.body 16 1 = 1 <;> simp [hatomic, hhost]
  exact exec_eq_becomesR_of_begun h rfl rfl
    (by simp only [hlegal, haligned, hxlate, hplace, ne_eq, not_true_eq_false, Bool.false_eq_true, if_false])

theorem exec_waitFlag_of_begun (h : s.begun r pos 0x03 = some (t, e)) (hcond : e.body 32 1 < 4) (hzero : e.zero 33 31 = true)
    (haligned : e.body 0 8 % 8 = 0) (hmask : e.body 16 8 ≠ 0) (hvalue : e.body 8 8 &&& e.body 16 8 = e.body 8 8)
    (hpoll : e.body 28 4 = 0 ∨ (100 ≤ e.body 28 4 ∧ e.body 28 4 ≤ 1000000))
    (hxlate : t.cmdXlate (t.cmdCache r) r (e.body 0 8) 1 = (.ok l, u)) :
    exec (.waitFlag r pos) s = s.becomesR (u.pollWait r pos e (u.holdOf r (e.body 0 8) l)) := by
  have hlegal : (decide (4 ≤ e.body 32 1) || !e.zero 33 31) = false := by simp [hcond, hzero]
  have hinterval : (decide (e.body 28 4 ≠ 0) && (decide (e.body 28 4 < 100) || decide (1000000 < e.body 28 4))) = false := by
    simp only [Bool.and_eq_false_iff, Bool.or_eq_false_iff, decide_eq_false_iff_not]
    omega
  have hfields : (decide (e.body 0 8 % 8 ≠ 0) || decide (e.body 16 8 = 0) || decide (e.body 8 8 &&& e.body 16 8 ≠ e.body 8 8) ||
      (decide (e.body 28 4 ≠ 0) && (decide (e.body 28 4 < 100) || decide (1000000 < e.body 28 4)))) = false := by
    rw [hinterval]
    simp [haligned, hmask, hvalue]
  exact exec_eq_becomesR_of_begun h rfl rfl (by simp only [hlegal, hfields, hxlate, Bool.false_eq_true, if_false])

theorem exec_waitTime_of_begun (h : s.begun r pos 0x04 = some (t, e)) (hzero : e.zero 8 56 = true) :
    exec (.waitTime r pos) s = s.becomes (if e.body 0 8 ≤ t.now then t.doneWith r pos t.now else t) :=
  exec_eq_becomes_of_begun h rfl rfl (if_neg (by rw [hzero]; exact Bool.false_ne_true))

/-! ## COPY_INLINE (R107) -/

/-- A COPY_INLINE whose last byte has been written, with no window answer to await, flushes and ends. -/
theorem exec_copyInline_of_written {x : Entry} (h : s.begun r pos 0x11 = some (t, e)) (hzero : e.zero 10 54 = true)
    (hlen : e.body 8 2 ≤ 192) (hpad : e.zero (64 + e.body 8 2) (divUp (e.body 8 2) 64 * 64 - e.body 8 2) = true) (hclosed : e.remoteOpen = 0)
    (hspans : (((t.chkBegin r pos 1).chkHub r pos (some (t.ringHub r))).chkFeed r pos 0 (sliceB e.pkt 128 (e.body 8 2))).writeSpans r pos
      (e.body 0 8) e.prog (sliceB e.pkt 128 (e.body 8 2)) = (true, u))
    (hx : u.entry? r pos = some x) (hactive : x.active = true) (hanswered : x.phase ≠ 4 ∨ x.remoteOpen = 0) :
    exec (.copyInline r pos) s = s.becomesR
      (((u.flushPorts r pos x x.hostW).2.sendFlush r pos (u.flushPorts r pos x x.hostW).1).doneWith r pos (x.body 8 2) 0x3F) := by
  have hlegal : (!e.zero 10 54 || !e.zero (64 + e.body 8 2) (divUp (e.body 8 2) 64 * 64 - e.body 8 2)) = false := by simp [hzero, hpad]
  have hends : (!x.active || (decide (x.phase = 4) && decide (x.remoteOpen ≠ 0))) = false := by
    rcases hanswered with hphase | hopen
    · simp [hactive, hphase]
    · simp [hactive, hopen]
  exact exec_eq_becomesR_of_begun h rfl rfl (by
    simp only [hlegal, Nat.not_lt.mpr hlen, hclosed, hspans, hx, hends, ne_eq, not_true_eq_false, Bool.false_eq_true, if_false]
    rfl)

end

/-! ## The statement about generic ring commands -/

/-- Settles O13: a command that starts does its body, whose checks the hypotheses pass. -/
theorem ringControlCommandsRun : Obligations.RingControlCommandsRun :=
  ⟨fun _ _ _ _ _ h => exec_nop_of_begun h,
   fun _ _ _ _ _ h hscope hzero => exec_fence_of_begun h hscope hzero,
   fun _ _ _ _ _ _ _ h hop hscope hzero haligned hxlate hhost => exec_signal_of_begun h hop hscope hzero haligned hxlate hhost,
   fun _ _ _ _ _ _ _ h hcond hzero haligned hmask hvalue hpoll hxlate =>
    exec_waitFlag_of_begun h hcond hzero haligned hmask hvalue hpoll hxlate,
   fun _ _ _ _ _ h hzero => exec_waitTime_of_begun h hzero,
   fun _ _ _ _ _ _ _ h hzero hlen hpad hclosed hspans hx hactive hanswered =>
    exec_copyInline_of_written h hzero hlen hpad hclosed hspans hx hactive hanswered⟩

end Sys2Proof.Machine
end

-- Proofs of the statements about ring events.
section
/-!
SUPPORT. Ring events (R84 to R97, R105, R106, R109): scans, producer reads, fetches, the tally, delivery in order and the waits.
-/

namespace Sys2Proof.Machine

open Sys2Proof

/-! ## What the counts of the tally leave alone (R95, R110) -/

/-- `t` has the rings, the memories and the consumer positions of `s`. -/
structure TallySame (s t : State) : Prop where
  rings : t.rings = s.rings
  mem : t.mem = s.mem
  hostMem : t.hostMem = s.hostMem
  done : ∀ r < 2 ^ 20, t.f .RING_DONE_POS r = s.f .RING_DONE_POS r

theorem TallySame.refl (s : State) : TallySame s s := ⟨rfl, rfl, rfl, fun _ _ => rfl⟩

theorem TallySame.trans {s t u : State} (h : TallySame s t) (h' : TallySame t u) : TallySame s u :=
  ⟨h'.rings.trans h.rings, h'.mem.trans h.mem, h'.hostMem.trans h.hostMem, fun r hr => (h'.done r hr).trans (h.done r hr)⟩

theorem TallySame.ring {s t : State} (h : TallySame s t) (q : Nat) : t.ring q = s.ring q := by rw [State.ring, State.ring, h.rings]

theorem TallySame.foldl {α : Type} {g : State → α → State} {l : List α} (h : ∀ t, ∀ x ∈ l, TallySame t (g t x)) (s : State) :
    TallySame s (l.foldl g s) := by
  induction l generalizing s with
  | nil => exact .refl s
  | cons x l ih =>
    have hrest : ∀ t, ∀ y ∈ l, TallySame t (g t y) := fun t y hy => h t y (List.mem_cons_of_mem x hy)
    exact (h s x List.mem_cons_self).trans (ih hrest (g s x))

/-- A write to a field other than the consumer position. -/
theorem tallySame_setF (s : State) {x : Fld} {i : Nat} (v : Nat) (hi : i < 2 ^ 20) (hx : x ≠ .RING_DONE_POS) : TallySame s (s.setF x i v) :=
  ⟨rfl, rfl, rfl, fun _ hr => State.f_setF_ne s v hi hr (.inl hx.symm)⟩

theorem tallySame_syncRing (s : State) {r : Nat} (hr : r < 2 ^ 20) : TallySame s (s.syncRing r) :=
  (tallySame_setF s _ hr (by decide)).trans (tallySame_setF _ _ hr (by decide))

theorem tallySame_syncWait (s : State) {r : Nat} (hr : r < 2 ^ 20) : TallySame s (s.syncWait r) := tallySame_setF s _ hr (by decide)

theorem tallySame_tallySync (s old : State) {r : Nat} (hr : r < 2 ^ 20) : TallySame s (s.tallySync old r) := by
  have hcame : TallySame s (((List.range 4).filter fun h => s.hubFull h && !old.hubFull h).foldl
      (fun s h => s.incF .RING_HUB_TALLY_FULL h) s) := by
    refine .foldl (fun t h hh => tallySame_setF t _ ?_ (by decide)) s
    have hlt := List.mem_range.mp (List.mem_of_mem_filter hh)
    omega
  unfold State.tallySync
  dsimp only
  split
  · exact hcame.trans (tallySame_syncWait _ hr)
  · refine hcame.trans (.foldl (fun t q hq => tallySame_syncWait t ?_) _)
    have hlt := List.mem_range.mp hq
    omega

/-! ## Delivery (R97, R109) -/

/-- The conditions of a delivery hold. -/
theorem deliverHead_goes {s : State} {r : Nat} {e : Entry} {drop : Bool} (hst : e.st = .finished) (hflush : e.flush = [])
    (hopen : e.remoteOpen = 0) (hhub : s.hubWorks (s.ringHub r) = true)
    (hhost : s.fb .RING_STATUS_HOST_STOPPED r = false ∨ drop = true) :
    (e.st != .finished || !e.flush.isEmpty || e.remoteOpen != 0 || !s.hubWorks (s.ringHub r) ||
      (s.fb .RING_STATUS_HOST_STOPPED r && !drop)) = false := by
  rcases hhost with h | h <;> simp [hst, hflush, hopen, hhub, h]

/-- What is delivered is the oldest entry, finished and with its answers in. -/
theorem oldest_of_deliverHead {s u : State} {r : Nat} (h : s.deliverHead r = some u) :
    ∃ e l, (s.ring r).entries = e :: l ∧ e.st = .finished ∧ e.flush = [] ∧ e.remoteOpen = 0 := by
  unfold State.deliverHead at h
  split at h
  · cases h
  · next e he =>
    obtain ⟨l, hl⟩ := List.head?_eq_some_iff.mp he
    dsimp only at h
    split at h
    · cases h
    · next hgo =>
      simp only [Bool.or_eq_true, not_or, bne_iff_ne, ne_eq, not_not, Bool.not_eq_true, Bool.not_eq_false', List.isEmpty_iff] at hgo
      obtain ⟨⟨⟨⟨hst, hflush⟩, hopen⟩, -⟩, -⟩ := hgo
      exact ⟨e, l, hl, hst, hflush, hopen⟩

/-- A ring whose oldest entry has not finished, or that has none, delivers nothing. -/
theorem deliverHead_eq_none {s : State} {r : Nat} (h : ∀ e l, (s.ring r).entries = e :: l → e.st ≠ .finished) : s.deliverHead r = none := by
  cases hd : s.deliverHead r with
  | none => rfl
  | some u =>
    obtain ⟨e, l, hentries, hst, -⟩ := oldest_of_deliverHead hd
    exact absurd hst (h e l hentries)

theorem exec_recordDeliver (s : State) {r : Nat} (dt : Nat) (hr : r < 256) :
    exec (.recordDeliver r dt) s = s.becomes (((s.elapse dt).deliverHead r).getD (s.elapse dt)) :=
  exec_eq_becomes (decide_eq_true hr) rfl rfl

/-- The ring with its oldest entry, `e`, past delivery: kept as DELIVERED while the ring has a mirror (R94). -/
def State.passHead (s : State) (r : Nat) (e : Entry) : State :=
  (s.setRing r { s.ring r with
    entries := (s.ring r).entries.drop 1
    delivered := if (s.ringMirror r).isSome then (s.ring r).delivered ++ [e] else (s.ring r).delivered }).setF .RING_DONE_POS r
      (e.pos + e.slots + 1)

theorem entries_passHead (s : State) (r : Nat) (e : Entry) : ((s.passHead r e).ring r).entries = (s.ring r).entries.drop 1 :=
  congrArg Ring.entries (State.setRing_ring s r _)

theorem ring_passHead_ne (s : State) {r q : Nat} (e : Entry) (h : q ≠ r) : (s.passHead r e).ring q = s.ring q :=
  State.setRing_ring_ne s _ h

theorem f_passHead (s : State) (r : Nat) (e : Entry) : (s.passHead r e).f .RING_DONE_POS r = (e.pos + e.slots + 1) % 2 ^ 64 :=
  State.f_setF_same _ .RING_DONE_POS r _

section
variable {s : State} {r : Nat} {e : Entry} {l : List Entry} (hentries : (s.ring r).entries = e :: l) (hst : e.st = .finished)
  (hflush : e.flush = []) (hopen : e.remoteOpen = 0) (hhub : s.hubWorks (s.ringHub r) = true)
include hentries hst hflush hopen hhub

/-- After DISCARD the entry leaves without a record. -/
theorem deliverHead_of_dropping (hdrop : (s.ring r).dropping = true) :
    s.deliverHead r = some (State.tallySync (((s.chkEnd r e.pos (e.res.getD {}).status).passHead r e).syncRing r) s r) := by
  simp only [State.deliverHead, hentries, List.head?_cons, deliverHead_goes hst hflush hopen hhub (.inr rfl), hdrop,
    Bool.false_eq_true, if_false, if_true]
  rfl

/-- Otherwise its record is written, the consumer word follows, and the hub counts a completion. -/
theorem deliverHead_of_recorded (hhost : s.fb .RING_STATUS_HOST_STOPPED r = false) (hkept : (s.ring r).dropping = false) :
    s.deliverHead r = some
      (let u := ((((s.writeRecord r e (e.res.getD {})).chkEnd r e.pos (e.res.getD {}).status).passHead r e).writeCons r).syncRing r
       let u := u.tallySync s r
       u.evHub (u.ringHub r) 0x25 0 (if u.ringModule r then 16 else u.ringPart r) 1) := by
  simp only [State.deliverHead, hentries, List.head?_cons, deliverHead_goes hst hflush hopen hhub (.inl hhost), hkept,
    Bool.false_eq_true, if_false]
  rfl

end

/-- Settles O58: a delivery is one of the oldest entry, finished; after DISCARD the entry leaves, and the counts of the tally change neither
rings nor memory. -/
theorem recordsHeldInOrder : Obligations.RecordsHeldInOrder := by
  refine ⟨?unfinished, ?none, ?oldest, ?dropped⟩
  case unfinished =>
    intro r dt s e l
    dsimp only
    intro hr hentries hst
    have hnone : (s.elapse dt).deliverHead r = none := deliverHead_eq_none (by
      intro e' l' h
      cases hentries.symm.trans h
      exact hst)
    rw [exec_recordDeliver s dt hr, hnone, Option.getD_none]
  case none =>
    intro r dt s hr hempty
    have hnone : (s.elapse dt).deliverHead r = none := deliverHead_eq_none (by
      intro e l h
      cases hempty.symm.trans h)
    rw [exec_recordDeliver s dt hr, hnone, Option.getD_none]
  case oldest => exact fun r s u h => oldest_of_deliverHead h
  case dropped =>
    intro r dt s e l
    dsimp only
    intro hr hentries hdrop hst hflush hopen hhub
    have hsmall : r < 2 ^ 20 := by omega
    have hsame := (tallySame_syncRing (((s.elapse dt).chkEnd r e.pos (e.res.getD {}).status).passHead r e) hsmall).trans
      (tallySame_tallySync _ (s.elapse dt) hsmall)
    have hrow := exec_recordDeliver s dt hr
    rw [deliverHead_of_dropping hentries hst hflush hopen hhub hdrop, Option.getD_some] at hrow
    refine ⟨_, hrow, ?entries, (hsame.done r hsmall).trans (f_passHead _ r e), hsame.mem, hsame.hostMem,
      fun q hq => (hsame.ring q).trans (ring_passHead_ne _ e hq)⟩
    calc _ = ((s.elapse dt).ring r).entries.drop 1 := (congrArg Ring.entries (hsame.ring r)).trans (entries_passHead _ r e)
      _ = l := by rw [hentries, List.drop_one, List.tail_cons]

/-! ## Scans and fetches (R84, R85, R92, R93) -/

section
variable {s t u : State} {r dt : Nat} (ht : s.elapse dt = t)
include ht

theorem effRingScan_of_due (hon : t.ringOn r = true) (hheld : t.ringHeld r = false) (hdue : t.scanDue r = true)
    (hidle : (t.ring r).scan = .idle) (horder : (t.scanTime r).all t.inOrder = true) :
    effRingScan r dt s = t.setRing r { t.ring r with
      scan := .reading 0, nextDeal := (t.sched (schedKey (t.ringSet r) (t.f .RING_CTRL_SCHEDULE r))).after t.now } := by
  simp only [effRingScan, ht, hon, hheld, hdue, hidle, horder, Bool.not_false, beq_self_eq_true, Bool.and_self, if_true]

/-- The producer word has been read: out of range it sets PROD_ERR, above what is accepted it is fetched up to. -/
theorem effProducerRead_of_read {prev : Nat} {b : Bytes} (hscan : (t.ring r).scan = .reading prev) (hon : t.ringOn r = true)
    (hperiod : t.f .RING_CTRL_SCAN r ≠ 0) (hheld : t.ringHeld r = false)
    (hread : (t.incF .RING_STATUS_SCANS r).readLoc ((t.incF .RING_STATUS_SCANS r).ringLoc r ((t.incF .RING_STATUS_SCANS r).ringProd r))
      .narrow 8 = (.ok b, u)) :
    effProducerRead r dt s =
      (let w := u.setRing r { u.ring r with scan := .idle, lastRead := u.eng }
       if leNat b < u.f .RING_ACCEPT_POS r ∨ w.f .RING_DONE_POS r + w.ringSlots r < leNat b then w.setF .RING_STATUS_PROD_ERR r 1
       else if max (u.f .RING_ACCEPT_POS r) prev < leNat b then w.setScan r (.fetching (leNat b)) else w) := by
  have hgo : (!t.ringOn r || decide (t.f .RING_CTRL_SCAN r = 0)) = false := by simp [hon, hperiod]
  simp only [effProducerRead, ht, hscan, hgo, hheld, hread, Bool.or_eq_true, decide_eq_true_eq, Bool.false_eq_true, if_false]

/-- A packet that the producer covers is journalled while the tally has room and no other is on its way there. -/
theorem effPacketFetch_of_covered {v w : State} {upTo pos : Nat} {h pkt : Bytes} (hpos : t.f .RING_ACCEPT_POS r = pos)
    (hscan : (t.ring r).scan = .fetching upTo) (hon : t.ringOn r = true) (hheld : t.ringHeld r = false) (hfetched : (t.ring r).fetched = none)
    (hcommitted : (t.ring r).committed = none) (hwritten : ((t.ring r).entries.find? fun e => e.st == .written) = none)
    (hroom : t.tallyFull r = false) (hhead : t.readSlots r pos 1 = (.ok h, v)) (hcovered : pos + fldB h 1 1 % 16 + 1 ≤ upTo)
    (hpacket : v.readSlots r pos (fldB h 1 1 % 16 + 1) = (.ok pkt, w)) : effPacketFetch r dt s = w.journal r pos pkt := by
  have hmore : ¬ upTo ≤ pos := by omega
  simp only [effPacketFetch, ht, hscan, hon, hheld, hfetched, hcommitted, hwritten, hpos, hmore, hroom, hhead, Nat.not_lt.mpr hcovered, hpacket,
    Bool.not_true, Bool.false_eq_true, if_false]

end

/-! ## Acceptance and release (R94) -/

section
variable {s t : State} {r pos dt : Nat} {e : Entry} (ht : s.elapse dt = t)
include ht

theorem effTallyAck_of_written (he : t.entry? r pos = some e) (hst : e.st = .written) (hon : t.ringOn r = true)
    (hheld : t.ringHeld r = false) : effTallyAck r pos dt s = t.acceptEntry r pos := by
  simp only [effTallyAck, ht, he, hst, hon, hheld, bne_self_eq_false, Bool.not_true, Bool.false_eq_true, if_false]

theorem effTallyAck_of_delivered (he : t.entry? r pos = none) :
    effTallyAck r pos dt s =
      State.tallySync (t.setRing r { t.ring r with delivered := (t.ring r).delivered.filter fun y => y.pos != pos }) t r := by
  simp only [effTallyAck, ht, he]

end

/-! ## Finish (R89, R326) -/

/-- The state once the entry `e` at `pos` is FINISHED with the result `x`: a DEAL_SET applies, and a SLOT_RESERVE's slots start. -/
def State.finished (s : State) (r pos : Nat) (e : Entry) (x : Result) : State :=
  let ok := x.status == stDONE || x.status == stREPLAYED
  let u := s.modEntry r pos fun e => { e with st := .finished, res := some x }
  let u := if e.op = 0x30 && ok then u.applyDeal r e else u
  if e.op = 0x31 && ok then u.startResv e x.result else u

/-- The flushing read of a flag's port, when the record goes by another. -/
def State.flushFlag (s : State) (r pos : Nat) (via : Option (Nat × Nat)) : State :=
  match via, (s.ringLoc r 0).port? with
  | some (k, a), some y => if k ≠ y then s.sendFlush r pos [(k, a)] else s
  | _, _ => s

section
variable {s t : State} {r pos dt : Nat} {e : Entry} {x : Result} (ht : s.elapse dt = t) (he : t.entry? r pos = some e) (hready : e.ready = true)
  (hhub : t.hubWorks (t.ringHub r) = true) (htag : t.tagHeld r pos = false) (hres : e.res = some x)
include ht he hready hhub htag hres

/-- A ready command becomes FINISHED with what its flag's write answers. -/
theorem effCommandFinish_of_flagged {x' : Result} {via : Option (Nat × Nat)} {v : State}
    (hflag : (if e.sent then (some (x, none), t) else t.writeFlag r pos e x) = (some (x', via), v)) :
    effCommandFinish r pos dt s = (v.finished r pos e x').flushFlag r pos via := by
  have hgo : (!e.ready || !t.hubWorks (t.ringHub r) || t.tagHeld r pos) = false := by rw [hready, hhub, htag]; rfl
  simp only [effCommandFinish, ht, he, hgo, hres, Option.getD_some, hflag, Bool.false_eq_true, if_false]
  rfl

theorem effCommandFinish_of_noFlag (hnone : e.flag = none ∨ e.sent = true) : effCommandFinish r pos dt s = t.finished r pos e x := by
  have hflag : (if e.sent then (some (x, none), t) else t.writeFlag r pos e x) = (some (x, none), t) := by
    rcases hnone with h | h
    · simp only [State.writeFlag, h, ite_self]
    · rw [if_pos h]
  exact effCommandFinish_of_flagged ht he hready hhub htag hres hflag

theorem effCommandFinish_of_flag {h : Held} {l : Loc} {u v : State} (hheld : e.flag = some h) (hsent : e.sent = false)
    (huse : t.useHeld (t.cmdCache r) h 2 = (.ok l, u)) (hwrite : u.writeLoc l .narrow (leBytes 8 (flagValue e x.status)) = (none, v)) :
    effCommandFinish r pos dt s = ((v.noteHostW r l).finished r pos e x).flushFlag r pos l.hostAt? := by
  have hflag : (if e.sent then (some (x, none), t) else t.writeFlag r pos e x) = (some (x, l.hostAt?), v.noteHostW r l) := by
    simp only [hsent, State.writeFlag, hheld, huse, hwrite, Bool.false_eq_true, if_false]
  exact effCommandFinish_of_flagged ht he hready hhub htag hres hflag

end

/-! ## Waits (R105, R106) -/

section
variable {s t : State} {r pos dt : Nat} {e : Entry} (ht : s.elapse dt = t) (he : t.entry? r pos = some e) (hactive : e.active = true)
include ht he hactive

theorem effWaitFlagPoll_of_due {h : Held} (hop : e.op = 0x03) (htag : t.tagHeld r pos = false) (hhub : t.hubWorks (t.ringHub r) = true)
    (hdue : e.pollAt + e.pollNs ≤ t.eng) (hheld : e.holds.head? = some h) : effWaitFlagPoll r pos dt s = t.pollWait r pos e h := by
  simp only [effWaitFlagPoll, ht, he, hactive, hop, htag, hhub, hdue, hheld, decide_true, Bool.not_false, Bool.and_self, if_true]

theorem effWaitFlagTimeout_of_over (hop : e.op = 0x03) (hlimit : e.body 24 4 ≠ 0) (hover : e.startAt + e.body 24 4 * 1000 ≤ t.eng) :
    effWaitFlagTimeout r pos dt s = t.finish r pos { status := stLATE, result := e.prog } := by
  simp only [effWaitFlagTimeout, ht, he, hactive, hop, ne_eq, hlimit, not_false_eq_true, hover, decide_true, Bool.and_self, if_true]

theorem effWaitTimeResume_of_due (hop : e.op = 0x04) (hdue : e.body 0 8 ≤ t.now) (horder : t.inOrder (e.body 0 8) = true) :
    effWaitTimeResume r pos dt s = t.doneWith r pos t.now := by
  simp only [effWaitTimeResume, ht, he, hactive, hop, hdue, horder, decide_true, Bool.and_self, if_true]

end

/-! ## The statement about ring events -/

/-- Settles O26: each event's trigger holds, and its effect is the state named. -/
theorem ringEventsRun : Obligations.RingEventsRun := by
  refine ⟨?scan, ?read, ?fetch, ?accept, ?release, ?finish, ?deliver, ?poll, ?waits⟩
  case scan =>
    intro r dt s t hr hon hheld hdue hidle horder
    exact exec_eq_becomes (decide_eq_true hr) rfl (effRingScan_of_due rfl hon hheld hdue hidle horder)
  case read =>
    intro r dt prev s u b t hr hscan hon hperiod hheld hread w
    have hrow := effProducerRead_of_read rfl hscan hon hperiod hheld hread
    exact ⟨fun hout => exec_eq_becomesR (decide_eq_true hr) rfl (hrow.trans (if_pos hout)),
      fun hlow hhigh => exec_eq_becomesR (decide_eq_true hr) rfl
        (hrow.trans (if_neg (not_or.mpr ⟨Nat.not_lt.mpr hlow, Nat.not_lt.mpr hhigh⟩)))⟩
  case fetch =>
    intro r dt upTo s v w h pkt t pos hr hscan hon hheld hfetched hcommitted hwritten hroom hhead hcovered hpacket
    exact exec_eq_becomesR (decide_eq_true hr) rfl
      (effPacketFetch_of_covered rfl rfl hscan hon hheld hfetched hcommitted hwritten hroom hhead hcovered hpacket)
  case accept =>
    intro r pos dt s e t hpos he hst hon hheld
    exact exec_eq_becomes hpos rfl (effTallyAck_of_written rfl he hst hon hheld)
  case release =>
    intro r pos dt s t hpos he
    exact exec_eq_becomes hpos rfl (effTallyAck_of_delivered rfl he)
  case finish =>
    intro r pos dt s e x t ok fin hpos he hready hhub htag hres
    exact ⟨fun hnone => exec_eq_becomesR hpos rfl (effCommandFinish_of_noFlag rfl he hready hhub htag hres hnone),
      fun h l u v hheld hsent huse hwrite =>
        exec_eq_becomesR hpos rfl (effCommandFinish_of_flag rfl he hready hhub htag hres hheld hsent huse hwrite)⟩
  case deliver =>
    intro r dt s e l t hr hentries hst hflush hopen hhub hhost hkept
    rw [exec_recordDeliver s dt hr, deliverHead_of_recorded hentries hst hflush hopen hhub hhost hkept, Option.getD_some]
    rfl
  case poll =>
    intro r pos dt s e h t hpos he hop hactive htag hhub hdue hheld
    exact exec_eq_becomesR hpos rfl (effWaitFlagPoll_of_due rfl he hactive hop htag hhub hdue hheld)
  case waits =>
    intro r pos dt s e t hpos he hactive
    exact ⟨fun hop hlimit hover => exec_eq_becomes hpos rfl (effWaitFlagTimeout_of_over rfl he hactive hop hlimit hover),
      fun hop hdue horder => exec_eq_becomes hpos rfl (effWaitTimeResume_of_due rfl he hactive hop hdue horder)⟩

end Sys2Proof.Machine
end

-- Proofs of the statement about the lanes and registers of a group.
section
/-!
SUPPORT. Reads of a group's registers after writes (R113, R115, R123): a vector register lane by lane, a pair, a predicate register.
-/

namespace Sys2Proof.Machine

open Sys2Proof

/-! ## Masks of lanes -/

theorem bitOf_andNot (a b i : Nat) : bitOf (andNot a b) i = (bitOf a i && !bitOf b i) := by
  simp only [bitOf, andNot, Nat.testBit_xor, Nat.testBit_and]
  cases a.testBit i <;> simp

theorem mem_bitList {m n l : Nat} : l ∈ bitList m n ↔ l < n ∧ bitOf m l = true := by
  simp only [bitList, bitOf, List.mem_filter, List.mem_range]

/-! ## Vector registers -/

theorem vget_vput_same (x : Group) (n l v : Nat) : (x.vput n l v).vget n l = v % 2 ^ 32 := FMap.fget_fput_self _ _ _ _

/-- A write to one lane of a register leaves every other lane, and every other register, as it is. -/
theorem vget_vput_ne (x : Group) {n r l k : Nat} (v : Nat) (hl : l < 64) (hk : k < 64) (h : r ≠ n ∨ l ≠ k) :
    (x.vput n k v).vget r l = x.vget r l :=
  FMap.fget_fput_ne _ _ _ _ (by omega)

/-- The same of a register or a pair. -/
theorem vget_vputW_ne (x : Group) {wide : Bool} {n r l k : Nat} (v : Nat) (hl : l < 64) (hk : k < 64)
    (h : (r ≠ n ∧ (wide = false ∨ r ≠ n + 1)) ∨ l ≠ k) : (x.vputW wide n k v).vget r l = x.vget r l := by
  cases wide with
  | false =>
    exact vget_vput_ne x v hl hk (h.imp_left And.left)
  | true =>
    have hpair : (r ≠ n ∧ r ≠ n + 1) ∨ l ≠ k := by simpa using h
    exact (vget_vput_ne _ _ hl hk (hpair.imp_left And.right)).trans (vget_vput_ne x _ hl hk (hpair.imp_left And.left))

/-- A value written to a lane is read back, modulo 2^32, or 2^64 of a pair. -/
theorem vgetW_vputW_same (x : Group) (wide : Bool) (n v : Nat) {l : Nat} (hl : l < 64) :
    (x.vputW wide n l v).vgetW wide n l = v % (if wide then 2 ^ 64 else 2 ^ 32) := by
  cases wide with
  | false => exact vget_vput_same x n l v
  | true =>
    have hlow : ((x.vput n l v).vput (n + 1) l (v / 2 ^ 32)).vget n l = v % 2 ^ 32 :=
      (vget_vput_ne _ _ hl hl (.inl (by omega))).trans (vget_vput_same x n l v)
    have hhigh : ((x.vput n l v).vput (n + 1) l (v / 2 ^ 32)).vget (n + 1) l = v / 2 ^ 32 % 2 ^ 32 := vget_vput_same _ _ _ _
    change ((x.vput n l v).vput (n + 1) l (v / 2 ^ 32)).vget n l +
      ((x.vput n l v).vput (n + 1) l (v / 2 ^ 32)).vget (n + 1) l * 2 ^ 32 = v % 2 ^ 64
    rw [hlow, hhigh]
    omega

theorem vgetW_vputW_ne (x : Group) (wide : Bool) (n v : Nat) {l k : Nat} (hl : l < 64) (hk : k < 64) (h : l ≠ k) :
    (x.vputW wide n k v).vgetW wide n l = x.vgetW wide n l := by
  simp only [Group.vgetW, Group.vgetD, vget_vputW_ne x v hl hk (.inr h)]

@[simp] theorem vputW_s (x : Group) (wide : Bool) (n l v : Nat) : (x.vputW wide n l v).s = x.s := by cases wide <;> rfl
@[simp] theorem vputW_p (x : Group) (wide : Bool) (n l v : Nat) : (x.vputW wide n l v).p = x.p := by cases wide <;> rfl

/-! ## Writes under a mask -/

/-- What every write to a lane of the mask keeps, the whole write keeps. -/
theorem mapLanes_keeps {P : Group → Prop} {x : Group} {wide : Bool} {d m : Nat} {f : Nat → Nat}
    (hstep : ∀ y l, l < 64 → bitOf m l = true → P y → P (y.vputW wide d l (f l))) (hx : P x) : P (x.mapLanes wide d m f) := by
  have hlanes : ∀ l ∈ bitList m 64, l < 64 ∧ bitOf m l = true := fun l hl => mem_bitList.mp hl
  rw [Group.mapLanes]
  generalize bitList m 64 = ls at hlanes
  induction ls generalizing x with
  | nil => exact hx
  | cons l ls ih =>
    obtain ⟨hl, hm⟩ := hlanes l List.mem_cons_self
    exact ih (hstep x l hl hm hx) fun k hk => hlanes k (List.mem_cons_of_mem l hk)

@[simp] theorem mapLanes_s (x : Group) (wide : Bool) (d m : Nat) (f : Nat → Nat) : (x.mapLanes wide d m f).s = x.s :=
  mapLanes_keeps (P := fun y => y.s = x.s) (fun y l _ _ h => (vputW_s y wide d l (f l)).trans h) rfl

@[simp] theorem mapLanes_p (x : Group) (wide : Bool) (d m : Nat) (f : Nat → Nat) : (x.mapLanes wide d m f).p = x.p :=
  mapLanes_keeps (P := fun y => y.p = x.p) (fun y l _ _ h => (vputW_p y wide d l (f l)).trans h) rfl

/-- Registers other than the destination, and lanes outside the mask, read as before. -/
theorem vget_mapLanes_ne (x : Group) {wide : Bool} {d m r l : Nat} (f : Nat → Nat) (hl : l < 64)
    (h : (r ≠ d ∧ (wide = false ∨ r ≠ d + 1)) ∨ bitOf m l = false) : (x.mapLanes wide d m f).vget r l = x.vget r l := by
  refine mapLanes_keeps (P := fun y => y.vget r l = x.vget r l) (fun y k hk hmask hy => ?_) rfl
  refine (vget_vputW_ne y (f k) hl hk (h.imp_right ?_)).trans hy
  rintro hout rfl
  rw [hmask] at hout
  cases hout

/-- Each lane that a list names holds its own value after the writes, and every other lane what it did. -/
theorem vgetW_foldl_vputW (wide : Bool) (d : Nat) (f : Nat → Nat) {l : Nat} (hl : l < 64) {ls : List Nat} (hls : ∀ k ∈ ls, k < 64) (x : Group) :
    (ls.foldl (fun y k => y.vputW wide d k (f k)) x).vgetW wide d l =
      if l ∈ ls then f l % (if wide then 2 ^ 64 else 2 ^ 32) else x.vgetW wide d l := by
  induction ls generalizing x with
  | nil => simp
  | cons k ls ih =>
    have hrest := ih (fun j hj => hls j (List.mem_cons_of_mem k hj)) (x.vputW wide d k (f k))
    rw [List.foldl_cons, hrest]
    by_cases hmem : l ∈ ls
    · rw [if_pos hmem, if_pos (List.mem_cons_of_mem k hmem)]
    · rw [if_neg hmem]
      by_cases hlk : l = k
      · subst hlk
        rw [if_pos List.mem_cons_self, vgetW_vputW_same x wide d (f l) hl]
      · rw [if_neg (by simp [hlk, hmem]), vgetW_vputW_ne x wide d (f k) hl (hls k List.mem_cons_self) hlk]

theorem vgetW_mapLanes (x : Group) (wide : Bool) (d m : Nat) (f : Nat → Nat) {l : Nat} (hl : l < 64) :
    (x.mapLanes wide d m f).vgetW wide d l =
      if bitOf m l then f l % (if wide then 2 ^ 64 else 2 ^ 32) else x.vgetW wide d l := by
  rw [Group.mapLanes, vgetW_foldl_vputW wide d f hl (fun k hk => (mem_bitList.mp hk).1)]
  simp only [mem_bitList, hl, true_and]

/-! ## Predicate registers -/

theorem pget_pput_same (x : Group) {d : Nat} (m v : Nat) (hd : d ≠ 0) : (x.pput d m v).pget d = andNot (x.pget d) m ||| (v &&& m) := by
  simp only [Group.pput, Group.pget, hd, if_false, FMap.fget_fput_self]

theorem bitOf_pget_pput (x : Group) {d : Nat} (m v l : Nat) (hd : d ≠ 0) :
    bitOf ((x.pput d m v).pget d) l = if bitOf m l then bitOf v l else bitOf (x.pget d) l := by
  have hold := bitOf_andNot (x.pget d) m l
  rw [pget_pput_same x m v hd]
  simp only [bitOf, Nat.testBit_or, Nat.testBit_and] at hold ⊢
  rw [hold]
  by_cases hmask : m.testBit l = true <;> simp [hmask]

/-- Settles O48: a write under a mask is a write lane by lane, each read back in its own lane alone; a predicate's bits are those of the mask. -/
theorem lanesWritten : Obligations.LanesWritten :=
  ⟨fun x wide d m f _ hl => vgetW_mapLanes x wide d m f hl, fun x _ m v l hd _ => bitOf_pget_pput x m v l hd, fun _ _ _ => ⟨rfl, rfl⟩⟩

end Sys2Proof.Machine
end

-- Proofs of the statements about instructions of groups.
section
/-!
SUPPORT. What each kernel instruction does once its group has issued it (R113 to R131, R174 to R181, R458): the row runs its body on the state
in which it was issued.
-/

namespace Sys2Proof.Machine

open Sys2Proof

/-! ## Rows of issued instructions -/

section
variable {c : Instr} {s t k : State} {g cls : Nat} {op : Option Nat} {w : IWord} {ok : Group → Kernel → Bool} {body : State → State}

/-- A row of an instruction that issues takes the state of its body as its next one. -/
theorem exec_eq_becomes_of_issued (h : s.issued g cls op w ok = some t) (hwf : (decide (g < 65536) && w.ok) = true → c.wellFormed = true)
    (hrow : exec c s = runIf c.wellFormed s (s.issueOk g cls op w ok body)) (hbody : body t = k) : exec c s = s.becomes k :=
  exec_eq_becomes (hwf (ok_of_issued h)) hrow ((issueOk_of_issued body h).trans hbody)

/-- The same of an instruction that reads stacks. -/
theorem exec_eq_becomesR_of_issued (h : s.issued g cls op w ok = some t) (hwf : (decide (g < 65536) && w.ok) = true → c.wellFormed = true)
    (hrow : exec c s = runIf c.wellFormed s (s.issueOk g cls op w ok body).settleRetire) (hbody : body t = k) : exec c s = s.becomesR k :=
  exec_eq_becomesR (hwf (ok_of_issued h)) hrow ((issueOk_of_issued body h).trans hbody)

/-- When an instruction issues: its unit chooses the group, the words fetched spell it, and its fields are accepted. -/
theorem issued_eq_some_iff : s.issued g cls op w ok = some t ↔
    (decide (g < 65536) && w.ok && s.canIssue g && s.chosen g) = true ∧
      ∃ b u, (s.setGroup g (s.group g).atFetch).groupFetch g (wordLen w) = (some b, u) ∧ spelt w cls op b = true ∧
        u.settleRetire.placed g = t ∧ ok (t.group g) (t.kernelOf g) = true := by
  unfold State.issued
  constructor
  · intro h
    split at h
    · next hgo =>
      split at h
      · next b u hfetch =>
        dsimp only at h
        split at h
        · next hok =>
          cases h
          obtain ⟨hspelt, haccepts⟩ := Bool.and_eq_true_iff.mp hok
          exact ⟨hgo, b, u, hfetch, hspelt, rfl, haccepts⟩
        · cases h
      · cases h
    · cases h
  · rintro ⟨hgo, b, u, hfetch, hspelt, rfl, haccepts⟩
    simp only [hgo, hfetch, hspelt, haccepts, Bool.and_self, if_true]

theorem issued_accepts (h : s.issued g cls op w ok = some t) : ok (t.group g) (t.kernelOf g) = true := by
  obtain ⟨-, b, u, -, -, -, haccepts⟩ := issued_eq_some_iff.mp h
  exact haccepts

/-- A wider test of the fields accepts what a narrower one does. -/
theorem issued_mono {ok' : Group → Kernel → Bool} (hok : ∀ x y, ok x y = true → ok' x y = true) (h : s.issued g cls op w ok = some t) :
    s.issued g cls op w ok' = some t := by
  obtain ⟨hgo, b, u, hfetch, hspelt, hstate, haccepts⟩ := issued_eq_some_iff.mp h
  exact issued_eq_some_iff.mpr ⟨hgo, b, u, hfetch, hspelt, hstate, hok _ _ haccepts⟩

theorem group_lt_of_issued (h : s.issued g cls op w ok = some t) : g < 65536 :=
  of_decide_eq_true (Bool.and_eq_true_iff.mp (ok_of_issued h)).1

end

/-! ## Branches and jumps -/

section
variable {s t : State} {g : Nat} {w : IWord}

/-- Where a BRANCH goes, and where its paths join (R118). -/
def Group.branchTarget (x : Group) (w : IWord) : Nat := branchTo x.pc ((w.lit.getD 0).toNat % 2 ^ 32)
def Group.joinPoint (x : Group) (w : IWord) : Nat := branchTo x.pc ((w.lit.getD 0).toNat / 2 ^ 32)

/-- A BRANCH that no lane takes, or whose target is aligned and whose paths fit the stack. -/
theorem exec_branch_of_goes (h : s.issued g 0 none w (fun _ _ => branchOk w) = some t)
    (halign : (t.group g).exec w = 0 ∨ (t.group g).branchTarget w % 8 = 0)
    (hroom : (t.group g).exec w = 0 ∨ andNot (t.group g).lanes ((t.group g).exec w) = 0 ∨ (t.group g).deep 2 = false) :
    exec (.branch g w) s = s.becomes (t.retire g 0
      ((t.group g).branch (wordLen w) ((t.group g).branchTarget w) ((t.group g).joinPoint w) ((t.group g).exec w))) := by
  refine exec_eq_becomes_of_issued h id rfl ((if_neg ?_).trans (if_neg ?_))
  · simp only [Bool.and_eq_true, decide_eq_true_eq]
    rintro ⟨htaken, hodd⟩
    exact hodd (halign.resolve_left htaken)
  · simp only [Bool.and_eq_true, decide_eq_true_eq]
    rintro ⟨⟨htaken, hoff⟩, hdeep⟩
    rw [(hroom.resolve_left htaken).resolve_left hoff] at hdeep
    cases hdeep

/-- A BRANCH that splits its path and finds no room for two entries faults (R121). -/
theorem exec_branch_of_deep (h : s.issued g 0 none w (fun _ _ => branchOk w) = some t) (halign : (t.group g).branchTarget w % 8 = 0)
    (htaken : (t.group g).exec w ≠ 0) (hoff : andNot (t.group g).lanes ((t.group g).exec w) ≠ 0) (hdeep : (t.group g).deep 2 = true) :
    exec (.branch g w) s = s.becomes (t.kfault g kfDEPTH) := by
  refine exec_eq_becomes_of_issued h id rfl ((if_neg ?_).trans (if_pos ?_))
  · simp only [Bool.and_eq_true, decide_eq_true_eq]
    rintro ⟨-, hodd⟩
    exact hodd halign
  · simp only [Bool.and_eq_true, decide_eq_true_eq]
    exact ⟨⟨htaken, hoff⟩, hdeep⟩

end

/-- The targets of an indirect jump, each with its lanes, and the path of the lanes it leaves out (R119). -/
def Group.jumpTargets (x : Group) (w : IWord) : List (Nat × Nat) := targetsOf (fun l => x.vgetD w.a l) (bitList (x.exec w) 64)
def Group.jumpPaths (x : Group) (w : IWord) : List (Nat × Nat) :=
  if andNot x.lanes (x.exec w) = 0 then x.jumpTargets w
  else x.jumpTargets w ++ [((x.pc + wordLen w) % 2 ^ 64, andNot x.lanes (x.exec w))]

/-- The group with the paths of its jump pushed, in the order of their lowest lanes. -/
def Group.jump (x : Group) (w : IWord) : Group :=
  let order := (List.range 64).filterMap fun l => (x.jumpPaths w).find? fun e => (bitList e.2 64).headD 64 == l
  let y := x.setPc (x.joinPoint w)
  let z := { y with stack := (order.map fun e => (⟨e.1, e.2, x.joinPoint w⟩ : StackEnt)) ++ y.stack }
  if (x.jumpTargets w).any fun e => decide (e.1 ≤ x.pc) then z.countBack x.lanes else z

section
variable {s t : State} {g : Nat} {w : IWord} (h : s.issued g 0 none w (fun _ k => jumpOk k.vregs w) = some t)
  (halign : ((t.group g).jumpTargets w).find? (fun e => e.1 % 8 ≠ 0) = none) (htargets : (t.group g).jumpTargets w ≠ [])
include h halign htargets

theorem exec_jumpIndirect_of_goes (hroom : (t.group g).deep ((t.group g).jumpPaths w).length = false) :
    exec (.jumpIndirect g w) s = s.becomes (t.retire g 0 ((t.group g).jump w)) := by
  refine exec_eq_becomes_of_issued h id rfl ?_
  simp only [Group.jumpPaths, Group.jumpTargets] at halign htargets hroom
  simp only [halign, htargets, hroom, Bool.false_eq_true, if_false]
  rfl

theorem exec_jumpIndirect_of_deep (hdeep : (t.group g).deep ((t.group g).jumpPaths w).length = true) :
    exec (.jumpIndirect g w) s = s.becomes (t.kfault g kfDEPTH) := by
  refine exec_eq_becomes_of_issued h id rfl ?_
  simp only [Group.jumpPaths, Group.jumpTargets] at halign htargets hdeep
  simp only [halign, htargets, hdeep, if_true, if_false]

end

/-! ## The statement about scalar, control, synchronisation and system instructions -/

/-- Settles O27: the fields of each instruction are in order, so its row is its body; a team of which all wait passes the barrier. -/
theorem scalarAndControlRun : Obligations.ScalarAndControlRun := by
  refine ⟨?scalar, ?branch, ?jump, ?endLanes, ?bar, ?release, ?membar, ?trap, ?timeUnit, ?laneid, ?counter⟩
  case scalar =>
    intro g op w s t h
    exact exec_eq_becomes_of_issued h id rfl rfl
  case branch =>
    intro g w s t x l target h halign hroom
    exact exec_branch_of_goes h halign hroom
  case jump =>
    intro g w s t x m off rp ts all h halign htargets hroom
    exact exec_jumpIndirect_of_goes h halign htargets hroom
  case endLanes =>
    intro g w s t x h
    exact exec_eq_becomes_of_issued h id rfl rfl
  case bar =>
    intro g w s t h
    exact exec_eq_becomes_of_issued h id rfl rfl
  case release =>
    intro k tm s hsome hall
    refine exec_eq_becomes rfl rfl (if_pos ?_)
    simp only [Bool.and_eq_true, bne_iff_ne, List.all_eq_true, beq_iff_eq]
    exact ⟨hsome, hall⟩
  case membar =>
    intro g w s t u h hflush
    exact exec_eq_becomesR_of_issued h id rfl (by simp only [hflush])
  case trap =>
    intro g w s t h
    exact exec_eq_becomes_of_issued h id rfl rfl
  case timeUnit =>
    intro g w s t h
    exact ⟨exec_eq_becomes_of_issued h id rfl rfl, exec_eq_becomes_of_issued h id rfl rfl⟩
  case laneid =>
    intro g w s t h
    exact exec_eq_becomes_of_issued h id rfl rfl
  case counter =>
    intro g w s t h
    exact exec_eq_becomes_of_issued h id rfl rfl

/-! ## The statement about vector instructions -/

/-- Settles O29: the fields of each instruction are in order, so its row is its body; a compare and another operation differ in what they write. -/
theorem vectorInstructionsRun : Obligations.VectorInstructionsRun := by
  refine ⟨?integer, ?floating, ?special, ?cvt, ?shfl, ?vote⟩
  case integer =>
    intro g op w s t x wide m h
    exact ⟨fun hop => exec_eq_becomes_of_issued h id rfl (by simp only [hop, Bool.false_eq_true, if_false, x, wide, m]),
      fun hop => exec_eq_becomes_of_issued h id rfl (by simp only [hop, if_true, x, wide, m])⟩
  case floating =>
    intro g op w s t x k wide m h
    exact ⟨fun hop => exec_eq_becomes_of_issued h id rfl (by simp only [hop, Bool.false_eq_true, if_false, x, k, wide, m]),
      fun hop => exec_eq_becomes_of_issued h id rfl (by simp only [hop, if_true, x, k, wide, m])⟩
  case special =>
    intro g op w s t x k h
    exact exec_eq_becomes_of_issued h id rfl rfl
  case cvt =>
    intro g op w s t x wd ws h
    have hop : op < 256 := by
      have hfields := issued_accepts h
      simp only [cvtOk, Bool.and_eq_true, decide_eq_true_eq] at hfields
      omega
    refine exec_eq_becomes_of_issued h (fun hgw => ?_) rfl rfl
    obtain ⟨hg, hw⟩ := Bool.and_eq_true_iff.mp hgw
    simp only [Instr.wellFormed, hg, hw, decide_eq_true (show op < 1024 by omega), Bool.and_self]
  case shfl =>
    intro g op w s t x wide h
    exact exec_eq_becomes_of_issued h id rfl rfl
  case vote =>
    intro g op w s t x m h
    exact exec_eq_becomes_of_issued h id rfl rfl

/-! ## Memory instructions -/

/-- A check of accesses that lie below SCRATCH faults none (R127). -/
theorem scratchCheck_of_ok {s : State} {g : Nat} (access : Nat) {accs : List Acc} (h : ∀ a ∈ accs, s.scratchOk g a.va a.len = true) :
    s.scratchCheck g access accs = none := by
  have hfind : accs.find? (fun a => !s.scratchOk g a.va a.len) = none :=
    List.find?_eq_none.mpr fun a ha => by simp only [h a ha, Bool.not_true, Bool.false_eq_true, not_false_eq_true]
  rw [State.scratchCheck, hfind, Option.map_none]

/-- An instruction that waits for no window request writes its registers at once. -/
theorem groupRemote_nil (s : State) (g cls : Nat) (w : IWord) (ws : List (Nat × Nat)) (send : State → Nat → Acc × Loc → State) :
    s.groupRemote g cls w ws [] send = s.retire g cls
      ({ s.group g with v := ws.foldl (fun r (e : Nat × Nat) => r.fput e.1 (e.2 % 2 ^ 32) 0) (s.group g).v }.next w) := by
  simp only [State.groupRemote, if_true]

/-- Settles O30: every check of an access passes, so each instruction is its accesses and the registers they write. -/
theorem groupMemoryRuns : Obligations.GroupMemoryRuns := by
  refine ⟨?ld, ?st, ?lds, ?sts, ?atom, ?atoms⟩
  case ld =>
    intro g n w s t u v bs ws accs h haligned hload hregs
    refine exec_eq_becomesR_of_issued h id rfl ?_
    simp only [accs] at haligned hload
    simp only [haligned, State.loadRegs, hload, hregs, groupRemote_nil]
  case st =>
    intro g n w hi s t t1 u' u v l x accs h haligned hfree hxlate hlocal hroom hwrite
    refine exec_eq_becomesR_of_issued h id rfl ?_
    simp only [accs, x] at haligned hxlate hwrite
    simp only [haligned, hfree, State.storePieces, hxlate, hroom, hwrite, hlocal, groupRemote_nil, List.foldl_nil]
  case lds =>
    intro g n w s t u ws x accs h hscratch hregs
    refine exec_eq_becomes_of_issued h id rfl ?_
    have hcheck := scratchCheck_of_ok 1 hscratch
    simp only [accs, x] at hcheck hregs
    simp only [hcheck, hregs, groupRemote_nil]
  case sts =>
    intro g n w hi s t u x accs h hscratch hfree
    refine exec_eq_becomes_of_issued h id rfl ?_
    have hcheck := scratchCheck_of_ok 2 hscratch
    simp only [accs, x] at hcheck
    simp only [hcheck, hfree, accs, x]
  case atom =>
    intro g op n w s t u v l ws hit x accs h haligned hxlate hlocal hpieces
    refine exec_eq_becomesR_of_issued h id rfl ?_
    simp only [accs, x] at haligned hxlate hpieces
    simp only [haligned, hxlate, hlocal, hpieces, groupRemote_nil, bne_self_eq_false, Bool.false_and, Bool.or_false]
  case atoms =>
    intro g op n w s t ws hit u x accs h haligned hscratch hpieces
    refine exec_eq_becomes_of_issued h id rfl ?_
    have hcheck := scratchCheck_of_ok 4 hscratch
    simp only [accs, x] at haligned hcheck hpieces
    simp only [haligned, hcheck, hpieces, groupRemote_nil]

end Sys2Proof.Machine
end

-- Proofs of the statements about what instructions of groups leave unchanged.
section
/-!
SUPPORT. The frame of a vector instruction, END, faults at the depth of the stack, and STALEMATE (R113, R115, R120, R121, R133, R178, R456).
-/

namespace Sys2Proof.Machine

open Sys2Proof

/-! ## The state that a command answers -/

/-- The effect `k` of a command given at `s`, with the queue and the fuses of `s`. -/
def State.kept (s k : State) : State := { k with pending := s.pending, fuse := s.fuse }

theorem becomes_eq_next (s k : State) : s.becomes k = .next (s.kept k) := rfl
@[simp] theorem group_kept (s k : State) (j : Nat) : (s.kept k).group j = k.group j := rfl
@[simp] theorem kernel_kept (s k : State) (j : Nat) : (s.kept k).kernel j = k.kernel j := rfl

/-! ## Events of a unit (R456) -/

/-- The fields that counting an event writes: the values of unit, die and hub counters and their WRAPPED bits. -/
def eventFields : List Fld := [.CTR_UVAL_VALUE, .CTR_USEL_WRAPPED, .CTR_VAL_VALUE, .CTR_SEL_WRAPPED]

/-- `t` is `s` after events were counted: energy and the values and WRAPPED bits of event counters alone may differ. -/
structure CountedFrom (s t : State) : Prop where
  eq : t = { s with regs := t.regs, power := t.power }
  fields : ∀ x i, i < 2 ^ 20 → x ∉ eventFields → t.f x i = s.f x i

theorem CountedFrom.refl (s : State) : CountedFrom s s := ⟨rfl, fun _ _ _ _ => rfl⟩

theorem CountedFrom.trans {s t u : State} (h : CountedFrom s t) (h' : CountedFrom t u) : CountedFrom s u where
  eq := by rw [h'.eq, h.eq]
  fields x i hi hx := (h'.fields x i hi hx).trans (h.fields x i hi hx)

theorem CountedFrom.foldl {α : Type} {f : State → α → State} {l : List α} (h : ∀ t, ∀ x ∈ l, CountedFrom t (f t x)) (s : State) :
    CountedFrom s (l.foldl f s) := by
  induction l generalizing s with
  | nil => exact .refl s
  | cons x l ih =>
    have hrest : ∀ t, ∀ y ∈ l, CountedFrom t (f t y) := fun t y hy => h t y (List.mem_cons_of_mem x hy)
    exact (h s x List.mem_cons_self).trans (ih hrest (f s x))

theorem CountedFrom.group {s t : State} (h : CountedFrom s t) (j : Nat) : t.group j = s.group j := by rw [h.eq]; rfl

theorem CountedFrom.kernel {s t : State} (h : CountedFrom s t) (j : Nat) : t.kernel j = s.kernel j := by rw [h.eq]; rfl

theorem countedFrom_setF (s : State) {x : Fld} {i : Nat} (v : Nat) (hi : i < 2 ^ 20) (hx : x ∈ eventFields) : CountedFrom s (s.setF x i v) :=
  ⟨rfl, fun _ _ hj hy => State.f_setF_ne s v hi hj (.inl fun hyx => hy (hyx ▸ hx))⟩

theorem countedFrom_addCtr (s : State) {x y : Fld} {i j : Nat} (k : Nat) (hi : i < 2 ^ 20) (hj : j < 2 ^ 20)
    (hx : x ∈ eventFields) (hy : y ∈ eventFields) : CountedFrom s (s.addCtr x y i j k) := by
  have hvalue := countedFrom_setF s (s.f x i + k) hi hx
  unfold State.addCtr
  dsimp only
  split
  · exact hvalue.trans (countedFrom_setF _ 1 hj hy)
  · exact hvalue

theorem countedFrom_seeCtr (s : State) {i : Nat} (src qual part k : Nat) (hi : i < 2 ^ 20) : CountedFrom s (s.seeCtr i src qual part k) := by
  unfold State.seeCtr
  split
  · exact countedFrom_addCtr s k hi hi (by decide) (by decide)
  · exact .refl s

/-- Energy is added to one sum of the power state, or none is. -/
theorem countedFrom_unless (s : State) (idle : Prop) [Decidable idle] (p : Power) :
    CountedFrom s (if idle then s else { s with power := p }) := by
  split
  · exact .refl s
  · exact ⟨rfl, fun _ _ _ _ => rfl⟩

theorem countedFrom_dieEventEnergy (s : State) (n src qual k : Nat) : CountedFrom s (s.dieEventEnergy n src qual k) := by
  unfold State.dieEventEnergy
  split
  · exact countedFrom_unless s _ _
  · split
    · exact countedFrom_unless s _ _
    · exact countedFrom_unless s _ _

theorem countedFrom_evDie (s : State) {n : Nat} (src qual k : Nat) (hn : n < 16) : CountedFrom s (s.evDie n src qual k) := by
  unfold State.evDie
  split
  · exact .refl s
  · refine (countedFrom_dieEventEnergy s n src qual k).trans (.foldl (fun t c hc => ?_) _)
    have hlt := List.mem_range.mp hc
    exact countedFrom_seeCtr t src qual 0 k (by omega)

theorem countedFrom_evUnit (s : State) {u : Nat} (src qual k : Nat) (hu : u < 2048) : CountedFrom s (s.evUnit u src qual k) := by
  unfold State.evUnit
  refine .trans (.foldl (fun t c hc => ?_) s) (countedFrom_evDie _ src qual k (by omega))
  have hlt := List.mem_range.mp hc
  split
  · exact countedFrom_addCtr t k (by omega) (by omega) (by decide) (by decide)
  · exact .refl t

/-! ## The end of an instruction -/

/-- An instruction that ends changes its group; its event is counted. -/
theorem countedFrom_retire (s : State) {g : Nat} (cls : Nat) (x : Group) (hg : g < 65536) :
    CountedFrom (s.setGroup g { x with begun := false }) (s.retire g cls x) :=
  countedFrom_evUnit _ _ _ _ (by unfold unitOf; omega)

theorem group_retire (s : State) {g : Nat} (cls : Nat) (x : Group) (hg : g < 65536) :
    (s.retire g cls x).group g = { x with begun := false } :=
  ((countedFrom_retire s cls x hg).group g).trans (State.setGroup_group s g _)

theorem kernel_retire (s : State) {g : Nat} (cls : Nat) (x : Group) (k : Nat) (hg : g < 65536) : (s.retire g cls x).kernel k = s.kernel k :=
  (countedFrom_retire s cls x hg).kernel k

/-- What a command leaves of the state when it ends an instruction (R178, R456). -/
theorem kept_retire_frame (s t : State) {g : Nat} (cls : Nat) (x : Group) (hg : g < 65536) {u : State} (hu : u = s.kept (t.retire g cls x)) :
    (∀ j, j ≠ g → u.group j = t.group j) ∧ u.mem = t.mem ∧ u.hostMem = t.hostMem ∧ u.caches = t.caches ∧ u.xl = t.xl ∧ u.rings = t.rings ∧
      u.scratch = t.scratch ∧ u.kernels = t.kernels ∧ u.teams = t.teams ∧ u.tables = t.tables ∧ u.engines = t.engines ∧ u.time = t.time ∧
      (∀ x i, i < 2 ^ 20 → x ≠ .CTR_UVAL_VALUE → x ≠ .CTR_USEL_WRAPPED → x ≠ .CTR_VAL_VALUE → x ≠ .CTR_SEL_WRAPPED → u.f x i = t.f x i) := by
  have hcounted := countedFrom_retire t cls x hg
  generalize t.retire g cls x = v at hcounted hu
  obtain ⟨r, p, rfl⟩ : ∃ r p, v = { t.setGroup g { x with begun := false } with regs := r, power := p } := ⟨_, _, hcounted.eq⟩
  subst hu
  exact ⟨fun j hj => State.setGroup_group_ne t _ hj, rfl, rfl, rfl, rfl, rfl, rfl, rfl, rfl, rfl, rfl, rfl,
    fun y i hi h1 h2 h3 h4 => hcounted.fields y i hi (by simp [eventFields, h1, h2, h3, h4])⟩

/-! ## Vector instructions -/

/-- A class that uses more bits of MOD accepts what one that uses fewer does (R116). -/
theorem syncOk_mono {m n : Nat} {w : IWord} (hmn : m ≤ n) (h : syncOk m w = true) : syncOk n w = true := by
  simp only [syncOk, modOk, Bool.and_eq_true, decide_eq_true_eq] at h ⊢
  obtain ⟨hfields, hmod⟩ := h
  exact ⟨hfields, hmod.trans_le (Nat.pow_le_pow_right Nat.two_pos hmn)⟩

/-- The group after an instruction that writes v[D] in its executing lanes. -/
def Group.vectorNext (x : Group) (wide : Bool) (w : IWord) (f : Nat → Nat) : Group := (x.mapLanes wide w.d (x.exec w) f).next w

/-- What such an instruction leaves of its own group. -/
theorem vectorNext_frame (x : Group) (wide : Bool) (w : IWord) (f : Nat → Nat) :
    (∀ r l, l < 64 → ((r ≠ w.d ∧ (wide = false ∨ r ≠ w.d + 1)) ∨ bitOf (x.exec w) l = false) →
        (x.vectorNext wide w f).vget r l = x.vget r l) ∧
      (x.vectorNext wide w f).s = x.s ∧ (x.vectorNext wide w f).p = x.p :=
  ⟨fun _ _ hl hout => vget_mapLanes_ne x f hl hout, mapLanes_s x wide w.d (x.exec w) f, mapLanes_p x wide w.d (x.exec w) f⟩

/-- Settles O47: each such row is one write of v[D] in the executing lanes, whose frame is that of the write and of the event counted. -/
theorem vectorInstructionFrame : Obligations.VectorInstructionFrame := by
  intro g w s t wide c hrow
  obtain ⟨cls, f, hg, hexec⟩ : ∃ cls f, g < 65536 ∧ exec c s = s.becomes (t.retire g cls ((t.group g).vectorNext wide w f)) := by
    obtain ⟨hinteger, hfloating, hspecial, hcvt, hshfl, -⟩ := vectorInstructionsRun
    obtain ⟨-, -, -, -, -, -, -, -, -, hlaneid, -⟩ := scalarAndControlRun
    rcases hrow with ⟨op, rfl, hop, rfl, h⟩ | ⟨op, rfl, hop, rfl, h⟩ | ⟨op, rfl, rfl, h⟩ | ⟨op, rfl, -, rfl, h⟩ | ⟨op, rfl, rfl, h⟩ |
      ⟨rfl, rfl, h⟩
    · exact ⟨_, _, group_lt_of_issued h, (hinteger g op w s t h).1 hop⟩
    · exact ⟨_, _, group_lt_of_issued h, (hfloating g op w s t h).1 hop⟩
    · exact ⟨_, _, group_lt_of_issued h, hspecial g op w s t h⟩
    · exact ⟨_, _, group_lt_of_issued h, hcvt g op w s t h⟩
    · exact ⟨_, _, group_lt_of_issued h, hshfl g op w s t h⟩
    · have hwider := issued_mono (fun _ _ hok => Bool.and_eq_true_iff.mpr
        ((Bool.and_eq_true_iff.mp hok).imp_left (syncOk_mono (Nat.zero_le 2)))) h
      exact ⟨_, _, group_lt_of_issued h, hlaneid g w s t hwider⟩
  obtain ⟨hv, hs, hp⟩ := vectorNext_frame (t.group g) wide w f
  refine ⟨s.kept (t.retire g cls ((t.group g).vectorNext wide w f)), hexec.trans (becomes_eq_next s _), ?_, ?_, ?_, kept_retire_frame s t cls _ hg rfl⟩ <;>
    rw [group_kept, group_retire t cls _ hg]
  · exact hv
  · exact hs
  · exact hp

/-! ## END (R120) -/

/-- The entries after END: those of before without its lanes, but for those left empty. -/
theorem stack_endLanes (x : Group) (w : IWord) : (x.endLanes w).stack =
    ((x.next w).stack.map fun e => { e with mask := andNot e.mask (x.exec w) }).filter fun e => e.mask != 0 := rfl

/-- A group that has ended has left its slot, and its kernel counts it (R143). -/
theorem live_groupEnd (s : State) (g : Nat) : ((s.groupEnd g).group g).live = false := by
  have hempty : ((s.setGroup g {}).group g).live = false := congrArg Group.live (State.setGroup_group s g _)
  unfold State.groupEnd
  dsimp only
  split <;> exact hempty

theorem ended_groupEnd (s : State) (g : Nat) :
    ((s.groupEnd g).kernel (s.group g).kernel).ended = (s.kernel (s.group g).kernel).ended + 1 := by
  have hcount : (((s.setGroup g {}).setKernel (s.group g).kernel { s.kernel (s.group g).kernel with
      ended := (s.kernel (s.group g).kernel).ended + 1 }).kernel (s.group g).kernel).ended = (s.kernel (s.group g).kernel).ended + 1 :=
    congrArg Kernel.ended (State.setKernel_kernel _ _ _)
  unfold State.groupEnd
  dsimp only
  split <;> exact hcount

/-- Settles O50: END filters the stack without its lanes, and a group whose stack is left empty ends. -/
theorem endLeavesEveryEntry : Obligations.EndLeavesEveryEntry := by
  intro g w s t h m before y
  obtain ⟨-, -, -, hend, -⟩ := scalarAndControlRun
  have hexec : exec (.endInstr g w) s = s.becomes (if y.stack = [] then (t.retire g 0 y).groupEnd g else t.retire g 0 y) := hend g w s t h
  have hstack : y.stack = (before.map fun e => { e with mask := andNot e.mask m }).filter fun e => e.mask != 0 := stack_endLanes (t.group g) w
  refine ⟨fun e he => ?_, fun e he hmask => ?_, ?_, fun hsome => ?_, fun hnone => ?_⟩
  · obtain ⟨hin, hmask⟩ := List.mem_filter.mp (hstack ▸ he)
    obtain ⟨e0, -, rfl⟩ := List.mem_map.mp hin
    refine ⟨bne_iff_ne.mp hmask, fun l _ hl => ?_⟩
    simp only [bitOf_andNot, hl, Bool.not_true, Bool.and_false]
  · rw [hstack]
    exact List.mem_filter.mpr ⟨List.mem_map.mpr ⟨e, he, rfl⟩, bne_iff_ne.mpr hmask⟩
  · have hsub := (List.filter_sublist (l := before.map fun e => { e with mask := andNot e.mask m }) (p := fun e => e.mask != 0)).map
      fun e => (e.pc, e.rpc)
    rw [List.map_map] at hsub
    rw [hstack]
    exact hsub
  · rw [hexec, if_neg hsome]
  · rw [if_pos hnone] at hexec
    have hg := group_lt_of_issued h
    have hkernel : ((t.retire g 0 y).group g).kernel = (t.group g).kernel := by rw [group_retire t 0 y hg]; rfl
    have hended := ended_groupEnd (t.retire g 0 y) g
    rw [hkernel, kernel_retire t 0 y _ hg] at hended
    refine ⟨s.kept ((t.retire g 0 y).groupEnd g), hexec.trans (becomes_eq_next s _), ?_, ?_⟩
    · rw [group_kept, live_groupEnd]
    · rw [kernel_kept, hended]

/-! ## Faults of a group (R145) -/

section
variable (s : State) (g sub addr kind access info2 : Nat)

theorem group_kfault_same : (s.kfault g sub addr kind access info2).group g = { s.group g with wait := .stopped } :=
  State.setGroup_group s g _

theorem group_kfault_ne {j : Nat} (h : j ≠ g) : (s.kfault g sub addr kind access info2).group j = s.group j :=
  State.setGroup_group_ne s _ h

@[simp] theorem kfault_mem : (s.kfault g sub addr kind access info2).mem = s.mem := rfl
@[simp] theorem kfault_regs : (s.kfault g sub addr kind access info2).regs = s.regs := rfl

/-- The fault waits behind those raised before it. -/
theorem gfaults_kfault : (s.kfault g sub addr kind access info2).gfaults = s.gfaults ++ [⟨g, (s.group g).kernel, g / 32,
    { status := stKFAULT, sub := sub, result := (s.group g).pc, detail := s.groupIndex g },
    s.groupRec g (0x20 + sub) addr kind access (s.group g).pc info2⟩] := by
  have hkernel : ((s.setGroup g { s.group g with wait := .stopped }).group g).kernel = (s.group g).kernel := by
    rw [State.setGroup_group]
  simp only [State.kfault, State.groupStop, State.groupFault, hkernel]
  rfl

end

/-! ## The depth of the stack (R121) -/

/-- A path that moves keeps the number of entries. -/
theorem length_setPc {x : Group} (pc : Nat) (h : x.stack ≠ []) : (x.setPc pc).stack.length = x.stack.length := by
  have hpos := List.length_pos_iff.mpr h
  simp only [Group.setPc, List.length_cons, List.length_drop]
  omega

/-- Counting a backward branch moves neither the stack nor what the group waits for. -/
theorem back_stack_wait (x : Group) (pc target mask : Nat) : (x.back pc target mask).stack = x.stack ∧ (x.back pc target mask).wait = x.wait := by
  unfold Group.back
  split <;> exact ⟨rfl, rfl⟩

/-- A divergent branch pushes two entries. -/
theorem branch_of_divergent {x : Group} (len target rp : Nat) {taken : Nat} (htaken : taken ≠ 0) (hoff : andNot x.lanes taken ≠ 0)
    (hstack : x.stack ≠ []) :
    (x.branch len target rp taken).stack.length = x.stack.length + 2 ∧ (x.branch len target rp taken).wait = x.wait := by
  simp only [Group.branch, hoff, htaken, if_false, back_stack_wait, List.length_append, length_setPc rp hstack]
  refine ⟨?_, rfl⟩
  split <;> exact Nat.add_comm _ _

/-- Settles O51: a branch whose paths do not fit the stack faults and leaves it; one whose paths fit pushes two entries. -/
theorem branchDepthFault : Obligations.BranchDepthFault := by
  refine ⟨?branch, ?jump⟩
  case branch =>
    intro g w s t x l h htaken hoff halign
    refine ⟨fun hdeep => ?_, fun hstack hroom => ?_⟩
    · refine ⟨s.kept (t.kfault g kfDEPTH), exec_branch_of_deep h halign htaken hoff (decide_eq_true hdeep), ?_, ?_, rfl, rfl⟩ <;>
        rw [group_kept, group_kfault_same]
    · have hexec := exec_branch_of_goes h (.inr halign) (.inr (.inr (decide_eq_false (Nat.not_lt.mpr hroom))))
      obtain ⟨hlength, hwait⟩ := branch_of_divergent (wordLen w) (x.branchTarget w) (x.joinPoint w) htaken hoff hstack
      refine ⟨s.kept _, hexec.trans (becomes_eq_next s _), ?_, ?_⟩ <;> rw [group_kept, group_retire t 0 _ (group_lt_of_issued h)]
      · exact hlength
      · exact hwait
  case jump =>
    intro g w s t x m ts h haligned hall hsome hdeep
    have halign : ts.find? (fun e => e.1 % 8 ≠ 0) = none := List.find?_eq_none.mpr fun e he => by simp [haligned e he]
    have hpaths : x.jumpPaths w = ts := if_pos hall
    exact exec_jumpIndirect_of_deep h halign hsome (decide_eq_true (hpaths.symm ▸ hdeep))

/-! ## STALEMATE (R133) -/

/-- A group that may not issue is left as it is by every instruction. -/
theorem issueOk_of_held {s : State} {g : Nat} (cls : Nat) (op : Option Nat) (w : IWord) (ok : Group → Kernel → Bool) (body : State → State)
    (h : s.canIssue g = false) : s.issueOk g cls op w ok body = s := by
  simp only [State.issueOk, State.issue, h, Bool.not_false, if_true]

theorem canIssue_of_stalemate {s : State} {g : Nat} (h : 2 ^ 24 ≤ (s.group g).fy) : s.canIssue g = false := by
  simp only [State.canIssue, decide_eq_false (Nat.not_lt.mpr h), Bool.and_false]

/-- Settles O52: STALEMATE faults a group whose forced yields have run out, which issues nothing meanwhile; below that it does nothing. -/
theorem stalemateEndsKernel : Obligations.StalemateEndsKernel := by
  refine ⟨?due, ?early⟩
  case due =>
    intro g s x k hg hlive hklive hwait hphase hfy
    have hwf : ∀ {w : IWord}, w.ok = true → (decide (g < 65536) && w.ok) = true := fun hw => by rw [decide_eq_true hg, hw]; rfl
    have hheld := canIssue_of_stalemate hfy
    refine ⟨exec_eq_becomes (decide_eq_true hg) rfl (if_pos ?_), gfaults_kfault s g _ _ _ _ _,
      congrArg Group.wait (group_kfault_same s g _ _ _ _ _), fun j hj => group_kfault_ne s g _ _ _ _ _ hj, rfl, rfl, fun w hw => ⟨?_, ?_, ?_⟩⟩
    · simp only [x, k] at hlive hklive hwait hphase hfy
      simp only [hlive, hklive, hwait, hphase, decide_eq_true hfy, beq_self_eq_true, Bool.and_self]
    · exact exec_eq_becomes (hwf hw) rfl (issueOk_of_held _ _ _ _ _ hheld)
    · exact exec_eq_becomes (hwf hw) rfl (issueOk_of_held _ _ _ _ _ hheld)
    · exact exec_eq_becomes (hwf hw) rfl (issueOk_of_held _ _ _ _ _ hheld)
  case early =>
    intro g s hg hfy
    refine exec_eq_becomes (decide_eq_true hg) rfl (if_neg ?_)
    simp only [Bool.and_eq_true, decide_eq_true_eq]
    omega

end Sys2Proof.Machine
end

-- Proofs of the statements about the matrix engine.
section
/-!
SUPPORT. The instructions of the matrix engine (R148 to R163): each runs its body on a full mask, faults without one, and MLD and MST fault on
a base or stride that breaks R160. A fault moves no data of its own; what the channels that wait to be retired then write (R259) is counted
with the command that finds them waiting.
-/

namespace Sys2Proof.Machine

open Sys2Proof

/-! ## Issue under a full mask (R148) -/

section
variable {s t : State} {g op : Nat} {w : IWord} {ok : Kernel → Bool} {body : State → State}
  (h : s.issued g 9 (some op) w (fun _ k => matrixPlain w && ok k) = some t)
include h

theorem issueMatrix_of_full (hfull : (t.group g).lanes = fullMask) : s.issueMatrix g op w ok body = body t :=
  (issueOk_of_issued _ h).trans (if_pos hfull)

theorem issueMatrix_of_partial (hpart : (t.group g).lanes ≠ fullMask) : s.issueMatrix g op w ok body = t.kfault g kfPARTIAL :=
  (issueOk_of_issued _ h).trans (if_neg hpart)

end

/-! ## MLD (R158 to R161) -/

section
variable {s t : State} {g : Nat} {w : IWord} (h : s.issued g 9 (some 1) w (fun _ k => matrixPlain w && mldOk k.vregs w) = some t)
  (hfull : (t.group g).lanes = fullMask)
include h hfull

theorem exec_mld_of_unaligned (hodd : (t.group g).unaligned32 w = true) :
    exec (.mld g w) s = s.becomesR (t.kfault g kfMISALIGNED ((t.group g).sget w.a) 1 1) :=
  exec_eq_becomesR (ok_of_issued h) rfl ((issueMatrix_of_full h hfull).trans (if_pos hodd))

variable (haligned : (t.group g).unaligned32 w = false)
include haligned

theorem exec_mld_of_memory {u v : State} {bs : List (Acc × Bytes)} {ws : List (Nat × Nat)} (hspace : bitOf w.mod 5 = false)
    (hload : t.groupLoad g 1 (bitsOf w.mod 3 2) ((t.group g).mldAccs w) = (some (bs, []), u)) (hregs : u.allLaneRegs w.d bs = (ws, v)) :
    exec (.mld g w) s = s.becomesR (v.retire g 9
      ({ v.group g with v := ws.foldl (fun r (e : Nat × Nat) => r.fput e.1 (e.2 % 2 ^ 32) 0) (v.group g).v }.next w)) := by
  refine exec_eq_becomesR (ok_of_issued h) rfl ((issueMatrix_of_full h hfull).trans ?_)
  simp only [haligned, hspace, Bool.false_eq_true, if_false, State.loadRegs, hload, hregs, groupRemote_nil]

theorem exec_mld_of_scratch {u : State} {ws : List (Nat × Nat)} (hspace : bitOf w.mod 5 = true)
    (hscratch : ∀ a ∈ (t.group g).mldAccs w, t.scratchOk g a.va a.len = true)
    (hregs : t.allLaneRegs w.d (((t.group g).mldAccs w).map fun a => (a, t.scratchBytes (t.teamOf g) a.va a.len)) = (ws, u)) :
    exec (.mld g w) s = s.becomesR (u.retire g 9
      ({ u.group g with v := ws.foldl (fun r (e : Nat × Nat) => r.fput e.1 (e.2 % 2 ^ 32) 0) (u.group g).v }.next w)) := by
  refine exec_eq_becomesR (ok_of_issued h) rfl ((issueMatrix_of_full h hfull).trans ?_)
  simp only [haligned, hspace, Bool.false_eq_true, if_false, if_true, scratchCheck_of_ok 1 hscratch, hregs, groupRemote_nil]

end

/-! ## MST (R159 to R161, R183) -/

/-- The 32 bytes of a row that a piece of MST stores. -/
def Group.mstData (x : Group) (w : IWord) (a : Acc) : Bytes :=
  sliceB (x.mstRow w (a.lane / mstSize (w.mod % 8))) (a.lane % mstSize (w.mod % 8) * 32) 32

section
variable {s t : State} {g : Nat} {w : IWord} (h : s.issued g 9 (some 2) w (fun _ k => matrixPlain w && mstOk k.vregs w) = some t)
  (hfull : (t.group g).lanes = fullMask)
include h hfull

theorem exec_mst_of_misplaced (hbad : (t.group g).unaligned32 w = true ∨ (t.group g).sget w.b < 32 * mstSize (w.mod % 8)) :
    exec (.mst g w) s = s.becomesR (t.kfault g kfMISALIGNED ((t.group g).sget w.a) 1 2) :=
  exec_eq_becomesR (ok_of_issued h) rfl
    ((issueMatrix_of_full h hfull).trans (if_pos (by simpa only [Bool.or_eq_true, decide_eq_true_eq] using hbad)))

variable (haligned : (t.group g).unaligned32 w = false) (hstride : 32 * mstSize (w.mod % 8) ≤ (t.group g).sget w.b)
include haligned hstride

theorem exec_mst_of_memory {u' u v : State} {l : List (Acc × Loc)} (hspace : bitOf w.mod 5 = false)
    (hxlate : t.groupXlate g 2 ((t.group g).mstAccs w) = (some l, u')) (hlocal : remoteOf l = [])
    (hroom : u'.storeWaits (sliceOf (unitOf g)) (if bitOf w.mod 6 then 2 else 0) (localOf l) = (false, u))
    (hwrite : u.writePieces g (u.kernelOf g).part (if bitOf w.mod 6 then 2 else 0) ((t.group g).mstData w) (localOf l) = (none, v)) :
    exec (.mst g w) s = s.becomesR ((v.storeDone g).retire g 9 (((v.storeDone g).group g).next w)) := by
  refine exec_eq_becomesR (ok_of_issued h) rfl ((issueMatrix_of_full h hfull).trans ?_)
  unfold Group.mstData at hwrite
  simp only [haligned, Nat.not_lt.mpr hstride, decide_false, Bool.or_self, hspace, Bool.false_eq_true, if_false, State.storePieces, hxlate,
    hroom, hwrite, hlocal, groupRemote_nil, List.foldl_nil]

theorem exec_mst_of_scratch (hspace : bitOf w.mod 5 = true)
    (hscratch : ∀ a ∈ (t.group g).mstAccs w, t.scratchOk g a.va a.len = true) :
    exec (.mst g w) s = s.becomesR
      (let v := (((t.group g).mstAccs w).foldl (fun s a => s.scratchPut (t.teamOf g) a.va ((t.group g).mstData w a)) t).storeDone g
       v.retire g 9 ((v.group g).next w)) := by
  refine exec_eq_becomesR (ok_of_issued h) rfl ((issueMatrix_of_full h hfull).trans ?_)
  simp only [haligned, Nat.not_lt.mpr hstride, decide_false, Bool.or_self, hspace, Bool.false_eq_true, if_false, if_true,
    scratchCheck_of_ok 2 hscratch, Group.mstData]

end

/-! ## The statement about the three instructions -/

/-- Settles O31: a full mask runs the body, whose checks pass; any other mask faults. -/
theorem matrixInstructionsRun : Obligations.MatrixInstructionsRun := by
  refine ⟨?mma, ?mld, ?mst⟩
  case mma =>
    intro g w s t h
    exact ⟨fun hfull => exec_eq_becomes (ok_of_issued h) rfl (issueMatrix_of_full h hfull),
      fun hpart => exec_eq_becomes (ok_of_issued h) rfl (issueMatrix_of_partial h hpart)⟩
  case mld =>
    intro g w s t x h
    refine ⟨fun hfull haligned => ⟨?memory, ?scratch⟩, fun hpart => ?partialMask⟩
    case memory =>
      intro u v bs ws hspace hload hregs
      exact exec_mld_of_memory h hfull haligned hspace hload hregs
    case scratch =>
      intro u ws hspace hscratch hregs
      exact exec_mld_of_scratch h hfull haligned hspace hscratch hregs
    case partialMask => exact exec_eq_becomesR (ok_of_issued h) rfl (issueMatrix_of_partial h hpart)
  case mst =>
    intro g w s t x n data h
    refine ⟨fun hfull haligned hstride => ⟨?memory, ?scratch⟩, fun hpart => ?partialMask⟩
    case memory =>
      intro u' u v l pol hspace hxlate hlocal hroom hwrite
      exact exec_mst_of_memory h hfull haligned hstride hspace hxlate hlocal hroom hwrite
    case scratch =>
      intro hspace hscratch
      exact exec_mst_of_scratch h hfull haligned hstride hspace hscratch
    case partialMask => exact exec_eq_becomesR (ok_of_issued h) rfl (issueMatrix_of_partial h hpart)

/-! ## A misplaced base or stride (R160) -/

/-- With no channel that waits to be retired, the settling of channels leaves the state. -/
theorem settleRetire_of_none {s : State} (h : ∀ e ∈ s.stk, e.2.retiring = []) : s.settleRetire = s := by
  have hnone : s.stk.filter (fun (e : Nat × Stack) => !e.2.retiring.isEmpty) = [] :=
    List.filter_eq_nil_iff.mpr fun e he => by simp only [h e he, List.isEmpty_nil, Bool.not_true, Bool.false_eq_true, not_false_eq_true]
  rw [State.settleRetire, hnone, List.map_nil, List.foldl_nil]

/-- A command whose effect is a fault of group g on `t`, where no channel waits to be retired, adds the fault and moves no data. -/
theorem moves_nothing_of_kfault {c : Instr} {s t : State} {g sub addr kind access : Nat}
    (hexec : exec c s = s.becomesR (t.kfault g sub addr kind access)) (hnone : ∀ e ∈ t.stk, e.2.retiring = []) :
    ∃ u, exec c s = .next u ∧ u.gfaults = (t.kfault g sub addr kind access).gfaults ∧ u.mem = t.mem ∧ u.scratch = t.scratch ∧
      u.caches = t.caches ∧ (u.group g).v = (t.group g).v ∧ (u.group g).s = (t.group g).s := by
  have hsettled : (t.kfault g sub addr kind access).settleRetire = t.kfault g sub addr kind access := settleRetire_of_none hnone
  rw [State.becomesR, hsettled, becomes_eq_next] at hexec
  refine ⟨_, hexec, rfl, rfl, rfl, rfl, ?_, ?_⟩ <;> rw [group_kept, group_kfault_same]

/-- What R160 says of MLD and MST, where no channel waits to be retired once the word has been fetched. -/
theorem misplaced_moves_nothing (g : Nat) (w : IWord) (s t : State) (hfull : (t.group g).lanes = fullMask)
    (hnone : ∀ e ∈ t.stk, e.2.retiring = []) :
    (s.issued g 9 (some 1) w (fun _ k => matrixPlain w && mldOk k.vregs w) = some t → (t.group g).unaligned32 w = true →
      ∃ u, exec (.mld g w) s = .next u ∧ u.gfaults = (t.kfault g kfMISALIGNED ((t.group g).sget w.a) 1 1).gfaults ∧ u.mem = t.mem ∧
        u.scratch = t.scratch ∧ u.caches = t.caches ∧ (u.group g).v = (t.group g).v ∧ (u.group g).s = (t.group g).s) ∧
    (s.issued g 9 (some 2) w (fun _ k => matrixPlain w && mstOk k.vregs w) = some t →
      (t.group g).unaligned32 w = true ∨ (t.group g).sget w.b < 32 * mstSize (w.mod % 8) →
      ∃ u, exec (.mst g w) s = .next u ∧ u.gfaults = (t.kfault g kfMISALIGNED ((t.group g).sget w.a) 1 2).gfaults ∧ u.mem = t.mem ∧
        u.scratch = t.scratch ∧ u.caches = t.caches ∧ (u.group g).v = (t.group g).v ∧ (u.group g).s = (t.group g).s) :=
  ⟨fun h hodd => moves_nothing_of_kfault (exec_mld_of_unaligned h hfull hodd) hnone,
    fun h hbad => moves_nothing_of_kfault (exec_mst_of_misplaced h hfull hbad) hnone⟩

/-- An MLD of binary64 to v[0] from the base s[1] with the stride s[2]. -/
def plainMld : IWord := { d := 0, a := 1, b := 2, c := 0, pred := 0, pneg := false, fmt := 0, rnd := 0, mod := 0, lit := none }

/-- Group 0 runs with a full mask and is to issue `plainMld`, whose word it has, with the base 1; channel 1 of stack 0 waits to be retired.
Fault queue 0, of the partition of die 0, is enabled: its words at 0, its records from 1024. Two NoAllocReads are in flight, one for the
codeword of the queue's words and one for the first codeword of stack 1: that one has a bad symbol, on a lane at its limit of errors, whose
channel has two carried lanes and no spare. -/
def retiringState : State :=
  [(Fld.ID_PRESENT_DIES, 0, 1), (.ID_PART_VALID_DIES, 0, 1), (.XL_FQ_CTRL_ENABLE, 0, 1), (.XL_FQ_CTRL_SIZE_LOG2, 0, 6),
    (.XL_FQ_BASE_ADDR, 0, 16), (.MEM_CTRL_LANE_LIMIT, 1, 1), (.MEM_CHAN_CARRIED, 32, 2)].foldl (fun s e => s.setF e.1 e.2.1 e.2.2)
    { groups := [(0, { live := true, stack := [⟨0, fullMask, 2 ^ 64 - 1⟩], s := [(1, 1)], code := [(0, leBytes 8 (wordBits plainMld 9 1))] })]
      kernels := [(0, { live := true, phase := .running })]
      stk := [(0, { retiring := [1] }), (1, { badSpares := [(0, 15)] })]
      ecc := [(granKey 1 0, [(0, 1)])]
      caches := { net := [(0, .request 512 (granKey 1 0) 4 false), (0, .request 512 (granKey 0 0) 4 false)] } }

/-- The MLD issues there. The retirement that its fetch settles reads the queue's words, with which both reads arrive, and the bad symbol's
lane becomes the third carried one of its channel: that channel is left for the MLD to retire, whose fault record joins the first (R306) and
raises its COUNT, bytes 44 and 45. -/
theorem settleRetire_writes_record :
    ((retiringState.issued 0 9 (some 1) plainMld fun _ k => matrixPlain plainMld && mldOk k.vregs plainMld).any fun t =>
      decide ((t.group 0).lanes = fullMask) && (t.group 0).unaligned32 plainMld &&
        (t.kfault 0 kfMISALIGNED ((t.group 0).sget plainMld.a) 1 1).settleRetire.memByte (1024 + 44) != t.memByte (1024 + 44)) = true := by
  decide +kernel

theorem unaligned32_iff (x : Group) (w : IWord) : x.unaligned32 w = true ↔ x.sget w.a % 32 ≠ 0 ∨ x.sget w.b % 32 ≠ 0 := by
  simp only [Group.unaligned32, Bool.or_eq_true, bne_iff_ne]

/-- Refutes O53: the MLD itself moves no data, but its row also retires the channel that its fetch has left to be retired (R259), whose fault
record changes a byte of module memory after the word has been fetched. -/
theorem not_matrixAddressMisaligned : ¬ Obligations.MatrixAddressMisaligned := by
  intro h
  obtain ⟨t, hissued, hfacts⟩ := (Option.any_eq_true _ _).mp settleRetire_writes_record
  simp only [Bool.and_eq_true, decide_eq_true_eq, bne_iff_ne] at hfacts
  obtain ⟨⟨hfull, hodd⟩, hrecord⟩ := hfacts
  obtain ⟨u, hnext, -, hmem, -⟩ := (h 0 plainMld retiringState t hfull).1 hissued ((unaligned32_iff _ _).mp hodd)
  have hexec := exec_mld_of_unaligned hissued hfull hodd
  rw [State.becomesR, becomes_eq_next, hnext] at hexec
  cases hexec
  exact hrecord (congrArg (fun m => FMap.fget m (1024 + 44) 0) hmem)

end Sys2Proof.Machine
end

-- Proofs of the statements about the cellar.
section
/-!
SUPPORT. The cellar's commands, their waits and its regions (R196 to R218, R483): the body of each command once its checks have passed, and the
effect of each event once its trigger holds.
-/

namespace Sys2Proof.Machine

open Sys2Proof

/-! ## A command that has not been taken before -/

/-- A command with nothing in progress starts. -/
theorem celAgain_of_new {s : State} {r pos : Nat} (start : State) (h : s.cop? r pos = none) : s.celAgain r pos start = start := by
  simp only [State.celAgain, h, Option.isSome_none, Bool.false_eq_true, if_false]

/-! ## The checks of each body -/

/-- PLACE, STACK and the reserved bytes of a CASK_ALLOC are in order (R201). -/
theorem caskAlloc_bodyOk {e : Entry} (hplace : e.body 28 1 < 3) (hstk : e.body 29 1 < 32) (hunused : e.body 28 1 ≠ 2 → e.body 29 1 = 0)
    (hzero : e.zero 30 34 = true) :
    (decide (3 ≤ e.body 28 1) || decide (32 ≤ e.body 29 1) || (decide (e.body 28 1 ≠ 2) && decide (e.body 29 1 ≠ 0)) || !e.zero 30 34) =
      false := by
  simpa [hplace, hstk, hzero] using hunused

/-- The stacks that a CASK_ALLOC may use are the partition's, and the one it names is among them (R202 step 3). -/
theorem caskAlloc_stacksOk {place stk mask own : Nat} (hown : andNot mask own = 0) (hmask : mask ≠ 0)
    (hstk : place = 2 → bitOf own stk = true ∧ bitOf mask stk = true) :
    (decide (andNot mask own ≠ 0) || (decide (place = 2) && !bitOf own stk)) = false ∧
      (decide (mask = 0) || (decide (place = 2) && !bitOf mask stk)) = false := by
  by_cases hplace : place = 2
  · obtain ⟨ho, hm⟩ := hstk hplace
    simp [hown, hmask, ho, hm]
  · simp [hown, hmask, hplace]

/-- The rows and the entry that a CASK_RACK names lie in the table (R206). -/
theorem caskRack_rangeOk {e : Entry} {d : Desc} (hmost : e.body 32 4 ≤ 2 ^ 24) (hheads : e.body 42 2 + e.body 44 2 ≤ d.heads)
    (hlayer : e.body 40 2 < d.layers) (hcontext : e.body 36 4 < d.contexts)
    (hblock : (e.body 24 8 + e.body 32 4 - 1) / d.cap < d.blocks) :
    (decide (2 ^ 24 < e.body 32 4) || decide (d.heads < e.body 42 2 + e.body 44 2) || decide (d.layers ≤ e.body 40 2) ||
      decide (d.contexts ≤ e.body 36 4) || decide (d.blocks ≤ (e.body 24 8 + e.body 32 4 - 1) / d.cap)) = false := by
  simp only [Nat.not_lt.mpr hmost, Nat.not_lt.mpr hheads, Nat.not_le.mpr hlayer, Nat.not_le.mpr hcontext, Nat.not_le.mpr hblock,
    decide_false, Bool.or_self]

/-! ## The end of a wait (R483) -/

section
variable {s : State} {r pos : Nat} {c : COp} (hcop : s.cop? r pos = some c) (hactive : s.isActive r pos = true)
include hcop hactive

theorem effCaskTake_of_free (hphase : c.phase = .take) (hfree : s.celBlocked r pos c = false) :
    effCaskTake r pos s = s.celResume r pos := by
  simp only [effCaskTake, hcop, hactive, hphase, hfree, beq_self_eq_true, Bool.not_false, Bool.and_self, if_true]

theorem effPinsZero_of_unpinned (hphase : c.phase = .pins) (hpins : crPins (s.crec c.stack c.cask) = 0) :
    effPinsZero r pos s = s.celResume r pos := by
  simp only [effPinsZero, hcop, hactive, hphase, hpins, beq_self_eq_true, Bool.and_self, if_true]

end

/-! ## Regions (R217, R218) -/

/-- Writing a field of a stack leaves the stack's other fields alone. -/
theorem f_setF_stack_ne (s : State) {x y : Fld} {k : Nat} (v : Nat) (hk : k < 32) (h : y ≠ x) : (s.setF x k v).f y k = s.f y k :=
  State.f_setF_ne s v (by omega) (by omega) (.inl h)

@[simp] theorem f_setCel (s : State) (x : Fld) (i k : Nat) (c : Cellar) : (s.setCel k c).f x i = s.f x i := rfl
@[simp] theorem cel_setF (s : State) (x : Fld) (i v k : Nat) : (s.setF x i v).cel k = s.cel k := rfl

/-- The records that formatting writes on a whole stack: those of the record casks zero, and each later one FREE and naming the next. -/
def State.formatRecords (s : State) (k n : Nat) : State :=
  (List.range n).foldl (fun s i =>
    if i < divUp n 1024 then s.setCrec k i (zeroBytes 64)
    else s.setCrec k i (putAt (zeroBytes 64) 24 (leBytes 4 (if i + 1 < n then i + 1 else noCask)))) s

/-- The region of a whole stack READY, every cask after the record casks on the free list. -/
def State.formatEnd (s : State) (k n : Nat) : State :=
  let s := (s.setF .CLR_STATUS_FORMATTING k 0).setF .CLR_STATUS_READY k 1
  let s := (s.setF .CLR_FIRST_FIRST k (divUp n 1024)).setF .CLR_USE_ALLOCATED k 0
  ((s.setCel k { s.cel k with top := divUp n 1024 }).setF .CLR_STATUS_FREE k (n - divUp n 1024)).setF .CLR_USE_RETIRED k 0

theorem effClrFormatDone_of_whole {s t : State} {k dt : Nat} (ht : s.elapse dt = t) (hformatting : t.fb .CLR_STATUS_FORMATTING k = true)
    (hwhole : t.stackRetired k = false) :
    effClrFormatDone k dt s = (t.formatRecords k (t.cel k).casks).formatEnd k (t.cel k).casks := by
  simp only [effClrFormatDone, ht, hformatting, hwhole, Bool.not_true, Bool.false_eq_true, if_false]
  rfl

theorem formatEnd_region (s : State) {k : Nat} (n : Nat) (hk : k < 32) :
    let t := s.formatEnd k n
    t.f .CLR_STATUS_FORMATTING k = 0 ∧ t.f .CLR_STATUS_READY k = 1 ∧
      t.f .CLR_FIRST_FIRST k = divUp n 1024 % 2 ^ Fld.CLR_FIRST_FIRST.info.width ∧ t.f .CLR_USE_ALLOCATED k = 0 ∧
      t.f .CLR_USE_RETIRED k = 0 ∧ (t.cel k).top = divUp n 1024 ∧
      t.f .CLR_STATUS_FREE k = (n - divUp n 1024) % 2 ^ Fld.CLR_STATUS_FREE.info.width := by
  have hready : 1 % 2 ^ Fld.CLR_STATUS_READY.info.width = 1 := rfl
  simp [State.formatEnd, f_setF_stack_ne, hk, hready]

/-- The region forgotten, and with it the casks of the stack popped or reserved for commands. -/
def State.dropRegion (s : State) (k : Nat) : State :=
  let s := s.setCel k {}
  { s with cops := s.cops.map fun (c : COp) => { c with
    popped := c.popped.filter fun (x : Nat × Nat) => x.1 != k
    reserved := c.reserved.map fun (x : Nat × Nat) => if x.1 == k then (99, 0) else x } }

/-- The registers of a stack without a region. -/
def State.clearRegion (s : State) (k : Nat) : State :=
  ((((s.setF .CLR_STATUS_READY k 0).setF .CLR_STATUS_FREE k 0).setF .CLR_USE_ALLOCATED k 0).setF .CLR_USE_RETIRED k 0).setF
    .CLR_FIRST_FIRST k 0

@[simp] theorem cel_dropRegion (s : State) (k : Nat) : (s.dropRegion k).cel k = {} := State.setCel_cel s k {}

theorem effClrRegionDrop_of_free {s : State} {k : Nat} (hdropping : (s.cel k).dropping = true) (hfree : s.celHeld k = false) :
    effClrRegionDrop k s = (s.dropRegion k).clearRegion k := by
  simp only [effClrRegionDrop, hdropping, hfree, Bool.not_false, Bool.and_self, if_true]
  rfl

theorem clearRegion_region (s : State) {k : Nat} (hk : k < 32) :
    let t := s.clearRegion k
    t.cel k = s.cel k ∧ t.f .CLR_STATUS_READY k = 0 ∧ t.f .CLR_STATUS_FREE k = 0 ∧ t.f .CLR_USE_ALLOCATED k = 0 ∧
      t.f .CLR_USE_RETIRED k = 0 ∧ t.f .CLR_FIRST_FIRST k = 0 ∧ t.mem = s.mem := by
  simp [State.clearRegion, f_setF_stack_ne, hk]

/-! ## The statement about the cellar -/

/-- Settles O18: a command that starts does its body, whose checks the hypotheses pass; a wait that is over resumes the command, and a region
is formatted or dropped as its lemma says. -/
theorem cellarCommandsRun : Obligations.CellarCommandsRun := by
  refine ⟨?alloc, ?rack, ?rackEmpty, ?free, ?move, ?waits, ?format, ?drop⟩
  case alloc =>
    intro r pos s t u v e d ks spill hbegun hplace hstk hunused hzero hdesc hrange hown hmask hnamed hnew hscan hwalk
    have hfits := caskAlloc_bodyOk hplace hstk hunused hzero
    obtain ⟨hrights, hsome⟩ := caskAlloc_stacksOk hown hmask hnamed
    exact exec_eq_becomesR_of_begun hbegun rfl rfl
      (by simp only [hfits, hnew, hdesc, hrange, hrights, hsome, hscan, hwalk, Bool.false_eq_true, if_false])
  case rack =>
    intro r pos s t u e d
    dsimp only
    intro hbegun hzero hrows hheads hnew hdesc hcode hkey hval hkeys hvals hkeyStep hvalStep hmost hlast hlayer hcontext hblock
    obtain ⟨_, _, _, hkeyFinite⟩ := hkey
    obtain ⟨_, _, _, hvalFinite⟩ := hval
    have hformat : (e.body 46 1 == 1 || e.body 46 1 == 2 || e.body 46 1 == 3) = true := by simpa [or_assoc] using hcode
    have hinside := caskRack_rangeOk hmost hlast hlayer hcontext hblock
    exact exec_eq_becomesR_of_begun hbegun rfl rfl
      (by simp only [hzero, hrows, hheads, celAgain_of_new _ hnew, hdesc, hformat, hkeyFinite, hvalFinite, hkeys, hvals, hkeyStep, hvalStep,
        hinside, ne_eq, not_true_eq_false, decide_false, Bool.not_true, Bool.or_self, Bool.false_eq_true, if_false])
  case rackEmpty =>
    intro r pos s t e hbegun hzero hempty
    have hnone : (decide (e.body 32 4 = 0) || decide (e.body 44 2 = 0)) = true := by simpa using hempty
    exact exec_eq_becomesR_of_begun hbegun rfl rfl
      (by simp only [hzero, hnone, ne_eq, not_true_eq_false, if_false, if_true])
  case free =>
    intro r pos s t u e d hbegun hflags hzero hcount hnew hdesc hrange
    have hfits : (decide (e.body 28 2 ≠ 0) || !e.zero 30 34) = false := by simp [hflags, hzero]
    exact exec_eq_becomesR_of_begun hbegun rfl rfl
      (by simp only [hfits, hcount, celAgain_of_new _ hnew, hdesc, hrange, Bool.false_eq_true, if_false])
  case move =>
    intro r pos s t u e d hbegun hdst hzero hnew hdesc hcontext hblock hlayer hhead howner
    have hfits : (decide (32 ≤ e.body 20 1) || !e.zero 21 43) = false := by simp [hdst, hzero]
    have hinside : (decide (d.contexts ≤ e.body 8 4) || decide (d.blocks ≤ e.body 12 4) || decide (d.layers ≤ e.body 16 2) ||
        decide (d.heads ≤ e.body 18 2)) = false := by simp [hcontext, hblock, hlayer, hhead]
    exact exec_eq_becomesR_of_begun hbegun rfl rfl
      (by simp only [hfits, celAgain_of_new _ hnew, hdesc, hinside, howner, ne_eq, not_true_eq_false, Bool.false_eq_true, if_false])
  case waits =>
    intro r pos s c hpos hcop hactive
    exact ⟨fun hphase hfree => exec_eq_becomesR hpos rfl (effCaskTake_of_free hcop hactive hphase hfree),
      fun hphase hpins => exec_eq_becomesR hpos rfl (effPinsZero_of_unpinned hcop hactive hphase hpins)⟩
  case format =>
    intro k dt s t0 n hk hformatting hwhole
    exact ⟨_, exec_eq_becomes (decide_eq_true hk) rfl (effClrFormatDone_of_whole rfl hformatting hwhole), formatEnd_region _ n hk⟩
  case drop =>
    intro k s hk hdropping hfree
    obtain ⟨hcel, hfields⟩ := clearRegion_region (s.dropRegion k) hk
    exact ⟨_, exec_eq_becomes (decide_eq_true hk) rfl (effClrRegionDrop_of_free hdropping hfree), hcel.trans (cel_dropRegion s k), hfields⟩

end Sys2Proof.Machine
end

-- Proofs of the statement about the tap engines.
section
/-!
SUPPORT. TAPs (R219 to R231): the checks of the command, and the effect of each event of a TAP in progress once its condition holds.
-/

namespace Sys2Proof.Machine

open Sys2Proof

/-! ## The checks of a TAP -/

/-- The tokens and the table position that a TAP names lie in the table, in at most 65,536 blocks (R222 step 4). -/
theorem tap_rangeOk {e : Entry} {d : Desc} (hcontext : e.body 36 4 < d.contexts) (hlayer : e.body 40 2 < d.layers)
    (hhead : e.body 42 2 < d.heads) (hblock : (e.body 24 8 + e.body 32 4 - 1) / d.cap < d.blocks)
    (hspan : (e.body 24 8 + e.body 32 4 - 1) / d.cap - e.body 24 8 / d.cap + 1 ≤ 65536) :
    (decide (d.contexts ≤ e.body 36 4) || decide (d.layers ≤ e.body 40 2) || decide (d.heads ≤ e.body 42 2) ||
      decide (d.blocks ≤ (e.body 24 8 + e.body 32 4 - 1) / d.cap) ||
      decide (65536 < (e.body 24 8 + e.body 32 4 - 1) / d.cap - e.body 24 8 / d.cap + 1)) = false := by
  simp only [Nat.not_le.mpr hcontext, Nat.not_le.mpr hlayer, Nat.not_le.mpr hhead, Nat.not_le.mpr hblock, Nat.not_lt.mpr hspan,
    decide_false, Bool.or_self]

/-- A TAP that asks for top-k selection does so with its feature present (R222 step 2). -/
theorem tap_featureOk {s : State} {e : Entry} (h : tapTopk e ≠ 0 → bitOf (s.f .ID_FEAT_FEAT) 0 = true) :
    (decide (tapTopk e ≠ 0) && !bitOf (s.f .ID_FEAT_FEAT) 0) = false := by
  simpa using h

/-! ## Resolution (R223, R224) -/

/-- The blocks of the table that hold the TAP's tokens, in order. -/
def tapBlocks (e : Entry) (d : Desc) : List Nat :=
  let first := e.body 24 8 / d.cap
  (List.range ((e.body 24 8 + e.body 32 4 - 1) / d.cap - first + 1)).map (first + ·)

/-- The passes of a TAP on the stacks of its slices: every stack's in the order of their row groups. -/
def slicePasses (r pos : Nat) (e : Entry) (slices : List Nat) : List (Nat × Pass) :=
  slices.zipIdx.flatMap fun (k, rank) => (List.range (tapPasses e)).map fun g => (k, ⟨r, pos, g, rank⟩)

/-- The TAP with its casks pinned, cut into passes. -/
def Tap.cut (e : Entry) (pins : List Pin) (r pos : Nat) (t : Tap) : Tap :=
  let slices := sortNats (pins.map (·.stack)) 32
  let held := slicePasses r pos e slices
  { t with resolved := true, blocked := none, pins := pins, slices := slices, held := held, left := held.length }

/-- A TAP whose blocking cask, if it has one, is free again and whose casks are all pinned, on no more stacks than it has slices, is cut. -/
theorem effTapResolve_of_pinned {s u : State} {r pos : Nat} {t : Tap} {e : Entry} {pins pins' : List Pin} (htap : s.tap? r pos = some t)
    (hentry : s.entry? r pos = some e) (hnew : t.resolved = false)
    (hunblocked : ∀ k i, t.blocked = some (k, i) → (crHold (s.crec k i) || crPins (s.crec k i) == 65535) = false)
    (hactive : e.active = true)
    (hpin : s.tapPin r pos e (Desc.ofBytes t.desc) (tapBlocks e (Desc.ofBytes t.desc)) [] = (.ok pins, pins', u))
    (hslices : (sortNats (pins.map (·.stack)) 32).length ≤ e.body 58 1) :
    effTapResolve r pos s = u.modTap r pos (Tap.cut e pins r pos) := by
  have hroom := Nat.not_lt.mpr hslices
  rw [tapBlocks] at hpin
  rcases hblocked : t.blocked with _ | ⟨k, i⟩
  · simp only [effTapResolve, htap, hentry, hnew, hblocked, hactive, hpin, hroom, Bool.not_true, Bool.or_self, Bool.false_eq_true, if_false]
    rfl
  · have hfree := hunblocked k i hblocked
    simp only [effTapResolve, htap, hentry, hnew, hblocked, hfree, hactive, hpin, hroom, Bool.and_false, Bool.not_true, Bool.or_self,
      Bool.false_eq_true, if_false]
    rfl

/-! ## Passes (R225, R226, R231) -/

/-- The TAP with pass `p` given to engine `k`. -/
def Tap.dispatched (k : Nat) (p : Pass) (t : Tap) : Tap :=
  { t with held := t.held.erase (k, p), fullAt := t.fullAt.filter (· != k) }

/-- The first pass that a TAP holds for an engine joins the engine's queue while that has room. -/
theorem effTapPassDispatch_of_room {s : State} {r pos k k' : Nat} {t : Tap} {p : Pass} (htap : s.tap? r pos = some t)
    (hheld : (t.held.find? fun x => x.1 == k) = some (k', p)) (hroom : (s.tapE k).queue.length < 64) :
    effTapPassDispatch r pos k s =
      (s.setTapE k { s.tapE k with queue := (s.tapE k).queue ++ [p] }).modTap r pos (Tap.dispatched k p) := by
  simp only [effTapPassDispatch, htap, hheld, Nat.not_le.mpr hroom, if_false]
  rfl

/-- The rows of a pass. -/
def passIxs (e : Entry) (p : Pass) : List Nat :=
  (List.range 16).filterMap fun i => if 16 * p.group + i < tapRows e then some (16 * p.group + i) else none

/-- The row records of a pass with their places in OUT (R230). -/
def passRecords (e : Entry) (d : Desc) (p : Pass) (rows : List TRow) : List (Nat × Bytes) :=
  ((passIxs e p).zip rows).map fun (i, row) => ((p.slice * tapRows e + i) * tapRb e d, rowRecord e d row)

/-- A free engine runs the pass at the head of its queue once the rows and the casks of the pass are read. -/
theorem effTapPassStart_of_read {s u v w : State} {k : Nat} {p : Pass} {rest : List Pass} {e : Entry} {t : Tap} {rows rows' : List TRow}
    (hrun : (s.tapE k).run = none) (hqueue : (s.tapE k).queue = p :: rest) (hw : (s.wakeDie (k / 2)).ranOn (k / 2) 1 = w)
    (hentry : w.entry? p.ring p.pos = some e) (htap : w.tap? p.ring p.pos = some t) (hactive : e.active = true)
    (hrows : w.passRows p.ring p.pos k e (Desc.ofBytes t.desc) (passIxs e p) [] = (some rows, u))
    (hcasks : u.passCasks k e (Desc.ofBytes t.desc) (t.pins.filter fun x => x.stack == k) rows = (.ok rows', v)) :
    effTapPassStart k s =
      (v.setTapE k { v.tapE k with run := some (p, passRecords e (Desc.ofBytes t.desc) p rows'), queue := rest }).tapUnpin p.ring p.pos k := by
  rw [passIxs] at hrows
  simp only [effTapPassStart, hrun, hqueue, hw, hentry, htap, hactive, Bool.not_true, Bool.false_eq_true, if_false, hrows, hcasks]
  rfl

/-- Engine `k` free after pass `p`, the pass counted, and one pass fewer of its TAP left. -/
def State.passEnded (s : State) (k : Nat) (p : Pass) : State :=
  ((s.setTapE k { s.tapE k with run := none }).incF .TAP_PASSES_PASSES k).modTap p.ring p.pos fun t => { t with left := t.left - 1 }

/-- A pass whose records are written ends, and with the last one the command (R231). -/
theorem effTapPassEnd_of_written {s u : State} {k : Nat} {p : Pass} {recs : List (Nat × Bytes)} {e : Entry} {t : Tap}
    (hrun : (s.tapE k).run = some (p, recs)) (hentry : s.entry? p.ring p.pos = some e) (htap : s.tap? p.ring p.pos = some t)
    (hwrite : s.tapWrite p.ring p.pos k e recs = (true, u)) :
    effTapPassEnd k s =
      if t.left ≤ 1 then
        ((u.passEnded k p).cancelTap p.ring p.pos).finish p.ring p.pos
          { status := stDONE, result := maskOf t.slices + t.pins.length * 2 ^ 32, vis := 0x3F }
      else u.passEnded k p := by
  simp only [effTapPassEnd, hrun, hentry, htap, hwrite]
  rfl

/-! ## The statement about the tap engines -/

/-- Settles O19: a TAP that starts does its body, whose checks the hypotheses pass, and each event of a TAP in progress has the effect that its
lemma gives. -/
theorem tapsRun : Obligations.TapsRun := by
  refine ⟨?listed, ?empty, ?resolve, ?dispatch, ?passStart, ?passEnd⟩
  case listed =>
    intro r pos s t u v e d hs hbegun hnew hfields hrows htokens hfeature hdesc hcontext hlayer hhead hblock hspan hhold
    have hsome : (decide (tapRows e = 0) || decide (e.body 32 4 = 0)) = false := by simp [hrows, htokens]
    have hinside := tap_rangeOk hcontext hlayer hhead hblock hspan
    exact exec_eq_becomesR_of_begun hbegun rfl rfl
      (by simp only [hnew, hfields, hsome, tap_featureOk hfeature, hdesc, hinside, hhold, Option.isSome_none, Bool.not_true,
        Bool.false_eq_true, if_false]
          rfl)
  case empty =>
    intro r pos s t e hbegun hnew hfields hempty
    have hnone : (decide (tapRows e = 0) || decide (e.body 32 4 = 0)) = true := by simpa using hempty
    exact exec_eq_becomesR_of_begun hbegun rfl rfl
      (by simp only [hnew, hfields, hnone, Option.isSome_none, Bool.not_true, Bool.false_eq_true, if_false, if_true])
  case resolve =>
    intro r pos s u t e pins' pins hpos htap hentry hnew hunblocked hactive
    dsimp only
    intro hpin hslices
    exact exec_eq_becomesR hpos rfl (effTapResolve_of_pinned htap hentry hnew
      (fun k i hblocked => by simpa only [hblocked] using hunblocked) hactive hpin hslices)
  case dispatch =>
    intro r pos k s t p k' hpos hk htap hheld hroom
    have hwf : (okPos r pos && decide (k < 32)) = true := by rw [hpos, decide_eq_true hk, Bool.and_self]
    exact exec_eq_becomes hwf rfl (effTapPassDispatch_of_room htap hheld hroom)
  case passStart =>
    intro k s u v p rest e t rows rows' hk
    dsimp only
    intro hrun hqueue hentry htap hactive hrows hcasks
    exact exec_eq_becomesR (decide_eq_true hk) rfl (effTapPassStart_of_read hrun hqueue rfl hentry htap hactive hrows hcasks)
  case passEnd =>
    intro k s u p recs e t hk hrun hentry htap hwrite
    exact exec_eq_becomesR (decide_eq_true hk) rfl (effTapPassEnd_of_written hrun hentry htap hwrite)

end Sys2Proof.Machine
end

-- Proofs of the statement about the memory stacks.
section
/-!
SUPPORT. Events of the memory stacks (R252 to R259): scrub reads, refresh, temperature, retrain windows and their end.
-/

namespace Sys2Proof.Machine

open Sys2Proof

/-! ## Fields of a stack and the clock -/

/-- The passing of time writes no register but the count of the holdover. -/
theorem f_elapse_ne (s : State) (dt : Nat) {x : Fld} {i : Nat} (hi : i < 2 ^ 20) (hx : x ≠ .TIME_HOLD_HOLD_MS) :
    (s.elapse dt).f x i = s.f x i := by
  unfold State.elapse
  simp only
  split <;> split
  · exact State.f_setF_ne _ _ (by decide) hi (.inl hx)
  · rfl
  · exact State.f_setF_ne _ _ (by decide) hi (.inl hx)
  · rfl

/-- A value that fits its field is read back whole. -/
theorem f_setF_of_lt (s : State) {x : Fld} {v : Nat} (i : Nat) (h : v < 2 ^ x.info.width) : (s.setF x i v).f x i = v := by
  rw [State.f_setF_same, Nat.mod_eq_of_lt h]

/-- Fields of different registers are different. -/
theorem ne_of_reg_ne {x y : Fld} (h : x.info.reg ≠ y.info.reg) : x ≠ y := fun hxy => h (hxy ▸ rfl)

/-- The owner of a die depends on the partition map alone. -/
theorem dieOwner_congr {s t : State} {n : Nat} (hvalid : t.f .ID_PART_VALID_DIES 0 = s.f .ID_PART_VALID_DIES 0)
    (hpart : t.f .ID_PART_MAP_PART n = s.f .ID_PART_MAP_PART n) : t.dieOwner n = s.dieOwner n := by
  simp only [State.dieOwner, hvalid, hpart]

/-! ## Scrub and refresh (R252, R253) -/

/-- A scrub read that the stack may make reads its codeword. -/
theorem effScrubRead_of_enabled {s : State} {k : Nat} (off : Nat) (henabled : s.fb .MEM_CTRL_SCRUB_EN k = true)
    (hserves : s.stackServes k = true) (hawake : s.napping k = false)
    (hrefresh : s.fb .MEM_STATUS_SELF_REFRESH k = false ∨ s.fb .MEM_STATUS_WINDOW k = true) :
    effScrubRead k off s =
      let g := granKey k off
      let x := (s.setStack k { s.stack k with scrubAt := granOff g + 64 }).slotRead k (granOff g) .bulk (granOff g) 64 (granOff g)
      State.scrubbed k g (x.badSyms g != []) (x.readWord g) := by
  have hopen : (s.fb .MEM_STATUS_SELF_REFRESH k && !s.fb .MEM_STATUS_WINDOW k) = false := by
    rcases hrefresh with h | h <;> simp [h]
  simp only [effScrubRead, henabled, hserves, hawake, hopen, Bool.not_true, Bool.or_self, Bool.false_eq_true, if_false]

/-- What was read of a codeword that is correctable is written back when it held errors. -/
theorem scrubbed_some (k g : Nat) (bad : List (Nat × Nat)) (b : Bytes) (u : State) :
    State.scrubbed k g (bad != []) (some b, u) =
      (if bad = [] then u else
        (({ u with ecc := u.ecc.fput g [] [] }).putBytes (k * 2 ^ 37 + granOff g) (sliceB b 0 64)).incF .MEM_ERR_SCRUB_FIXED k).retireOf k := by
  cases bad <;> rfl

/-- A refresh that is due notes the time of its bank. -/
theorem effRefresh_of_due {s t : State} {k c b dt : Nat} (ht : s.elapse dt = t) (hactive : t.fb .MEM_STATUS_SELF_REFRESH k = false)
    (hdue : (t.stack k).refreshed.fget (64 * c + b) 0 = 0 ∨ (t.stack k).refreshed.fget (64 * c + b) 0 + t.refreshNs k ≤ t.eng) :
    effRefresh k c b dt s =
      t.setStack k { t.stack k with refreshed := (t.stack k).refreshed.fput (64 * c + b) t.eng 0 } := by
  have hlate : ((t.stack k).refreshed.fget (64 * c + b) 0 != 0 &&
      decide (t.eng < (t.stack k).refreshed.fget (64 * c + b) 0 + t.refreshNs k)) = false := by
    rcases hdue with h | h
    · simp [h]
    · simp [Nat.not_lt.mpr h]
  simp only [effRefresh, ht, hactive, hlate, Bool.or_self, Bool.false_eq_true, if_false]

/-! ## Temperature (R253, R254) -/

/-- MEM_THERM after a sample. -/
def State.thermRead (s : State) (k temp hot : Nat) : State :=
  let t := (s.setF .MEM_THERM_TEMP k temp).setF .MEM_THERM_HOT_DIE k hot
  if t.f .MEM_THERM_PEAK k < temp then t.setF .MEM_THERM_PEAK k temp else t

/-- The band that a temperature puts a stack in. -/
def State.bandAt (s : State) (k temp : Nat) : Nat :=
  nextBand (if s.fb .MEM_STATUS_THROTTLED k then 3 else s.f .MEM_STATUS_RATE k) temp

theorem bandAt_congr {s t : State} {k : Nat} (temp : Nat) (hthrottled : t.f .MEM_STATUS_THROTTLED k = s.f .MEM_STATUS_THROTTLED k)
    (hrate : t.f .MEM_STATUS_RATE k = s.f .MEM_STATUS_RATE k) : t.bandAt k temp = s.bandAt k temp := by
  rw [State.bandAt, State.bandAt, State.fb, State.fb, hthrottled, hrate]

/-- The refresh rate and the throttle of a band. -/
def State.rateSet (s : State) (k band : Nat) : State :=
  (s.setF .MEM_STATUS_RATE k (min band 2)).setF .MEM_STATUS_THROTTLED k (b2n (band == 3))

/-- What a sample writes at every temperature. -/
def State.tempRead (s : State) (k temp hot : Nat) : State :=
  (s.thermRead k temp hot).rateSet k ((s.thermRead k temp hot).bandAt k temp)

/-- A stack in self-refresh and STOPPED, its window over. -/
def State.stackHeld (s : State) (k : Nat) : State :=
  ((s.setF .MEM_STATUS_SELF_REFRESH k 1).setF .MEM_STATUS_STOPPED k 1).setF .MEM_STATUS_WINDOW k 0

/-- A stack whose contents are lost. -/
def State.contentsLost (s : State) (k : Nat) : State :=
  (s.setF .MEM_STATUS_CONTENTS_LOST k 1).setStack k { s.stack k with lost := true }

/-- The fields that a sample writes at every temperature. -/
def sampleFields : List Fld := [.MEM_THERM_TEMP, .MEM_THERM_HOT_DIE, .MEM_THERM_PEAK, .MEM_STATUS_RATE, .MEM_STATUS_THROTTLED]

section
variable (s : State) {k : Nat} (hk : k < 32)
include hk

theorem f_setF_sample_ne {x y : Fld} {i : Nat} (v : Nat) (hi : i < 2 ^ 20) (hx : x ∈ sampleFields) (hy : y ∉ sampleFields) :
    (s.setF x k v).f y i = s.f y i :=
  State.f_setF_ne s v (by omega) hi (.inl fun h => hy (h ▸ hx))

/-- A sample leaves every other field as it was. -/
theorem f_tempRead_ne {x : Fld} {i : Nat} (temp hot : Nat) (hi : i < 2 ^ 20) (hx : x ∉ sampleFields) :
    (s.tempRead k temp hot).f x i = s.f x i := by
  have htherm : (s.thermRead k temp hot).f x i = s.f x i := by
    unfold State.thermRead
    simp only
    split
    · rw [f_setF_sample_ne _ hk _ hi (by decide) hx, f_setF_sample_ne _ hk _ hi (by decide) hx, f_setF_sample_ne _ hk _ hi (by decide) hx]
    · rw [f_setF_sample_ne _ hk _ hi (by decide) hx, f_setF_sample_ne _ hk _ hi (by decide) hx]
  rw [State.tempRead, State.rateSet, f_setF_sample_ne _ hk _ hi (by decide) hx, f_setF_sample_ne _ hk _ hi (by decide) hx, htherm]

/-- MEM_THERM holds the temperature, its die and the highest temperature. -/
theorem thermRead_fields {temp hot : Nat} (htemp : temp < 256) (hhot : hot < 16) :
    (s.thermRead k temp hot).f .MEM_THERM_TEMP k = temp ∧ (s.thermRead k temp hot).f .MEM_THERM_HOT_DIE k = hot ∧
      (s.thermRead k temp hot).f .MEM_THERM_PEAK k = max temp (s.f .MEM_THERM_PEAK k) := by
  have hread : ((s.setF .MEM_THERM_TEMP k temp).setF .MEM_THERM_HOT_DIE k hot).f .MEM_THERM_TEMP k = temp := by
    rw [f_setF_stack_ne _ _ hk (by decide), f_setF_of_lt _ k htemp]
  have hdie : ((s.setF .MEM_THERM_TEMP k temp).setF .MEM_THERM_HOT_DIE k hot).f .MEM_THERM_HOT_DIE k = hot := f_setF_of_lt _ k hhot
  have hpeak : ((s.setF .MEM_THERM_TEMP k temp).setF .MEM_THERM_HOT_DIE k hot).f .MEM_THERM_PEAK k = s.f .MEM_THERM_PEAK k := by
    rw [f_setF_stack_ne _ _ hk (by decide), f_setF_stack_ne _ _ hk (by decide)]
  unfold State.thermRead
  simp only [hpeak]
  split
  · next hless =>
    refine ⟨(f_setF_stack_ne _ _ hk (by decide)).trans hread, (f_setF_stack_ne _ _ hk (by decide)).trans hdie, ?_⟩
    rw [f_setF_of_lt _ k htemp, Nat.max_eq_left hless.le]
  · next hmost => exact ⟨hread, hdie, by rw [hpeak, Nat.max_eq_right (Nat.not_lt.mp hmost)]⟩

/-- The band before the sample is the one it is judged from. -/
theorem bandAt_thermRead (temp hot : Nat) : (s.thermRead k temp hot).bandAt k temp = s.bandAt k temp := by
  have hset : ∀ (t : State) (x : Fld) (v : Nat), x.info.reg = .MEM_THERM → (t.setF x k v).bandAt k temp = t.bandAt k temp :=
    fun t x v hx => by
      have hreg : Reg.MEM_STATUS ≠ x.info.reg := by rw [hx]; decide
      exact bandAt_congr temp (f_setF_stack_ne t v hk (ne_of_reg_ne hreg)) (f_setF_stack_ne t v hk (ne_of_reg_ne hreg))
  unfold State.thermRead
  simp only
  split
  · rw [hset _ _ _ rfl, hset _ _ _ rfl, hset _ _ _ rfl]
  · rw [hset _ _ _ rfl, hset _ _ _ rfl]

/-- A band sets the rate, at most 2, and the throttle, and leaves the stack's other fields alone. -/
theorem rateSet_fields (band : Nat) :
    (s.rateSet k band).f .MEM_STATUS_RATE k = min band 2 ∧ (s.rateSet k band).f .MEM_STATUS_THROTTLED k = b2n (band == 3) ∧
      ∀ x, x ≠ .MEM_STATUS_RATE → x ≠ .MEM_STATUS_THROTTLED → (s.rateSet k band).f x k = s.f x k := by
  have hrate : min band 2 < 2 ^ 2 := by omega
  have hthrottled : b2n (band == 3) < 2 ^ 1 := by cases band == 3 <;> decide
  unfold State.rateSet
  refine ⟨?_, f_setF_of_lt _ k hthrottled, fun x hx hx' => ?_⟩
  · rw [f_setF_stack_ne _ _ hk (by decide), f_setF_of_lt _ k hrate]
  · rw [f_setF_stack_ne _ _ hk hx', f_setF_stack_ne _ _ hk hx]

/-- What a sample writes. -/
theorem tempRead_fields {temp hot : Nat} (htemp : temp < 256) (hhot : hot < 16) :
    (s.tempRead k temp hot).f .MEM_THERM_TEMP k = temp ∧ (s.tempRead k temp hot).f .MEM_THERM_HOT_DIE k = hot ∧
      (s.tempRead k temp hot).f .MEM_THERM_PEAK k = max temp (s.f .MEM_THERM_PEAK k) ∧
      (s.tempRead k temp hot).f .MEM_STATUS_RATE k = min (s.bandAt k temp) 2 ∧
      (s.tempRead k temp hot).f .MEM_STATUS_THROTTLED k = b2n (s.bandAt k temp == 3) := by
  obtain ⟨hread, hdie, hpeak⟩ := thermRead_fields s hk htemp hhot
  obtain ⟨hrate, hthrottled, hother⟩ := rateSet_fields (s.thermRead k temp hot) hk (s.bandAt k temp)
  rw [State.tempRead, bandAt_thermRead s hk]
  refine ⟨?_, ?_, ?_, hrate, hthrottled⟩
  · rw [hother _ (by decide) (by decide), hread]
  · rw [hother _ (by decide) (by decide), hdie]
  · rw [hother _ (by decide) (by decide), hpeak]

/-- A held stack is in self-refresh and STOPPED, with no window. -/
theorem stackHeld_fields :
    (s.stackHeld k).f .MEM_STATUS_STOPPED k = 1 ∧ (s.stackHeld k).f .MEM_STATUS_SELF_REFRESH k = 1 ∧
      (s.stackHeld k).f .MEM_STATUS_WINDOW k = 0 := by
  unfold State.stackHeld
  refine ⟨?_, ?_, State.f_setF_same _ _ _ _⟩
  · rw [f_setF_stack_ne _ _ hk (by decide)]
    exact State.f_setF_same _ _ _ _
  · rw [f_setF_stack_ne _ _ hk (by decide), f_setF_stack_ne _ _ hk (by decide)]
    exact State.f_setF_same _ _ _ _

/-- Lost contents show in CONTENTS_LOST, and no other field of the stack changes. -/
theorem contentsLost_fields :
    (s.contentsLost k).f .MEM_STATUS_CONTENTS_LOST k = 1 ∧ ((s.contentsLost k).stack k).lost = true ∧
      ∀ x, x ≠ .MEM_STATUS_CONTENTS_LOST → (s.contentsLost k).f x k = s.f x k :=
  ⟨f_setF_of_lt s (x := .MEM_STATUS_CONTENTS_LOST) k Nat.one_lt_two, by rw [State.contentsLost, State.setStack_stack],
    fun _ hx => f_setF_stack_ne s 1 hk hx⟩

/-- A stack of no partition that stops is held, and nothing else stops with it. -/
theorem stopStack_of_unowned (hrunning : s.fb .MEM_STATUS_STOPPED k = false) (howner : s.dieOwner (k / 2) = none) :
    s.stopStack k = s.stackHeld k := by
  have hset : ∀ (t : State) (x : Fld) (v : Nat), x.info.reg = .MEM_STATUS → (t.setF x k v).dieOwner (k / 2) = t.dieOwner (k / 2) :=
    fun t x v hx => dieOwner_congr
      (State.f_setF_ne t v (by omega) (by decide) (.inl (ne_of_reg_ne (by rw [hx]; decide))))
      (State.f_setF_ne t v (by omega) (by omega) (.inl (ne_of_reg_ne (by rw [hx]; decide))))
  have hheld : (((s.setF .MEM_STATUS_SELF_REFRESH k 1).setF .MEM_STATUS_STOPPED k 1).setF .MEM_STATUS_WINDOW k 0).dieOwner (k / 2) = none := by
    rw [hset _ _ _ rfl, hset _ _ _ rfl, hset _ _ _ rfl, howner]
  simp only [State.stopStack, State.stackHeld, hrunning, hheld, Bool.false_eq_true, if_false]

end

/-- A sample writes the temperature and the band, then stops a stack that is too hot. -/
theorem stackTemp_eq (s : State) (k temp hot : Nat) : s.stackTemp k temp hot =
    let t := if 115 ≤ temp then (s.tempRead k temp hot).stopStack k else s.tempRead k temp hot
    if decide (125 < temp) && t.fb .MEM_STATUS_STOPPED k then t.contentsLost k else t := rfl

/-- Below 115 degrees a sample writes the temperature and the band alone. -/
theorem stackTemp_of_cool (s : State) {k temp : Nat} (hot : Nat) (htemp : temp < 115) : s.stackTemp k temp hot = s.tempRead k temp hot := by
  have hmost : ¬ 125 < temp := by omega
  simp [stackTemp_eq, Nat.not_le.mpr htemp, hmost]

/-- At 115 degrees a stack of no partition stops; above 125 it has lost its contents (R254). -/
theorem stackTemp_of_hot {s : State} {k temp : Nat} (hk : k < 32) (hot : Nat) (htemp : 115 ≤ temp)
    (hrunning : s.fb .MEM_STATUS_STOPPED k = false) (howner : s.dieOwner (k / 2) = none) :
    s.stackTemp k temp hot =
      if 125 < temp then ((s.tempRead k temp hot).stackHeld k).contentsLost k else (s.tempRead k temp hot).stackHeld k := by
  have hrunning' : (s.tempRead k temp hot).fb .MEM_STATUS_STOPPED k = false := by
    rw [State.fb, f_tempRead_ne s hk temp hot (by omega) (by decide)]
    exact hrunning
  have howner' : (s.tempRead k temp hot).dieOwner (k / 2) = none := by
    rw [dieOwner_congr (f_tempRead_ne s hk temp hot (by decide) (by decide)) (f_tempRead_ne s hk temp hot (by omega) (by decide)), howner]
  have hheld : ((s.tempRead k temp hot).stackHeld k).fb .MEM_STATUS_STOPPED k = true := by
    rw [State.fb, (stackHeld_fields _ hk).1]
    rfl
  simp only [stackTemp_eq, htemp, if_true, stopStack_of_unowned _ hk hrunning' howner', hheld, Bool.and_true, decide_eq_true_eq]

/-- A sample of a cool stack writes no memory. -/
theorem tempRead_mem (s : State) (k temp hot : Nat) : (s.tempRead k temp hot).mem = s.mem := by
  unfold State.tempRead State.rateSet State.thermRead
  simp only [State.setF_mem]
  split <;> rfl

/-! ## Retrain windows (R257 to R259) -/

/-- A pending window that is due opens. -/
theorem effMemRetrainWindow_of_due {s t : State} {k dt : Nat} (ht : s.elapse dt = t) (hpending : t.fb .MEM_STATUS_PENDING k = true)
    (hclosed : t.fb .MEM_STATUS_WINDOW k = false) (hrunning : t.fb .MEM_STATUS_STOPPED k = false) (hworks : (t.stack k).failed = false)
    (hactive : t.fb .MEM_STATUS_SELF_REFRESH k = false) (hawake : t.napping k = false) (hdue : t.windowDue k = true)
    (horder : (t.memWinTime k).all t.inOrder = true) :
    effMemRetrainWindow k dt s =
      ((List.range 32).foldl (fun u c => u.spareLanes k c)
        ((((t.setF .MEM_STATUS_PENDING k 0).setF .MEM_STATUS_WINDOW k 1).setF .MEM_STATUS_SELF_REFRESH k 1).incF
          .MEM_STATUS_WINDOWS k)).retireOf k := by
  simp only [effMemRetrainWindow, ht, hpending, hclosed, hrunning, hworks, hactive, hawake, hdue, horder, Bool.not_true, Bool.or_self,
    Bool.false_eq_true, if_false]

/-- Filtering a store by its keys leaves an unlisted key at its default and the others as they were. -/
theorem FMap.fget_filter_key {α : Type} (m : FMap α) (p : Nat → Bool) (k : Nat) (d : α) :
    FMap.fget (m.filter fun e => p e.1) k d = if p k then m.fget k d else d := by
  induction m with
  | nil => simp
  | cons e m ih =>
    obtain ⟨j, v⟩ := e
    by_cases hj : j = k
    · subst hj
      cases hp : p j <;> simp_all [FMap.fget]
    · cases hp : p j <;> simp_all [FMap.fget]

/-- The keys of a stack's lane counters. -/
def laneKeys (k a : Nat) : Bool :=
  decide (Fld.MEM_LANE_ERRORS.key (laneIx k 0 0) ≤ a) && decide (a ≤ Fld.MEM_LANE_ERRORS.key (laneIx k 31 291))

theorem laneKeys_iff (k a : Nat) : laneKeys k a = true ↔
    Fld.MEM_LANE_ERRORS.code * 2 ^ 20 + k * 9344 ≤ a ∧ a < Fld.MEM_LANE_ERRORS.code * 2 ^ 20 + (k + 1) * 9344 := by
  rw [laneKeys, Bool.and_eq_true, decide_eq_true_eq, decide_eq_true_eq]
  simp only [Fld.key, laneIx]
  omega

/-- The lane counters of a stack at 0. -/
def State.clearLanes (s : State) (k : Nat) : State := { s with regs := s.regs.filter fun e => !laneKeys k e.1 }

theorem f_clearLanes (s : State) (k : Nat) (x : Fld) (i : Nat) :
    (s.clearLanes k).f x i = if laneKeys k (x.key i) then x.info.rst else s.f x i := by
  refine (FMap.fget_filter_key s.regs (fun a => !laneKeys k a) (x.key i) x.info.rst).trans ?_
  cases laneKeys k (x.key i) <;> rfl

/-- Every lane of the stack has its counter among them. -/
theorem laneKeys_errors (k : Nat) {c l : Nat} (hc : c < 32) (hl : l < 292) : laneKeys k (Fld.MEM_LANE_ERRORS.key (laneIx k c l)) = true := by
  rw [laneKeys_iff, Fld.key, laneIx]
  omega

/-- No other field has its key among them. -/
theorem laneKeys_ne {k i : Nat} {x : Fld} (hk : k < 32) (hi : i < 2 ^ 20) (hx : x ≠ .MEM_LANE_ERRORS) : laneKeys k (x.key i) = false := by
  have hcode : x.code ≠ Fld.MEM_LANE_ERRORS.code := fun h => hx (Fld.code_inj h)
  rw [Bool.eq_false_iff, ne_eq, laneKeys_iff, Fld.key]
  omega

/-- A window that ends leaves WINDOW and SELF_REFRESH, and clears the lane counters. -/
theorem endMemWindow_of_open {s : State} {k : Nat} (hopen : s.fb .MEM_STATUS_WINDOW k = true) :
    s.endMemWindow k = ((s.setF .MEM_STATUS_WINDOW k 0).setF .MEM_STATUS_SELF_REFRESH k 0).clearLanes k := by
  simp only [State.endMemWindow, hopen, Bool.not_true, Bool.false_eq_true, if_false]
  rfl

/-- The registers after the end of a window. -/
theorem endMemWindow_fields {s : State} {k : Nat} (hk : k < 32) (hopen : s.fb .MEM_STATUS_WINDOW k = true) :
    (s.endMemWindow k).f .MEM_STATUS_WINDOW k = 0 ∧ (s.endMemWindow k).f .MEM_STATUS_SELF_REFRESH k = 0 ∧
      ∀ c l, c < 32 → l < 292 → (s.endMemWindow k).f .MEM_LANE_ERRORS (laneIx k c l) = 0 := by
  have hstatus : ∀ x, x ≠ .MEM_LANE_ERRORS →
      (s.endMemWindow k).f x k = ((s.setF .MEM_STATUS_WINDOW k 0).setF .MEM_STATUS_SELF_REFRESH k 0).f x k := by
    intro x hx
    rw [endMemWindow_of_open hopen, f_clearLanes, laneKeys_ne hk (by omega) hx, if_neg Bool.false_ne_true]
  refine ⟨?_, ?_, fun c l hc hl => ?_⟩
  · rw [hstatus _ (by decide), f_setF_stack_ne _ _ hk (by decide)]
    exact State.f_setF_same _ _ _ _
  · rw [hstatus _ (by decide)]
    exact State.f_setF_same _ _ _ _
  · rw [endMemWindow_of_open hopen, f_clearLanes, laneKeys_errors k hc hl]
    rfl

theorem endMemWindow_mem (s : State) (k : Nat) : (s.endMemWindow k).mem = s.mem := by
  unfold State.endMemWindow
  split <;> rfl

/-! ## The statement about the memory stacks -/

/-- Settles O33: each event's condition holds, and its effect is the state named. -/
theorem memoryEventsRun : Obligations.MemoryEventsRun := by
  refine ⟨?scrub, ?refresh, ?cool, ?hot, ?stuck, ?window, ?windowEnd⟩
  case scrub =>
    intro k off s u b
    dsimp only
    intro hk hoff henabled hserves hawake hrefresh hread
    have hwf : (decide (k < 32) && decide (off < 2 ^ 37)) = true := by rw [decide_eq_true hk, decide_eq_true hoff, Bool.and_self]
    exact exec_eq_becomes hwf rfl
      ((effScrubRead_of_enabled off henabled hserves hawake hrefresh).trans (by simp only [hread, scrubbed_some]))
  case refresh =>
    intro k c b dt s
    dsimp only
    intro hk hc hb hactive hdue
    have hwf : (decide (k < 32) && decide (c < 32) && decide (b < 64)) = true := by
      rw [decide_eq_true hk, decide_eq_true hc, decide_eq_true hb, Bool.and_self, Bool.and_self]
    exact exec_eq_becomes hwf rfl (effRefresh_of_due rfl hactive hdue)
  case cool =>
    intro k temp hot dt s hk htemp hhot
    have hwf : (decide (k < 32) && decide (temp < 256) && decide (hot < 16)) = true := by simp [hk, hhot, show temp < 256 by omega]
    have hkept : ∀ x, x ≠ .TIME_HOLD_HOLD_MS → (s.elapse dt).f x k = s.f x k := fun x => f_elapse_ne s dt (by omega)
    obtain ⟨hread, hdie, hpeak, hrate, hthrottled⟩ := tempRead_fields (s.elapse dt) hk (show temp < 256 by omega) hhot
    rw [hkept _ (by decide)] at hpeak
    rw [bandAt_congr temp (hkept _ (by decide)) (hkept _ (by decide))] at hrate hthrottled
    refine ⟨_, exec_eq_becomes hwf rfl (stackTemp_of_cool _ hot htemp), hread, hdie, hpeak, ⟨hrate, hthrottled⟩, ?_,
      (tempRead_mem _ k temp hot).trans (elapse_mem s dt)⟩
    exact (f_tempRead_ne _ hk temp hot (by omega) (by decide)).trans (hkept _ (by decide))
  case hot =>
    intro k temp hot dt s hk hhigh htemp hhot hrunning howner
    have hwf : (decide (k < 32) && decide (temp < 256) && decide (hot < 16)) = true := by simp [hk, hhot, htemp]
    have hrunning' : (s.elapse dt).fb .MEM_STATUS_STOPPED k = false := by
      rw [State.fb, f_elapse_ne s dt (by omega) (by decide)]
      exact hrunning
    have howner' : (s.elapse dt).dieOwner (k / 2) = none := by
      rw [dieOwner_congr (f_elapse_ne s dt (by omega) (by decide)) (f_elapse_ne s dt (by omega) (by decide)), howner]
    obtain ⟨hstopped, hselfRefresh, hwindow⟩ := stackHeld_fields ((s.elapse dt).tempRead k temp hot) hk
    have heff := stackTemp_of_hot hk hot hhigh hrunning' howner'
    by_cases hlost : 125 < temp
    · obtain ⟨hflag, hcontents, hother⟩ := contentsLost_fields (((s.elapse dt).tempRead k temp hot).stackHeld k) hk
      rw [if_pos hlost] at heff
      exact ⟨_, exec_eq_becomes hwf rfl heff, (hother _ (by decide)).trans hstopped, (hother _ (by decide)).trans hselfRefresh,
        (hother _ (by decide)).trans hwindow, fun _ => ⟨hflag, hcontents⟩⟩
    · rw [if_neg hlost] at heff
      exact ⟨_, exec_eq_becomes hwf rfl heff, hstopped, hselfRefresh, hwindow, fun h => absurd h hlost⟩
  case stuck =>
    intro k c lane s hk hc hlane
    have hwf : (decide (k < 32) && decide (c < 32) && decide (lane < 292)) = true := by
      rw [decide_eq_true hk, decide_eq_true hc, decide_eq_true hlane, Bool.and_self, Bool.and_self]
    exact exec_eq_becomes hwf rfl rfl
  case window =>
    intro k dt s
    dsimp only
    intro hk hpending hclosed hrunning hworks hactive hawake hdue horder
    exact exec_eq_becomes (decide_eq_true hk) rfl
      (effMemRetrainWindow_of_due rfl hpending hclosed hrunning hworks hactive hawake hdue horder)
  case windowEnd =>
    intro k dt s hk hopen
    obtain ⟨hwindow, hselfRefresh, hlanes⟩ := endMemWindow_fields hk hopen
    exact ⟨_, exec_eq_becomes (decide_eq_true hk) rfl rfl, hwindow, hselfRefresh, hlanes, (endMemWindow_mem _ k).trans (elapse_mem s dt)⟩

end Sys2Proof.Machine
end

-- Proofs of the statement about requests of the coherence protocol.
section
/-!
SUPPORT. Coherence: messages on their way and their arrival (R340), requests as they are sent, and what their homes do with them (R274 to
R279, R281).
-/

namespace Sys2Proof.Machine

open Sys2Proof

/-! ## Messages on their way (R340) -/

/-- A message that may arrive is taken from its way and acted on. -/
theorem take_of_arriving {s : State} {p : CMsg → Bool} {x : Nat × CMsg} (act : CMsg → State → State) (h : s.arriving p = some x) :
    s.take p act = act x.2 (s.setNet (s.caches.net.erase x)) := by
  simp only [State.take, h]

/-- The message that arrives is acted on where it arrives. -/
theorem arrive_of_arriving {s : State} {p : CMsg → Bool} {x : Nat × CMsg} {m : CMsg} (h : s.arriving p = some x) (hm : x.2 = m) :
    s.arrive p = (s.setNet (s.caches.net.erase x)).deliver m := by
  rw [State.arrive, take_of_arriving _ h, hm]

/-- A row on which one message arrives does what the message does. -/
theorem exec_eq_becomes_of_arriving {c : Instr} {s : State} {p : CMsg → Bool} {x : Nat × CMsg} {m : CMsg} (hwf : c.wellFormed = true)
    (hrow : exec c s = runIf c.wellFormed s (s.arrive p)) (h : s.arriving p = some x) (hm : x.2 = m) :
    exec c s = s.becomes ((s.setNet (s.caches.net.erase x)).deliver m) :=
  exec_eq_becomes hwf hrow (arrive_of_arriving h hm)

/-- With no message of its channel before it and no window on its route, a message just sent may arrive. -/
theorem arriving_sendCoh {s : State} {p : CMsg → Bool} {m : CMsg} (hp : p m = true) (hchan : ∀ m', p m' = true → m'.chan = m.chan)
    (hfirst : ∀ y ∈ s.caches.net, y.2.chan ≠ m.chan) (hopen : s.hopsHeld m.chan.2.1 m.chan.2.2 = false) :
    (s.sendCoh m).arriving p = some (s.f .ID_DIST_GEN_GEN, m) := by
  have hother : ∀ y ∈ s.caches.net, p y.2 = false := fun y hy => Bool.eq_false_iff.2 fun h => hfirst y hy (hchan _ h)
  have hfind : (s.sendCoh m).caches.net.find? (fun y => p y.2) = some (s.f .ID_DIST_GEN_GEN, m) := by
    have hnone : s.caches.net.find? (fun y => p y.2) = none := List.find?_eq_none.2 fun y hy => by simp [hother y hy]
    simp [State.sendCoh, State.setNet, List.find?_append, hnone, hp]
  have hbefore : (((s.sendCoh m).caches.net.takeWhile fun y => !p y.2).any
      fun y => y.1 == s.f .ID_DIST_GEN_GEN && y.2.chan == m.chan) = false := by
    refine List.any_eq_false.2 fun y hy hsame => ?_
    have hmem : y ∈ s.caches.net ++ [(s.f .ID_DIST_GEN_GEN, m)] := List.takeWhile_subset _ hy
    have hnot : p y.2 = false := by simpa using List.mem_takeWhile_imp hy
    rcases List.mem_append.1 hmem with hold | hnew
    · exact hfirst y hold (by simpa using (Bool.and_eq_true_iff.1 hsame).2)
    · rw [List.mem_singleton.1 hnew, hp] at hnot
      exact Bool.noConfusion hnot
  simp only [State.arriving, hfind, hbefore, hopsHeld_sendCoh, hopen, Bool.or_self, Bool.false_eq_true, if_false]

/-- A message just sent and taken from its way leaves the other messages. -/
theorem setNet_erase_sendCoh {s : State} {m : CMsg} (hfirst : ∀ y ∈ s.caches.net, y.2.chan ≠ m.chan) :
    (s.sendCoh m).setNet ((s.sendCoh m).caches.net.erase (s.f .ID_DIST_GEN_GEN, m)) = s := by
  have hnot : (s.f .ID_DIST_GEN_GEN, m) ∉ s.caches.net := fun h => hfirst _ h rfl
  have hnet : (s.caches.net ++ [(s.f .ID_DIST_GEN_GEN, m)]).erase (s.f .ID_DIST_GEN_GEN, m) = s.caches.net := by
    rw [List.erase_append_right _ hnot, List.erase_cons_head, List.append_nil]
  show s.setNet ((s.caches.net ++ [(s.f .ID_DIST_GEN_GEN, m)]).erase (s.f .ID_DIST_GEN_GEN, m)) = s
  rw [hnet]
  rfl

/-- A message that is sent and may arrive at once is acted on in the state it was sent from. -/
theorem take_sendCoh {s : State} {p : CMsg → Bool} {m : CMsg} (act : CMsg → State → State) (hp : p m = true)
    (hchan : ∀ m', p m' = true → m'.chan = m.chan) (hfirst : ∀ y ∈ s.caches.net, y.2.chan ≠ m.chan)
    (hopen : s.hopsHeld m.chan.2.1 m.chan.2.2 = false) : (s.sendCoh m).take p act = act m s := by
  rw [take_of_arriving act (arriving_sendCoh hp hchan hfirst hopen), setNet_erase_sendCoh hfirst]

/-- The same where the row names one message. -/
theorem take_sendCoh_self {s : State} {m : CMsg} (act : CMsg → State → State) (hfirst : ∀ y ∈ s.caches.net, y.2.chan ≠ m.chan)
    (hopen : s.hopsHeld m.chan.2.1 m.chan.2.2 = false) : (s.sendCoh m).take (· == m) act = act m s :=
  take_sendCoh act (beq_self_eq_true m) (fun _ h => congrArg CMsg.chan (eq_of_beq h)) hfirst hopen

/-! ## Requests sent (R275, R276) -/

section

variable {s u : State} {a g kind : Nat} {full : Bool}

/-- A request just sent that may arrive is met by its home: the row names it with and without FULL, which are of one channel. -/
theorem requestRow_sendCoh (hfirst : ∀ y ∈ s.caches.net, y.2.chan ≠ (CMsg.request a g kind full).chan)
    (hopen : s.hopsHeld (reqNode a) (granDie g) = false) :
    (s.sendCoh (.request a g kind full)).requestRow a g kind = s.onRequest a g kind full := by
  refine take_sendCoh _ (by cases full <;> simp) (fun m hm => ?_) hfirst hopen
  rcases Bool.or_eq_true_iff.1 hm with h | h <;> rw [eq_of_beq h] <;> rfl

/-- A caching agent with no request open, its copy in the state of the request, and a way for the granule, sends. -/
theorem sendWant_of_way (hnone : s.noRequest a g = true)
    (hst : (if kind = 3 then (s.copy a g).st == .s || (s.copy a g).st == .o else (s.copy a g).st == .i) = true)
    (hway : (if kind = 3 then (true, s) else s.agentWay a g) = (true, u)) :
    s.sendWant a g kind full = (u.setCopy a g { u.copy a g with want := kind, full := full }).sendCoh (.request a g kind full) := by
  simp only [State.sendWant, hnone, hst, hway, Bool.and_self, if_true]

/-- A caching agent's request is sent and met by its home. -/
theorem requestRow_sendWant (hnone : s.noRequest a g = true)
    (hst : (if kind = 3 then (s.copy a g).st == .s || (s.copy a g).st == .o else (s.copy a g).st == .i) = true)
    (hway : (if kind = 3 then (true, s) else s.agentWay a g) = (true, u))
    (hfirst : ∀ y ∈ u.caches.net, y.2.chan ≠ (CMsg.request a g kind full).chan) (hopen : u.hopsHeld (reqNode a) (granDie g) = false) :
    (s.sendWant a g kind full).requestRow a g kind =
      (u.setCopy a g { u.copy a g with want := kind, full := full }).onRequest a g kind full := by
  rw [sendWant_of_way hnone hst hway]
  exact requestRow_sendCoh hfirst ((hopsHeld_setCopy u a g _ _ _).trans hopen)

/-- A non-caching agent's NoAllocRead is sent and met by its home. -/
theorem requestRow_sendNc_read (r : NcReq) (hkind : r.kind = 4) (hnone : s.noRequest a g = true)
    (hfirst : ∀ y ∈ s.caches.net, y.2.chan ≠ (CMsg.request a g r.kind false).chan) (hopen : s.hopsHeld (reqNode a) (granDie g) = false) :
    (s.sendNc a g r).requestRow a g r.kind = (s.setNc a g r).onRequest a g r.kind false := by
  simp only [State.sendNc, hnone, if_true, if_pos hkind]
  exact requestRow_sendCoh hfirst ((hopsHeld_setNc s a g r _ _).trans hopen)

/-- A non-caching agent's WriteInv or Atomic is counted open, sent and met by its home. -/
theorem requestRow_sendNc_write (r : NcReq) (hkind : r.kind ≠ 4) (hnone : s.noRequest a g = true)
    (hfirst : ∀ y ∈ s.caches.net, y.2.chan ≠ (CMsg.request a g r.kind false).chan) (hopen : s.hopsHeld (reqNode a) (granDie g) = false) :
    (s.sendNc a g r).requestRow a g r.kind = ((s.openWrite a).setNc a g r).onRequest a g r.kind false := by
  simp only [State.sendNc, hnone, if_true, if_neg hkind]
  exact requestRow_sendCoh hfirst (by rw [hopsHeld_setNc, hopsHeld_openWrite, hopen])

end

/-! ## A request at its home (R276 to R279, R281) -/

section

variable {s u v : State} {a g kind : Nat} {full : Bool} {b : Bytes}

/-- A request is served when its granule is not BUSY and no other request has priority. -/
theorem onRequest_of_free (h : ((s.dirOf g).busy || (s.starving (granStack g)).any fun x => x.1 == g) = false) :
    s.onRequest a g kind full = s.serveKind a g kind full := by
  simp only [State.onRequest, h, Bool.false_eq_true, if_false]

/-- A request that must wait is answered NAK, until it has met eight and there is room to record it. -/
theorem onRequest_of_waiting (h : ((s.dirOf g).busy || (s.starving (granStack g)).any fun x => x.1 == g) = true)
    (hnew : ((s.starving (granStack g)).any fun x => x.1 == g && x.2.1 == a) = false) :
    s.onRequest a g kind full = if s.naksOf a g < 8 ∨ 8 ≤ (s.starving (granStack g)).length
      then (s.sendCoh (.nak (granDie g) a g)).evDie (granDie g) 0x0D 0 1
      else (s.setStarving (granStack g) (s.starving (granStack g) ++ [(g, a, full)])).evDie (granDie g) 0x0E 0 1 := by
  simp only [State.onRequest, h, hnew, Bool.false_eq_true, if_false, if_true, Bool.or_eq_true, decide_eq_true_eq]

/-- The directory entry that a ReadShared meets: a recorded owner that asks again holds nothing. -/
def State.sharedDir (s : State) (a g : Nat) : Dir :=
  if (s.dirOf g).owned && (s.dirOf g).owner == a then (s.dirOf g).dropOwner else s.dirOf g

theorem serveShared_of_uncached (hroom : s.dirRoom g (g, a, 1, false) = (true, u)) (hst : (u.sharedDir a g).st = .u)
    (hread : u.homeRead a g = (some b, v)) :
    s.serveShared a g = (v.setDir g { st := .e, owner := a }).sendCoh (.data (granDie g) a g 2 b) := by
  unfold State.sharedDir at hst
  simp only [State.serveShared, hroom, hst, hread]

theorem serveShared_of_shared (hroom : s.dirRoom g (g, a, 1, false) = (true, u)) (hst : (u.sharedDir a g).st = .s)
    (hread : u.homeRead a g = (some b, v)) :
    s.serveShared a g = (v.setDir g ((u.sharedDir a g).addSharer a)).sendCoh (.data (granDie g) a g 1 b) := by
  unfold State.sharedDir at hst ⊢
  simp only [State.serveShared, hroom, hst, hread]

theorem serveShared_of_owned (hroom : s.dirRoom g (g, a, 1, false) = (true, u))
    (hst : (u.sharedDir a g).st = .e ∨ (u.sharedDir a g).st = .o) :
    s.serveShared a g =
      (u.setDir g { (u.sharedDir a g).addSharer a with st := .o }).sendCoh (.fwd 0 (u.sharedDir a g).owner a g) := by
  unfold State.sharedDir at hst ⊢
  rcases hst with hst | hst <;> simp only [State.serveShared, hroom, hst]

theorem serveOwn_of_targets (hroom : s.dirRoom g (g, a, 2, full) = (true, u)) (htargets : (u.dirOf g).targets a ≠ []) :
    s.serveOwn a g full = u.collect g { kind := 0, req := a, full := full } a false := by
  simp only [State.serveOwn, hroom, if_neg htargets]

theorem serveOwn_of_noTargets (hroom : s.dirRoom g (g, a, 2, full) = (true, u)) (htargets : (u.dirOf g).targets a = []) :
    s.serveOwn a g full = u.grantOwn a g full := by
  simp only [State.serveOwn, hroom, if_pos htargets]

theorem grantOwn_of_owned (howned : (u.dirOf g).owned = true) (hother : (u.dirOf g).owner ≠ a) :
    u.grantOwn a g full = (u.setDir g { st := .e, owner := a }).sendCoh (.fwd (if full then 4 else 1) (u.dirOf g).owner a g) := by
  simp only [State.grantOwn, howned, bne_iff_ne.2 hother, Bool.and_self, if_true]

/-- No other agent owns the granule: the condition of `grantOwn` on the owner is false. -/
theorem owned_other_eq_false {d : Dir} (h : d.owned = false ∨ d.owner = a) : (d.owned && d.owner != a) = false := by
  rcases h with h | h <;> simp [h]

theorem grantOwn_full (hmine : (u.dirOf g).owned = false ∨ (u.dirOf g).owner = a) :
    u.grantOwn a g true = (u.setDir g { st := .e, owner := a }).sendCoh (.data (granDie g) a g 3 []) := by
  simp only [State.grantOwn, owned_other_eq_false hmine, Bool.false_eq_true, if_false, if_true]

theorem grantOwn_of_holder (hmine : (u.dirOf g).owned = false ∨ (u.dirOf g).owner = a) (hst : (u.copy a g).st ≠ .i) :
    u.grantOwn a g false = (u.setDir g { st := .e, owner := a }).sendCoh (.data (granDie g) a g 3 (u.copy a g).data) := by
  simp only [State.grantOwn, owned_other_eq_false hmine, bne_iff_ne.2 hst, Bool.false_eq_true, if_false, if_true]

theorem grantOwn_of_read (hmine : (u.dirOf g).owned = false ∨ (u.dirOf g).owner = a) (hst : (u.copy a g).st = .i)
    (hread : u.homeRead a g = (some b, v)) :
    u.grantOwn a g false = (v.setDir g { st := .e, owner := a }).sendCoh (.data (granDie g) a g 3 b) := by
  simp only [State.grantOwn, owned_other_eq_false hmine, hst, hread, bne_self_eq_false, Bool.false_eq_true, if_false]

theorem serveSnoop_of_owned (howned : (s.dirOf g).owned = true) : s.serveSnoop a g = s.sendCoh (.fwd 2 (s.dirOf g).owner a g) := by
  simp only [State.serveSnoop, howned, if_true]

theorem serveSnoop_of_unowned (howned : (s.dirOf g).owned = false) (hread : s.homeRead a g = (some b, u)) :
    s.serveSnoop a g = u.sendCoh (.data (granDie g) a g 0 b) := by
  simp only [State.serveSnoop, howned, hread, Bool.false_eq_true, if_false]

/-- A WriteInv or Atomic of kind `k + 4` is performed when no copy is left, and else collects every copy. -/
theorem serveWrite_of_kind {k : Nat} (hkind : (s.nc a g).kind = k + 4) :
    s.serveWrite a g =
      if (s.dirOf g).targets (2 ^ 20) = [] ∧ (s.dirOf g).owned = false then
        if k = 1 then s.performWrite a g (s.nc a g).mask (s.nc a g).data else s.performAtomic a g (s.nc a g).lanes
      else s.collect g { kind := k, req := a, mask := (s.nc a g).mask, data := (s.nc a g).data, lanes := (s.nc a g).lanes } (2 ^ 20) true := by
  simp only [State.serveWrite, hkind, Nat.add_sub_cancel, Bool.and_eq_true, decide_eq_true_eq, Bool.not_eq_true', Nat.reduceEqDiff]

end

/-! ## Granules given up (R275) -/

section

variable {s : State} {a g : Nat}

@[simp] theorem copy_setCopy_same (s : State) (a g : Nat) (c : Copy) : (s.setCopy a g c).copy a g = c := FMap.fget_fput_self _ _ _ _
@[simp] theorem dirOf_setCopy (s : State) (a g h : Nat) (c : Copy) : (s.setCopy a g c).dirOf h = s.dirOf h := rfl

/-- A copy in the write-back buffer, given up by its agent. -/
def Copy.buffered (c : Copy) : Copy := { c with st := .i, wb := true }

/-- The recorded owner is removed, its data first stored when it is dirty. -/
theorem onGiveUp_of_owner (c : Copy) (howned : (s.dirOf g).owned = true) (howner : (s.dirOf g).owner = a) (dirty : Bool) :
    (s.setCopy a g c).onGiveUp a g dirty = ((if dirty then (s.setCopy a g c).ownerStore a g c.data else s.setCopy a g c).setDir g
      (s.dirOf g).dropOwner).sendCoh (.wbAck a g false) := by
  simp only [State.onGiveUp, dirOf_setCopy, copy_setCopy_same, howned, howner, beq_self_eq_true, Bool.and_self, if_true]

/-- What any other agent gives up is superseded. -/
theorem onGiveUp_of_other (c : Copy) (h : (s.dirOf g).owned = false ∨ (s.dirOf g).owner ≠ a) (dirty : Bool) :
    (s.setCopy a g c).onGiveUp a g dirty = (s.setCopy a g c).sendCoh (.wbAck a g true) := by
  have hother : ((s.dirOf g).owned && (s.dirOf g).owner == a) = false := by rcases h with h | h <;> simp [h]
  simp only [State.onGiveUp, dirOf_setCopy, hother, Bool.false_eq_true, if_false]

theorem evict_dirty (hwant : (s.copy a g).want = 0) (hwb : (s.copy a g).wb = false) (hst : (s.copy a g).st = .m ∨ (s.copy a g).st = .o) :
    s.evict a g true = (s.setCopy a g (s.copy a g).buffered).sendCoh (.writeBack a g) := by
  rcases hst with hst | hst <;> simp [State.evict, State.giveUp, Copy.buffered, hwant, hwb, hst]

theorem evict_clean (hwant : (s.copy a g).want = 0) (hwb : (s.copy a g).wb = false) (hst : (s.copy a g).st = .e) :
    s.evict a g false = (s.setCopy a g (s.copy a g).buffered).sendCoh (.evictClean a g) := by
  simp [State.evict, State.giveUp, Copy.buffered, hwant, hwb, hst]

/-- A WriteBack is sent and met by its home. -/
theorem effWriteBack_of_dirty (hwant : (s.copy a g).want = 0) (hwb : (s.copy a g).wb = false)
    (hst : (s.copy a g).st = .m ∨ (s.copy a g).st = .o) (hfirst : ∀ y ∈ s.caches.net, y.2.chan ≠ (CMsg.writeBack a g).chan)
    (hopen : s.hopsHeld (reqNode a) (granDie g) = false) :
    effWriteBack a g s = (s.setCopy a g (s.copy a g).buffered).onGiveUp a g true := by
  rw [effWriteBack, evict_dirty hwant hwb hst]
  exact take_sendCoh_self _ hfirst ((hopsHeld_setCopy s a g _ _ _).trans hopen)

/-- An EvictClean is sent and met by its home. -/
theorem effEvictClean_of_clean (hwant : (s.copy a g).want = 0) (hwb : (s.copy a g).wb = false) (hst : (s.copy a g).st = .e)
    (hfirst : ∀ y ∈ s.caches.net, y.2.chan ≠ (CMsg.evictClean a g).chan) (hopen : s.hopsHeld (reqNode a) (granDie g) = false) :
    effEvictClean a g s = (s.setCopy a g (s.copy a g).buffered).onGiveUp a g false := by
  rw [effEvictClean, evict_clean hwant hwb hst]
  exact take_sendCoh_self _ hfirst ((hopsHeld_setCopy s a g _ _ _).trans hopen)

end

/-! ## The statement about requests -/

theorem okAgent {a g : Nat} (ha : a < 512) (hg : g < 2 ^ 36) : (decide (a < 512) && decide (g < 2 ^ 36)) = true := by
  rw [decide_eq_true ha, decide_eq_true hg, Bool.and_self]

theorem okRequester_of {a g : Nat} (ha : a < 1152) (hg : g < 2 ^ 36) : okRequester a g = true := by
  rw [okRequester, decide_eq_true ha, decide_eq_true hg, Bool.and_self]

/-- Settles O34: each request is sent and meets its home, which does what its directory entry says. -/
theorem coherenceRequestsRun : Obligations.CoherenceRequestsRun := by
  refine ⟨?caching, ?nonCaching, ?waiting, ?shared, ?own, ?uncached, ?givenUp⟩
  case caching =>
    intro a g kind full s u c
    dsimp only
    intro ha hg hdomain hnone hclosed hway hfirst hopen hkind
    have hgoes : s.granClosed g = false → (s.sameDomain a g && !s.granClosed g) = true := fun h => by rw [hdomain, h]; rfl
    rcases hkind with hreadShared | hreadOwn | hupgrade
    · obtain ⟨rfl, rfl, hst, rfl⟩ := hreadShared
      exact exec_eq_becomesR (okAgent ha hg) rfl
        ((if_pos hdomain).trans (requestRow_sendWant hnone (beq_iff_eq.2 hst) hway hfirst hopen))
    · obtain ⟨rfl, hst, rfl⟩ := hreadOwn
      exact exec_eq_becomesR (okAgent ha hg) rfl
        ((if_pos (hgoes (hclosed.resolve_left (by decide)))).trans (requestRow_sendWant hnone (beq_iff_eq.2 hst) hway hfirst hopen))
    · obtain ⟨rfl, rfl, hst, rfl⟩ := hupgrade
      obtain rfl : u = s := hway
      exact exec_eq_becomesR (okAgent ha hg) rfl
        ((if_pos (hgoes (hclosed.resolve_left (by decide)))).trans
          (requestRow_sendWant hnone (by simpa using hst) rfl hfirst hopen))
  case nonCaching =>
    intro a g r s c ha hg hdomain hnone hfirst hopen
    have hgoes : s.barred a g = false → (s.sameDomain a g && !s.barred a g) = true := fun h => by rw [hdomain, h]; rfl
    refine ⟨?_, fun mask b hbarred hlen => ?_, fun l hbarred => ?_⟩
    · rintro ⟨rfl, rfl⟩
      exact exec_eq_becomesR (okRequester_of ha hg) rfl
        ((if_pos hdomain).trans (requestRow_sendNc_read _ rfl hnone hfirst hopen))
    · rintro ⟨rfl, rfl⟩
      have hwf : (okRequester a g && decide (b.length = 64)) = true := by rw [okRequester_of ha hg, decide_eq_true hlen, Bool.and_self]
      exact exec_eq_becomesR hwf rfl
        ((if_pos (hgoes hbarred)).trans (requestRow_sendNc_write _ (show 5 ≠ 4 by decide) hnone hfirst hopen))
    · rintro ⟨rfl, rfl⟩
      exact exec_eq_becomesR (okRequester_of ha hg) rfl
        ((if_pos (hgoes hbarred)).trans (requestRow_sendNc_write _ (show 6 ≠ 4 by decide) hnone hfirst hopen))
  case waiting =>
    intro a g kind full s
    refine ⟨fun hwait hnew => ⟨fun hnak => ?_, fun hnaks hroom => ?_⟩, onRequest_of_free⟩
    · exact (onRequest_of_waiting hwait hnew).trans (if_pos hnak)
    · exact (onRequest_of_waiting hwait hnew).trans (if_neg (by omega))
  case shared =>
    intro a g s u d hroom
    exact ⟨fun _ _ => serveShared_of_uncached hroom, fun _ _ => serveShared_of_shared hroom, serveShared_of_owned hroom⟩
  case own =>
    intro a g kind full s u
    dsimp only
    intro hkind hroom
    have hserve : s.serveKind a g kind full = s.serveOwn a g full := by rcases hkind with rfl | rfl <;> rfl
    rw [hserve]
    refine ⟨serveOwn_of_targets hroom, fun htargets => ?_, fun htargets => ?_⟩
    · rw [serveOwn_of_noTargets hroom htargets]
      exact grantOwn_of_owned
    · rw [serveOwn_of_noTargets hroom htargets]
      refine fun hmine => ⟨?_, ?_, ?_⟩
      · rintro hst rfl
        exact grantOwn_of_holder hmine hst
      · rintro rfl
        exact grantOwn_full hmine
      · rintro b v hst rfl
        exact grantOwn_of_read hmine hst
  case uncached =>
    intro a g s
    exact ⟨serveSnoop_of_owned, fun _ _ => serveSnoop_of_unowned, serveWrite_of_kind, serveWrite_of_kind⟩
  case givenUp =>
    intro a g s
    dsimp only
    intro ha hg hwant hwb hopen
    refine ⟨fun hst hfirst => ?dirty, fun hst hfirst => ?clean⟩
    case dirty =>
      have heff := effWriteBack_of_dirty hwant hwb hst hfirst hopen
      exact ⟨fun howned howner => exec_eq_becomes (okAgent ha hg) rfl (heff.trans (onGiveUp_of_owner _ howned howner true)),
        fun hother => exec_eq_becomes (okAgent ha hg) rfl (heff.trans (onGiveUp_of_other _ hother true))⟩
    case clean =>
      have heff := effEvictClean_of_clean hwant hwb hst hfirst hopen
      exact ⟨fun howned howner => exec_eq_becomes (okAgent ha hg) rfl (heff.trans (onGiveUp_of_owner _ howned howner false)),
        fun hother => exec_eq_becomes (okAgent ha hg) rfl (heff.trans (onGiveUp_of_other _ hother false))⟩

end Sys2Proof.Machine
end

-- Proofs of the statement about answers of the coherence protocol.
section
/-!
SUPPORT. Coherence: forwards and recalls at owners, and invalidations, data, acknowledgements and NAKs where they arrive (R275 to R279, R281).
-/

namespace Sys2Proof.Machine

open Sys2Proof

/-! ## Forwards and recalls at an owner (R276) -/

section

variable {t : State} {o req g kind : Nat}

/-- While the owner's data has not arrived a forward is queued: the first four, and every recall. -/
theorem onFwd_early_of_room (hearly : t.early o g = true) (hroom : (t.copy o g).queue.length < 4 ∨ kind = 3) :
    t.onFwd o req g kind = t.setCopy o g { t.copy o g with queue := (t.copy o g).queue ++ [(req, kind)] } := by
  have hroom' : (decide ((t.copy o g).queue.length < 4) || decide (kind = 3)) = true := by simpa using hroom
  simp only [State.onFwd, hearly, hroom', if_true]

/-- A fifth forward finds no room: it is answered NAK, a FwdOwn after it is undone. -/
theorem onFwd_early_of_full (hearly : t.early o g = true) (hfull : 4 ≤ (t.copy o g).queue.length) (hkind : kind ≠ 3) :
    t.onFwd o req g kind = if kind = 1 ∨ kind = 4 then t.undoOwn o req g else t.sendCoh (.nak (reqNode o) req g) := by
  have hroom : (decide ((t.copy o g).queue.length < 4) || decide (kind = 3)) = false := by simp [hkind, hfull]
  simp only [State.onFwd, hearly, hroom, Bool.false_eq_true, if_false, if_true, Bool.or_eq_true, decide_eq_true_eq]

theorem onFwd_of_not_early (hearly : t.early o g = false) : t.onFwd o req g kind = t.serveFwd o req g kind := by
  simp only [State.onFwd, hearly, Bool.false_eq_true, if_false]

/-- An agent that holds nothing answers a forward NAK. -/
theorem serveFwd_of_none (hst : (t.copy o g).st = .i) (hwb : (t.copy o g).wb = false) (hkind : kind ≠ 3) :
    t.serveFwd o req g kind = t.sendCoh (.nak (reqNode o) req g) := by
  simp only [State.serveFwd, if_neg hkind, hst, hwb, beq_self_eq_true, Bool.not_false, Bool.and_self, if_true]

/-- The state in which an owner has answered a forward: its new copy, or the one that its write-back buffer keeps. -/
def State.keepCopy (t : State) (o g : Nat) (x : Copy) : State := if (t.copy o g).wb = true then t else t.setCopy o g x

/-- An owner that still has the data answers each kind of forward. -/
theorem serveFwd_of_held (hheld : (t.copy o g).st ≠ .i ∨ (t.copy o g).wb = true) :
    t.serveFwd o req g 0 = (t.keepCopy o g { t.copy o g with st := .o }).sendCoh (.data (reqNode o) req g 1 (t.copy o g).data) ∧
    t.serveFwd o req g 1 = (t.keepCopy o g { t.copy o g with st := .i, data := [] }).sendCoh
      (.data (reqNode o) req g 3 (t.copy o g).data) ∧
    t.serveFwd o req g 4 = (t.keepCopy o g { t.copy o g with st := .i, data := [] }).sendCoh (.data (reqNode o) req g 3 []) ∧
    t.serveFwd o req g 2 = t.sendCoh (.data (reqNode o) req g 0 (t.copy o g).data) := by
  have hsome : ((t.copy o g).st == .i && !(t.copy o g).wb) = false := by rcases hheld with h | h <;> simp [h]
  refine ⟨?_, ?_, ?_, ?_⟩ <;> simp only [State.serveFwd, State.keepCopy, hsome, Bool.false_eq_true, if_false] <;> rfl

/-- A recall of a dirty copy is answered by its write-back and an InvAck. -/
theorem serveFwd_recall_of_dirty (hst : (t.copy o g).st = .m ∨ (t.copy o g).st = .o) :
    t.serveFwd o o g 3 = ((t.setCopy o g (t.copy o g).buffered).sendCoh (.writeBack o g)).sendCoh (.invAck o g) := by
  rcases hst with hst | hst <;> simp [State.serveFwd, Copy.buffered, hst]

/-- A recall of a clean copy, or of none, is answered by an InvAck; only a write-back buffer keeps its data. -/
theorem serveFwd_recall_of_clean (hm : (t.copy o g).st ≠ .m) (ho : (t.copy o g).st ≠ .o) :
    t.serveFwd o o g 3 = (t.setCopy o g { t.copy o g with st := .i, data := if (t.copy o g).wb then (t.copy o g).data else [] }).sendCoh
      (.invAck o g) := by
  have hclean : ((t.copy o g).st == .m || (t.copy o g).st == .o) = false := by rw [beq_eq_false_iff_ne.2 hm, beq_eq_false_iff_ne.2 ho]; rfl
  simp only [State.serveFwd, hclean, Bool.or_false, Bool.false_eq_true, if_false, if_true]

end

/-! ## Answers at sharers, requesters and the home (R275 to R277, R279, R281) -/

section

variable {t : State} {a g grant : Nat} {b : Bytes}

theorem onInv_of_sharer (hst : (t.copy a g).st = .s) (hwant : (t.copy a g).want = 0) :
    t.onInv a g = (t.setCopy a g { (t.copy a g).dropped with inved := false }).sendCoh (.invAck a g) := by
  simp [State.onInv, hst, hwant]

theorem onInv_of_other (hst : (t.copy a g).st ≠ .s) (hwant : (t.copy a g).want = 0) : t.onInv a g = t.sendCoh (.invAck a g) := by
  simp [State.onInv, hst, hwant]

/-- The copy that a grant gives; a grant of S that an Inv has overtaken is not kept. -/
theorem onData_of_granted (hgrant : 0 < grant) (hwant : (t.copy a g).want ≠ 0) (hlen : b.length = 64) :
    t.onData a g grant b = (t.setCopy a g (if grant = 1 ∧ (t.copy a g).inved = true then {} else
      { st := if grant = 1 then .s else if grant = 2 then .e else .m, data := b })).serveQueue a g (t.copy a g).queue := by
  have hb : b ≠ [] := List.ne_nil_of_length_pos (by omega)
  simp only [State.onData, if_neg hgrant.ne', if_neg hwant, if_neg hb, Bool.and_eq_true, decide_eq_true_eq]

theorem onData_of_read (hkind : (t.nc a g).kind = 4) : t.onData a g 0 b = t.setNc a g { value := b } := by
  simp only [State.onData, hkind, if_true]

theorem onInvAck_of_last {x : Txn} (htxn : (t.dirOf g).txn = some x) (hlast : (t.dirOf g).wait.erase a = []) :
    t.onInvAck a g = t.endCollect g x := by
  simp only [State.onInvAck, htxn, hlast, if_true]

theorem onInvAck_of_more {x : Txn} (htxn : (t.dirOf g).txn = some x) (hmore : (t.dirOf g).wait.erase a ≠ []) :
    t.onInvAck a g = t.setDir g { t.dirOf g with wait := (t.dirOf g).wait.erase a } := by
  simp only [State.onInvAck, htxn, if_neg hmore]

theorem onWbAck_of_buffered (hwb : (t.copy a g).wb = true) :
    t.onWbAck a g = t.setCopy a g { t.copy a g with wb := false, data := if (t.copy a g).st = .i then [] else (t.copy a g).data } := by
  simp only [State.onWbAck, hwb, if_true, beq_iff_eq]

theorem onDone_of_write (ps : List Nat) (hkind : 5 ≤ (t.nc a g).kind) :
    t.onDone a g ps = (t.setNc a g { prior := ps }).closeWrite a := by
  simp only [State.onDone, if_neg (Nat.not_lt.2 hkind)]

theorem onNak_of_nonCaching (hkind : (t.nc a g).kind ≠ 0) :
    t.onNak a g = t.setNc a g { t.nc a g with
      naks := (t.nc a g).naks + 1, held := true, retryAt := t.eng + t.nakWait a ((t.nc a g).naks + 1) } := by
  simp only [State.onNak, if_pos hkind]

/-- Without forwards queued a NAK does nothing but set the retry time. -/
theorem onNak_of_caching (hkind : (t.nc a g).kind = 0) (hwant : (t.copy a g).want ≠ 0) (hqueue : (t.copy a g).queue = []) :
    t.onNak a g = t.setCopy a g { t.copy a g with
      naks := (t.copy a g).naks + 1, held := true, retryAt := t.eng + t.nakWait a ((t.copy a g).naks + 1), inved := false, queue := [] } := by
  simp only [State.onNak, hkind, if_neg hwant, hqueue, State.refuseQueue, State.serveQueue, List.foldl_nil, ite_self, ne_eq,
    not_true_eq_false, if_false]

end

/-! ## Retries (R277) -/

section

variable {s t : State} {a g dt : Nat}

theorem effNakRetry_of_caching (ht : s.elapse dt = t) (hkind : (t.nc a g).kind = 0) (hwant : (t.copy a g).want ≠ 0)
    (hheld : (t.copy a g).held = true) (hdue : (t.copy a g).retryAt ≤ t.eng) :
    effNakRetry a g dt s =
      (t.setCopy a g { t.copy a g with held := false }).sendCoh (.request a g (t.copy a g).want (t.copy a g).full) := by
  subst ht
  simp only [effNakRetry, hkind, ne_eq, not_true_eq_false, if_false]
  exact if_pos ⟨hwant, hheld, hdue⟩

theorem effNakRetry_of_nonCaching (ht : s.elapse dt = t) (hkind : (t.nc a g).kind ≠ 0) (hheld : (t.nc a g).held = true)
    (hdue : (t.nc a g).retryAt ≤ t.eng) :
    effNakRetry a g dt s = (t.setNc a g { t.nc a g with held := false }).sendCoh (.request a g (t.nc a g).kind false) := by
  subst ht
  simp only [effNakRetry, if_pos hkind, hheld, decide_eq_true hdue, Bool.and_self, if_true]

end

/-! ## The statement about answers -/

/-- Settles O35: each message is taken from its way, and its agent or home acts as its own state says. -/
theorem coherenceAnswersRun : Obligations.CoherenceAnswersRun := by
  refine ⟨?arrivals, ?forwards, ?answers, ?retries⟩
  case arrivals =>
    intro o req g s x
    dsimp only
    intro ho hreq hg
    have hagent := okAgent ho hg
    have hrequester := okRequester_of hreq hg
    have hforward : (decide (o < 512) && okRequester req g) = true := by rw [decide_eq_true ho, hrequester, Bool.and_self]
    refine ⟨exec_eq_becomes_of_arriving hforward rfl, ?fwdOwn, exec_eq_becomes_of_arriving hforward rfl,
      exec_eq_becomes_of_arriving hagent rfl, exec_eq_becomes_of_arriving hagent rfl, ?invAck,
      fun _ => exec_eq_becomes_of_arriving hagent rfl, ?data, fun _ => exec_eq_becomes_of_arriving hrequester rfl,
      fun _ => exec_eq_becomes_of_arriving hrequester rfl⟩
    case fwdOwn => exact fun _ _ => exec_eq_becomes_of_arriving hforward rfl
    case invAck => exact fun h hm => exec_eq_becomesR hagent rfl (arrive_of_arriving h hm)
    case data =>
      intro src grant b hgrant hb
      have hbytes : (b.length == 64 || b.length == 0 && grant == 3) = true := by
        rcases hb with hb | ⟨rfl, rfl⟩
        · simp [hb]
        · rfl
      have hwf : (okRequester req g && decide (grant < 4) && (b.length == 64 || b.length == 0 && grant == 3)) = true := by
        rw [hrequester, decide_eq_true hgrant, hbytes, Bool.and_self, Bool.and_self]
      exact exec_eq_becomes_of_arriving hwf rfl
  case forwards =>
    intro o req g kind t
    dsimp only
    refine ⟨onFwd_early_of_room, fun hearly hfull hkind => ?nak, fun hearly hfull hkind => ?undone, fun hearly hst hwb hkind => ?none,
      fun hearly hheld => ?held, fun hearly hst => ?dirty, fun hearly hm ho => ?clean⟩
    case nak => exact (onFwd_early_of_full hearly hfull (by omega)).trans (if_neg (by omega))
    case undone => exact (onFwd_early_of_full hearly hfull (by omega)).trans (if_pos hkind)
    case none => exact (onFwd_of_not_early hearly).trans (serveFwd_of_none hst hwb hkind)
    case held =>
      simp only [onFwd_of_not_early hearly]
      exact serveFwd_of_held hheld
    case dirty => exact (onFwd_of_not_early hearly).trans (serveFwd_recall_of_dirty hst)
    case clean => exact (onFwd_of_not_early hearly).trans (serveFwd_recall_of_clean hm ho)
  case answers =>
    intro a g grant b ps t
    exact ⟨onInv_of_sharer, onInv_of_other, onData_of_granted, onData_of_read,
      fun x htxn => ⟨onInvAck_of_last htxn, onInvAck_of_more htxn⟩, onWbAck_of_buffered, onDone_of_write ps, onNak_of_nonCaching,
      onNak_of_caching⟩
  case retries =>
    intro a g dt s
    dsimp only
    intro ha hg
    have hwf := okRequester_of ha hg
    exact ⟨fun hkind hwant hheld hdue => exec_eq_becomesR hwf rfl (effNakRetry_of_caching rfl hkind hwant hheld hdue),
      fun hkind hheld hdue => exec_eq_becomesR hwf rfl (effNakRetry_of_nonCaching rfl hkind hheld hdue)⟩

end Sys2Proof.Machine
end

-- Proofs of the statement about translation and protection.
section
/-!
SUPPORT. Translation (R288 to R307): the checks of XLATE_PRIME, XLATE_INVAL and WINDOW_SET, what an invalidation leaves in the caches, and the
effect of each event of walks, service requests and fault queues once its condition holds.
-/

namespace Sys2Proof.Machine

open Sys2Proof

/-! ## XLATE_PRIME and XLATE_INVAL (R298, R299) -/

/-- The range that an XLATE_PRIME names is canonical and of 1 byte to 1 TiB, and its dies are the partition's. -/
theorem xlatePrime_rangeOk {va size mask own : Nat} (hsize : size ≠ 0) (hmost : size ≤ 2 ^ 40) (hend : va + size ≤ 2 ^ 64)
    (hfirst : nonCanonical va = false) (hlast : nonCanonical (va + size - 1) = false) (hown : andNot mask own = 0) :
    (decide (size = 0) || decide (2 ^ 40 < size) || decide (2 ^ 64 < va + size) || nonCanonical va || nonCanonical (va + size - 1) ||
      decide (andNot mask own ≠ 0)) = false := by
  simp only [hsize, Nat.not_lt.mpr hmost, Nat.not_lt.mpr hend, hfirst, hlast, hown, ne_eq, not_true_eq_false, decide_false, Bool.or_self]

/-- The range of an XLATE_INVAL is one of whole pages, and none where it covers the whole of its address spaces. -/
theorem xlateInval_rangeOk {va size : Nat} {whole : Bool}
    (h : if whole then va = 0 ∧ size = 0 else va % 65536 = 0 ∧ size % 65536 = 0 ∧ size ≠ 0) :
    (if whole then decide (va ≠ 0) || decide (size ≠ 0)
      else decide (va % 65536 ≠ 0) || decide (size % 65536 ≠ 0) || decide (size = 0)) = false := by
  cases whole with
  | true => simpa using h
  | false => simpa [and_assoc] using h

/-- The address space of an XLATE_INVAL is in the partition's table, and none where it covers them all. -/
theorem xlateInval_asidOk {asid log2 : Nat} {all : Bool} (h : if all then asid = 0 else asid < 2 ^ log2) :
    ¬ (if all then asid ≠ 0 else 2 ^ log2 ≤ asid) := by
  cases all with
  | true => simpa using h
  | false => simpa using h

/-! ## Invalidations and their acknowledgements (R299, R300) -/

/-- A cache that is asked and owes an answer drops what is covered, as does the cache behind it, and then answers if it may. -/
theorem effTranslationInv_of_owed {s : State} {r pos cache : Nat} {e : Entry} (he : s.entry? r pos = some e) (hactive : e.active = true)
    (hop : e.op = 0x21) (howed : s.xl.acks.contains (r, pos, cache) = true) :
    effTranslationInv r pos cache s =
      let p := s.ringPart r
      let u : State := { s with xl := (s.xl.dropCovered e p cache).dropCovered e p (walkerOf cache) }
      ((u.dropHeld e p).countInval e p cache).ackInval r pos e p cache := by
  have hgo : (!e.active || decide (e.op ≠ 0x21) || !s.xl.acks.contains (r, pos, cache)) = false := by simp only [hactive, hop, howed]; rfl
  simp only [effTranslationInv, he, hgo, Bool.false_eq_true, if_false]

/-- A map whose value at one key is changed: that key reads the changed value, the others what they read before. -/
theorem fget_fput_changed {α : Type} [DecidableEq α] (m : FMap α) (f : α → α) (k j : Nat) (d : α) :
    (m.fput k (f (m.fget k d)) d).fget j d = if j = k then f (m.fget j d) else m.fget j d := by
  split
  · next h => rw [h, FMap.fget_fput_self]
  · next h => exact FMap.fget_fput_ne m _ d d h

theorem effTranslationAck_of_answered {s u : State} {r pos : Nat} {e : Entry} {bad : Lost} (he : s.entry? r pos = some e)
    (hactive : e.active = true) (hop : e.op = 0x21) (hphase : e.phase = 5)
    (hanswered : (s.xl.acks.any fun a => a.1 == r && a.2.1 == pos) = false)
    (hflush : s.flushNear (s.partDies (s.ringPart r)) = (bad, u)) :
    effTranslationAck r pos s = (u.postLost (s.ringPart r) bad).doneWith r pos 0 0x3F := by
  simp only [effTranslationAck, he, hactive, hop, hphase, hanswered, hflush, beq_self_eq_true, Bool.not_false, Bool.and_self, if_true]

/-! ## WINDOW_SET (R302, R303) -/

/-- Setting an import leaves the accesses under way as they are. -/
theorem importBusy_imports (s : State) (m : FMap Win) (key : Nat) :
    { s with xl := { s.xl with imports := m } }.importBusy key = s.importBusy key := rfl

/-- KIND, FLAGS, RIGHTS and the reserved bytes of a WINDOW_SET are in order. -/
theorem windowSet_bodyOk {e : Entry} (hkind : e.body 31 1 < 2) (hflags : e.body 33 1 < 2) (hrights : e.body 32 1 < 8)
    (hzero : e.zero 34 30 = true) :
    (decide (2 ≤ e.body 31 1) || decide (2 ≤ e.body 33 1) || decide (8 ≤ e.body 32 1) || !e.zero 34 30) = false := by
  simp [hkind, hflags, hrights, hzero]

/-- A range of whole pages that may be a window: 64 KiB to 1 TiB, canonical, and inside the window it names at the other node. -/
theorem windowSet_rangeOk {base size off rights : Nat} (hleast : 65536 ≤ size) (hsize : size % 65536 = 0) (hoff : off % 65536 = 0)
    (hbase : base % 65536 = 0) (hmost : off + size ≤ 2 ^ 40) (hend : base + size ≤ 2 ^ 64) (hfirst : nonCanonical base = false)
    (hlast : nonCanonical (base + size - 1) = false) (hrights : 0 < rights) :
    (decide (size < 65536) || decide (2 ^ 40 < size) || decide (size % 65536 ≠ 0) || decide (off % 65536 ≠ 0) ||
      decide (base % 65536 ≠ 0) || decide (2 ^ 64 < base + size) || nonCanonical base || nonCanonical (base + size - 1) ||
      decide (rights = 0) || decide (2 ^ 40 < off + size)) = false := by
  have hwhole : size ≤ 2 ^ 40 := Nat.le_trans (Nat.le_add_left size off) hmost
  simp only [hsize, hoff, hbase, hfirst, hlast, Nat.not_lt.mpr hleast, Nat.not_lt.mpr hwhole, Nat.not_lt.mpr hmost, Nat.not_lt.mpr hend,
    Nat.ne_of_gt hrights, ne_eq, not_true_eq_false, decide_false, Bool.or_self]

/-- A node number of 20 bits has no bit above them. -/
theorem node_bits {node : Nat} (h : node < 2 ^ 20) : bitsOf node 20 11 = 0 ∧ bitOf node 31 = false ∧ node % 2 ^ 20 = node :=
  ⟨by rw [bitsOf, Nat.div_eq_of_lt h, Nat.zero_mod], Nat.testBit_lt_two_pow (Nat.lt_trans h (by decide)), Nat.mod_eq_of_lt h⟩

/-- The node and the remote window that an import names. -/
theorem windowSet_importOk {node remote off : Nat} (hhigh : bitsOf node 20 11 = 0) (hany : bitOf node 31 = false) (hremote : remote < 4096) :
    (decide (bitsOf node 20 11 ≠ 0) || (true && bitOf node 31) || (true && decide (4096 ≤ remote)) ||
      (!true && (decide (remote ≠ 0) || decide (off ≠ 0)))) = false := by
  simp [hhigh, hany, hremote]

/-- A window for requests of other nodes names no window of theirs and no offset. -/
theorem windowSet_exportOk {node remote off : Nat} (hhigh : bitsOf node 20 11 = 0) (hremote : remote = 0) (hoff : off = 0) :
    (decide (bitsOf node 20 11 ≠ 0) || (false && bitOf node 31) || (false && decide (4096 ≤ remote)) ||
      (!false && (decide (remote ≠ 0) || decide (off ≠ 0)))) = false := by
  simp [hhigh, hremote, hoff]

/-! ## Walks, service requests and fault queues (R291, R297, R307) -/

/-- The state after a walk with outcome `x`: a failure is recorded for the agent of the cache. -/
def State.walked (u : State) (c p a va need : Nat) (x : XOut) : State :=
  match x with
  | .fail _ cause => u.walkFail c p a need cause 1 va
  | .uncorr pa => u.walkFail c p a need 0x10 2 pa
  | _ => u

theorem effTranslationWalk_of_serves {s u : State} {c p a va need : Nat} {x : XOut} (hserves : s.cacheServes c p = true)
    (hx : s.xlate c p a va need = (x, u)) : effTranslationWalk c p a va need s = u.walked c p a va need x := by
  simp only [effTranslationWalk, hserves, Bool.not_true, Bool.false_eq_true, if_false, hx]
  cases x <;> rfl

theorem effSvcTimeout_of_overdue {s t : State} {n tag dt k : Nat} {x : SvcReq} (ht : s.elapse dt = t)
    (hfind : ((t.svc n).open_.find? fun (e : Nat × SvcReq) => e.1 == tag) = some (k, x)) (hwritten : x.written = true)
    (hdue : x.at_ + t.svcLimit n * 1000 ≤ t.eng) :
    effSvcTimeout n tag dt s = (t.incF .XL_SVC_STATUS_TIMEOUTS n).svcFail n tag 0x06 := by
  simp only [effSvcTimeout, ht, hfind, hwritten, hdue, decide_true, Bool.and_self, if_true]

theorem effFaultWaitExpiry_of_stalled {s t : State} {r pos dt : Nat} {e : Entry} {x : Stall} (ht : s.elapse dt = t)
    (he : t.entry? r pos = some e) (hstall : e.stall = some x) (hdue : x.since + t.waitUs x.queue * 1000 ≤ t.eng) :
    effFaultWaitExpiry r pos dt s = t.endFull r pos x.res.result x.res.vis := by
  simp only [effFaultWaitExpiry, ht, he, hstall, hdue, if_true]

/-! ## The statement about translation -/

/-- Settles O20: a command that starts does its body, whose checks the hypotheses pass, and each event has the effect that its lemma gives. -/
theorem translationCommandsRun : Obligations.TranslationCommandsRun := by
  refine ⟨?prime, ?inval, ?inv, ?drop, ?ack, ?clear, ?setImport, ?setExport, ?walk, ?timeout, ?expiry, ?poll⟩
  case prime =>
    intro r pos s t u e x
    dsimp only
    intro hbegun hflags hzero hsize hmost hend hfirst hlast hown hwalk hgood hready
    have hfits : (decide (8 ≤ e.body 18 1) || !e.zero 19 45) = false := by simp [hflags, hzero]
    have hrange := xlatePrime_rangeOk hsize hmost hend hfirst hlast hown
    exact exec_eq_becomesR_of_begun hbegun rfl rfl
      (by simp only [hfits, hrange, hwalk, hgood, hready, Bool.false_eq_true, if_false])
  case inval =>
    intro r pos s t e
    dsimp only
    intro hbegun hflags hzero hrange hasid
    have hfits : (decide (4 ≤ e.body 18 1) || !e.zero 19 45) = false := by simp [hflags, hzero]
    have hspan := xlateInval_rangeOk hrange
    have hspace := xlateInval_asidOk hasid
    exact exec_eq_becomes_of_begun hbegun rfl rfl
      (by simp only [hfits, hspan, hspace, Bool.false_eq_true, if_false])
  case inv =>
    intro r pos cache s e hpos hcache he hactive hop howed
    have hwf : (okPos r pos && decide (cache < 4096)) = true := by rw [hpos, decide_eq_true hcache, Bool.and_self]
    exact exec_eq_becomes hwf rfl (effTranslationInv_of_owed he hactive hop howed)
  case drop =>
    intro x e p cache c
    exact ⟨fget_fput_changed x.tlb _ cache c [], fget_fput_changed x.walk _ cache c [], rfl, rfl, rfl⟩
  case ack =>
    intro r pos s u e bad hpos he hactive hop hphase hanswered hflush
    exact exec_eq_becomesR hpos rfl (effTranslationAck_of_answered he hactive hop hphase hanswered hflush)
  case clear =>
    intro r pos s t e
    dsimp only
    intro hbegun hkind hclear hrights hzero hbase hsize hoff hnode hremote himport hexport
    have hfits := windowSet_bodyOk hkind (by omega) (by omega) hzero
    have hflag : bitOf (e.body 33 1) 0 = true := by rw [hclear]; rfl
    have hempty : (decide (e.body 0 8 ≠ 0) || decide (e.body 8 8 ≠ 0) || decide (e.body 16 8 ≠ 0) || decide (e.body 24 4 ≠ 0) ||
        decide (e.body 28 2 ≠ 0) || decide (e.body 32 1 ≠ 0)) = false := by
      simp [hbase, hsize, hoff, hnode, hremote, hrights]
    refine exec_eq_becomes_of_begun hbegun rfl rfl ?_
    simp only [hfits, hflag, hempty, Bool.false_eq_true, if_false, if_true]
    obtain hk | hk : e.body 31 1 = 0 ∨ e.body 31 1 = 1 := by omega
    · have himp : (e.body 31 1 == 0) = true := beq_iff_eq.mpr hk
      rw [if_pos hk]
      simp only [himp, importBusy_imports, himport hk, Bool.not_true, Bool.false_and, Bool.and_false, Bool.false_eq_true, if_false, if_true]
    · have himp : (e.body 31 1 == 0) = false := by rw [hk]; rfl
      have hne : e.body 31 1 ≠ 0 := by omega
      rw [if_neg hne]
      simp only [himp, hexport hk, Bool.false_and, Bool.and_false, Bool.false_eq_true, if_false]
  case setImport =>
    intro r pos s t e
    dsimp only
    intro hbegun hkind hset hleast hmost hzero hnode hremote hlarge hpages hoff hbase hinside hend hfirst hlast hapart hidle
    have hfits := windowSet_bodyOk (by omega) (by omega) hmost hzero
    have hflag : bitOf (e.body 33 1) 0 = false := by rw [hset]; rfl
    have himp : (e.body 31 1 == 0) = true := beq_iff_eq.mpr hkind
    obtain ⟨hhigh, hany, hlow⟩ := node_bits hnode
    have hfields := windowSet_importOk (off := e.body 16 8) hhigh hany hremote
    have hrange := windowSet_rangeOk hlarge hpages hoff hbase hinside hend hfirst hlast hleast
    refine exec_eq_becomes_of_begun hbegun rfl rfl ?_
    rw [← himp] at hfields
    simp only [hfits, hflag, hfields, hrange, Bool.false_eq_true, if_false]
    simp only [himp, hapart, hany, hlow, importBusy_imports, hidle, Bool.not_true, Bool.false_and, Bool.and_false, Bool.false_eq_true,
      if_false, if_true]
  case setExport =>
    intro r pos s t e
    dsimp only
    intro hidle hbegun hkind hset hleast hmost hzero hnode hremote hoff hlarge hpages hsmall hbase hend hfirst hlast
    have hfits := windowSet_bodyOk (by omega) (by omega) hmost hzero
    have hflag : bitOf (e.body 33 1) 0 = false := by rw [hset]; rfl
    have himp : (e.body 31 1 == 0) = false := by rw [hkind]; rfl
    have hfields := windowSet_exportOk hnode hremote hoff
    have hpage : e.body 16 8 % 65536 = 0 := by omega
    have hinside : e.body 16 8 + e.body 8 8 ≤ 2 ^ 40 := by omega
    have hrange := windowSet_rangeOk hlarge hpages hpage hbase hinside hend hfirst hlast hleast
    refine exec_eq_becomes_of_begun hbegun rfl rfl ?_
    rw [← himp] at hfields
    simp only [hfits, hflag, hfields, hrange, Bool.false_eq_true, if_false]
    simp only [himp, hidle, hoff, hremote, Bool.false_and, Bool.and_false, Bool.false_eq_true, if_false]
  case walk =>
    intro c p a va need s u x hc hp ha hneed hserves hx
    have hwf : (decide (c < 4096) && decide (p < 16) && decide (a < 65536) && decide (need < 8)) = true := by
      simp [hc, hp, ha, hneed]
    exact exec_eq_becomesR hwf rfl ((effTranslationWalk_of_serves hserves hx).trans (by cases x <;> rfl))
  case timeout =>
    intro n tag dt s x k hn htag hfind hwritten hdue
    have hwf : (decide (n < 16) && decide (tag < 1024)) = true := by rw [decide_eq_true hn, decide_eq_true htag, Bool.and_self]
    exact exec_eq_becomes hwf rfl (effSvcTimeout_of_overdue rfl hfind hwritten hdue)
  case expiry =>
    intro r pos dt s e x
    dsimp only
    intro hpos he hstall hdue
    exact exec_eq_becomes hpos rfl (effFaultWaitExpiry_of_stalled rfl he hstall hdue)
  case poll =>
    intro q dt s
    dsimp only
    intro hq hwork
    exact exec_eq_becomesR (decide_eq_true hq) rfl (if_pos hwork)

end Sys2Proof.Machine
end

-- Proofs of the statement about window packets.
section
/-!
SUPPORT. Packets that arrive at a hub of this node (R304, R371, R374, R375, R382), and the time limit of window requests: the effect of each once
its condition holds.
-/

namespace Sys2Proof.Machine

open Sys2Proof

/-! ## Packets for this node -/

section
variable {s : State} {h op : Nat} {x : TPacket} (hworks : s.hubWorks h = true) (hop : x.op = op) (hdest : x.dest = s.node)
include hworks hop hdest

/-- A packet of its kind for this node, at a working hub, is taken. -/
theorem packet_taken : (s.hubWorks h && x.op == op && x.dest == s.node) = true := by
  rw [hworks, hop, hdest, beq_self_eq_true, beq_self_eq_true, Bool.and_self, Bool.and_self]

theorem windowRequest_of_taken : s.windowRequest h op x = (s.consume x).serveAndReply h x :=
  if_pos (packet_taken hworks hop hdest)

theorem windowResponse_of_taken : s.windowResponse h op x = ((s.consume x).takeResponse x).settleAnswers :=
  if_pos (packet_taken hworks hop hdest)

end

/-! ## ROUTE_FAIL (R375, R382) -/

section
variable {s : State} {h : Nat} {x : TPacket} (hworks : s.hubWorks h = true) (hop : x.op = 0x0B) (hdest : x.dest = s.node)
include hworks hop hdest

/-- A ROUTE_FAIL with the TAG of a window request answers that request. -/
theorem effRouteFail_of_window (htag : x.tag < 0x8000) : effRouteFail h x s = ((s.consume x).takeResponse x).settleAnswers :=
  (if_pos htag).trans (windowResponse_of_taken hworks hop hdest)

/-- A ROUTE_FAIL with the TAG of a table packet ends the packet's table. -/
theorem effRouteFail_of_table (htag : 0x8000 ≤ x.tag) : effRouteFail h x s = (s.consume x).loseTabTag x.tag x.flow :=
  (if_neg (Nat.not_lt.mpr htag)).trans (if_pos (packet_taken hworks hop hdest))

end

/-! ## Transit and the time limit of requests (R371, R374) -/

theorem effTilusTransit_of_other {s : State} {h : Nat} {x : TPacket} (hworks : s.hubWorks h = true) (hdest : x.dest ≠ s.node) :
    effTilusTransit h x s = (s.consume x).sendPkt h x :=
  if_pos (by rw [hworks, bne_iff_ne.mpr hdest, Bool.and_self])

theorem effRemoteTimeout_of_overdue {s t : State} {h tag dt key : Nat} {q : RReq} (ht : s.elapse dt = t)
    (hfind : (t.rreqs.find? fun (e : Nat × RReq) => e.1 == tag && e.2.hub == h) = some (key, q)) (hsent : q.unsent = none)
    (hdue : q.sentAt + t.remoteNs ≤ t.eng) : effRemoteTimeout h tag dt s = t.loseReq key := by
  simp only [effRemoteTimeout, ht, hfind, hsent, hdue, Option.isNone_none, decide_true, Bool.and_self, if_true]

/-! ## The statement about window packets -/

/-- Settles O36: each packet is taken by the hub it reaches, and what follows is what its kind and its destination say. -/
theorem windowPacketsRun : Obligations.WindowPacketsRun := by
  refine ⟨?requests, ?responses, ?tables, ?transit, ?timeout⟩
  case requests =>
    intro h x s hh hworks hdest
    have hwf := decide_eq_true hh
    exact ⟨fun hop => exec_eq_becomesR hwf rfl (windowRequest_of_taken hworks hop hdest),
      fun hop => exec_eq_becomesR hwf rfl (windowRequest_of_taken hworks hop hdest),
      fun hop => exec_eq_becomesR hwf rfl (windowRequest_of_taken hworks hop hdest)⟩
  case responses =>
    intro h x s c hh hworks hdest
    have hwf := decide_eq_true hh
    refine ⟨?_, fun hop htag => exec_eq_becomes hwf rfl (effRouteFail_of_window hworks hop hdest htag)⟩
    rintro (⟨hop, rfl⟩ | ⟨hop, rfl⟩ | ⟨hop, rfl⟩)
    · exact exec_eq_becomesR hwf rfl (windowResponse_of_taken hworks hop hdest)
    · exact exec_eq_becomesR hwf rfl (windowResponse_of_taken hworks hop hdest)
    · exact exec_eq_becomesR hwf rfl (windowResponse_of_taken hworks hop hdest)
  case tables =>
    intro h x s hh hworks hdest hop htag
    exact exec_eq_becomes (decide_eq_true hh) rfl (effRouteFail_of_table hworks hop hdest htag)
  case transit =>
    intro h x s hh hworks hdest
    exact exec_eq_becomes (decide_eq_true hh) rfl (effTilusTransit_of_other hworks hdest)
  case timeout =>
    intro h tag dt s key q
    dsimp only
    intro hh htag hfind hsent hdue
    have hwf : (decide (h < 4) && decide (tag < 65536)) = true := by rw [decide_eq_true hh, decide_eq_true htag, Bool.and_self]
    exact exec_eq_becomes hwf rfl (effRemoteTimeout_of_overdue rfl hfind hsent hdue)

end Sys2Proof.Machine
end

-- Proofs of the statements about steps and runs.
section
/-!
SUPPORT. Steps and runs of the machine: what every command can answer, the invariant of the queue, and the state after reset.
-/

namespace Sys2Proof.Machine

open Sys2Proof

/-! ## What a command answers -/

theorem exec_next_of_wellFormed {c : Instr} (s : State) (h : c.wellFormed = true) : ∃ t, exec c s = .next t := by
  obtain ⟨k, hk⟩ := exec_shape c s
  exact ⟨_, hk.trans (runIf_of h s k)⟩

theorem exec_fault_of_illFormed {c : Instr} (s : State) (h : c.wellFormed = false) : exec c s = .fault .operandOutOfRange := by
  obtain ⟨k, hk⟩ := exec_shape c s
  rw [hk, h, runIf_false]

theorem exec_ne_refused (c : Instr) (s : State) (x : Refusal) : exec c s ≠ .refused x := by
  cases hwf : c.wellFormed with
  | true =>
    obtain ⟨t, ht⟩ := exec_next_of_wellFormed s hwf
    rw [ht]
    exact fun h => nomatch h
  | false =>
    rw [exec_fault_of_illFormed s hwf]
    exact fun h => nomatch h

/-- Settles O5: a command acts through `runIf` on its own operand check. -/
theorem commandsInRangeAlwaysAnswer : Obligations.CommandsInRangeAlwaysAnswer := fun c s =>
  ⟨exec_next_of_wellFormed s, exec_fault_of_illFormed s, exec_ne_refused c s⟩

/-- Settles O6: `runIf` puts the queue and the fuses of before into every next state. -/
theorem commandsKeepQueueAndFuses : Obligations.CommandsKeepQueueAndFuses := by
  intro c s t h
  obtain ⟨k, hk⟩ := exec_shape c s
  exact (runIf_next (hk.symm.trans h)).2

/-! ## Steps -/

theorem step_of_empty {s : State} (h : s.pending = []) : step s = .next (s.elapse 1) := by
  simp only [step, h]

theorem step_of_front {s : State} {c : Instr} {rest : List Instr} (h : s.pending = c :: rest) : step s = exec c (s.popQueue rest) := by
  simp only [step, h]

/-- Settles O1. -/
theorem stepRunsFront : Obligations.StepRunsFront := fun _ _ _ h => step_of_front h

theorem elapse_engine (s : State) (dt : Nat) : (s.elapse dt).time.engine = s.time.engine + dt := by
  unfold State.elapse; simp only; split <;> split <;> rfl

theorem elapse_hostMem (s : State) (dt : Nat) : (s.elapse dt).hostMem = s.hostMem := by
  unfold State.elapse; simp only; split <;> split <;> rfl

theorem elapse_rings (s : State) (dt : Nat) : (s.elapse dt).rings = s.rings := by
  unfold State.elapse; simp only; split <;> split <;> rfl

/-- Settles O2: the passing of time writes the clock, and HOLD_MS alone beside it. -/
theorem idleStepPassesOneNanosecond : Obligations.IdleStepPassesOneNanosecond := fun s h =>
  ⟨s.elapse 1, step_of_empty h, rfl, elapse_engine s 1, (elapse_pending s 1).trans h, elapse_mem s 1, elapse_hostMem s 1, elapse_rings s 1,
    elapse_fuse s 1⟩

/-- What every step does: it takes the front command off the queue, if there is one, and keeps the fuses. -/
theorem step_keeps {s t : State} (h : step s = .next t) : t.pending = s.pending.tail ∧ t.fuse = s.fuse := by
  cases hq : s.pending with
  | nil =>
    obtain rfl : s.elapse 1 = t := Host.Outcome.next.inj ((step_of_empty hq).symm.trans h)
    exact ⟨(elapse_pending s 1).trans hq, elapse_fuse s 1⟩
  | cons c rest => exact commandsKeepQueueAndFuses c (s.popQueue rest) t ((step_of_front hq).symm.trans h)

/-- What waits behind the front of a good queue is good. -/
theorem queueOk_of_tail {s t : State} (hs : s.queueOk = true) (ht : t.pending = s.pending.tail) : t.queueOk = true := by
  unfold State.queueOk at hs ⊢
  rw [List.all_eq_true] at hs ⊢
  intro c hc
  exact hs c (List.mem_of_mem_tail (ht ▸ hc))

theorem regWord_serial (s : State) (ix b : Nat) : s.regWord ⟨.ID_SERIAL, ix, b⟩ = s.fuse.serial := rfl

/-- Settles O7: the queue loses its front, and the serial number is read from the fuses. -/
theorem queueInvariantKept : Obligations.QueueInvariantKept := by
  intro s t hs h
  obtain ⟨hqueue, hfuse⟩ := step_keeps h
  exact ⟨queueOk_of_tail hs hqueue, hqueue, hfuse, by rw [regWord_serial, regWord_serial, hfuse]⟩

/-- A step of a good queue answers a next state: its front command is well formed. -/
theorem step_of_queueOk {s : State} (hs : s.queueOk = true) : ∃ t, step s = .next t := by
  cases hq : s.pending with
  | nil => exact ⟨_, step_of_empty hq⟩
  | cons c rest =>
    have hc : c.wellFormed = true := by
      unfold State.queueOk at hs
      rw [hq, List.all_cons, Bool.and_eq_true] at hs
      exact hs.1
    rw [step_of_front hq]
    exact exec_next_of_wellFormed _ hc

/-- A run goes on from the state that its first step answers. -/
theorem run_succ_of_step {M : Host.Core} {s t : M.State} (n : Nat) (h : M.step s = .next t) : M.run (n + 1) s = M.run n t := by
  simp only [Host.Core.run, h]

/-- Settles O8, by induction on the number of steps: each answers a next state and keeps the invariant of O7. -/
theorem goodQueueRunsToItsEnd : Obligations.GoodQueueRunsToItsEnd := by
  intro n
  induction n with
  | zero => exact fun s hs => ⟨s, rfl, rfl, rfl, hs⟩
  | succ n ih =>
    intro s hs
    obtain ⟨t, ht⟩ := step_of_queueOk hs
    obtain ⟨hgood, hqueue, hfuse, -⟩ := queueInvariantKept s t hs ht
    obtain ⟨u, hu, hrest, hkept, hok⟩ := ih t hgood
    exact ⟨u, (run_succ_of_step n ht).trans hu, by rw [hrest, hqueue, List.drop_tail], hkept.trans hfuse, hok⟩

/-! ## The state after reset -/

/-- Settles O3: no register field and no part of the state is listed, so each reads as its reset value. -/
theorem resetState : Obligations.ResetState :=
  ⟨rfl, fun _ _ => rfl, rfl, rfl, fun _ => ⟨rfl, rfl⟩, rfl, rfl, rfl, rfl, rfl, rfl, rfl, rfl, rfl, rfl, rfl⟩

/-- Settles O4. -/
theorem queueInvariantAtReset : Obligations.QueueInvariantAtReset := ⟨rfl, rfl⟩

end Sys2Proof.Machine
end

-- Proofs of the statements about places and fields of control space.
section
/-!
SUPPORT. Control space (R5 to R9, R309, R310): where a register lies, what reserved space does, and which fields a write of fields leaves.
-/

namespace Sys2Proof.Machine

open Sys2Proof

/-! ## Places (Table 12-2) -/

/-- No offset of a register (i, 0) of `p` is one of `q`: they lie in blocks of other kinds, or one ends before the other begins, or both have
one stride and `q` takes another part of it. -/
def Place.apart (p q : Place) : Bool :=
  decide (0 < q.s1) && decide (0 < q.s2) &&
    (q.blk != p.blk || decide (p.base + p.s1 * p.n1 ≤ q.base) || decide (q.base + q.s1 * (q.n1 - 1) + q.n2 * q.s2 ≤ p.base) ||
      (q.s1 == p.s1 && decide (q.base ≤ p.base) && decide (q.n2 * q.s2 ≤ (p.base - q.base) % p.s1)))

/-- The place `p` stands in the list, and every place before it is apart from it. -/
def Place.firstIn (p : Place) : List Place → Bool
  | [] => false
  | q :: l => q == p || (p.apart q && p.firstIn l)

/-- The place is one of control space, found at its own aligned offsets within a block. -/
def Place.found (p : Place) : Bool :=
  p.firstIn places && decide (0 < p.n2) && decide (p.base % 8 = 0) && decide (p.s1 % 8 = 0) &&
    decide (0 < p.s1) && decide (p.base + p.s1 * p.n1 ≤ 2 ^ 20)

section
variable {p q : Place} {i : Nat} (hi : i < p.n1)
include hi

/-- Instance (i, 0) begins before the place ends. -/
theorem Place.offset_lt (hs1 : 0 < p.s1) : p.base + p.s1 * i < p.base + p.s1 * p.n1 :=
  Nat.add_lt_add_left (Nat.mul_lt_mul_of_pos_left hi hs1) _

theorem hit_eq_none_of_apart (hs1 : 0 < p.s1) (h : p.apart q = true) : q.hit (p.blk == .hub) (p.base + p.s1 * i) = none := by
  have hlt := Place.offset_lt hi hs1
  simp only [Place.apart, Bool.and_eq_true, Bool.or_eq_true, decide_eq_true_eq, bne_iff_ne, beq_iff_eq] at h
  obtain ⟨⟨hq1, hq2⟩, ((hblk | hbefore) | hafter) | ⟨⟨hstride, hle⟩, hpart⟩⟩ := h
  · have hother : ((q.blk == .hub) != (p.blk == .hub)) = true := by
      cases hp : p.blk <;> cases hq : q.blk <;> simp_all
    simp only [Place.hit, hother, Bool.true_or, if_true]
  · have hlow : p.base + p.s1 * i < q.base := by omega
    simp only [Place.hit, hlow, decide_true, Bool.or_true, if_true]
  · have hpast : ((p.base + p.s1 * i - q.base) / q.s1 < q.n1 && (p.base + p.s1 * i - q.base) % q.s1 / q.s2 < q.n2) = false := by
      rw [Bool.and_eq_false_iff, decide_eq_false_iff_not, decide_eq_false_iff_not, or_iff_not_imp_left, not_not, Nat.div_lt_iff_lt_mul hq2]
      intro hrow
      have hle : q.s1 * ((p.base + p.s1 * i - q.base) / q.s1) ≤ q.s1 * (q.n1 - 1) := Nat.mul_le_mul_left _ (Nat.le_sub_one_of_lt hrow)
      have hsum := Nat.div_add_mod (p.base + p.s1 * i - q.base) q.s1
      omega
    simp only [Place.hit, hpast, Bool.false_and, Bool.false_eq_true, if_false, ite_self]
  · have hrest : (p.base + p.s1 * i - q.base) % q.s1 = (p.base - q.base) % p.s1 := by
      rw [hstride, Nat.sub_add_comm hle, Nat.add_mul_mod_self_left]
    have hpast : ¬ (p.base + p.s1 * i - q.base) % q.s1 / q.s2 < q.n2 := by
      rw [hrest, Nat.div_lt_iff_lt_mul hq2]
      omega
    simp only [Place.hit, hpast, decide_false, Bool.and_false, Bool.false_and, Bool.false_eq_true, if_false, ite_self]

theorem hit_self (hs1 : 0 < p.s1) (hn2 : 0 < p.n2) : p.hit (p.blk == .hub) (p.base + p.s1 * i) = some (i, 0) := by
  have hge : ¬ p.base + p.s1 * i < p.base := by omega
  simp only [Place.hit, bne_self_eq_false, hge, decide_false, Bool.or_self, Bool.false_eq_true, if_false, Nat.add_sub_cancel_left,
    Nat.mul_div_cancel_left i hs1, Nat.mul_mod_right, Nat.zero_div, Nat.zero_mod, hi, hn2, decide_true, beq_self_eq_true, Bool.and_self, if_true]

/-- The first place that holds an offset of `p` is `p`. -/
theorem findPlace_of_firstIn {b : Nat} (hs1 : 0 < p.s1) (hn2 : 0 < p.n2) (hblk : decide (16 ≤ b) = (p.blk == .hub))
    {l : List Place} (h : p.firstIn l = true) :
    findPlace b (p.base + p.s1 * i) l = (p.inst b i 0).map fun ix => ⟨p.reg, ix, b⟩ := by
  induction l with
  | nil => cases h
  | cons q l ih =>
    by_cases hq : q = p
    · rw [hq, findPlace, hblk, hit_self hi hs1 hn2]
    · have hrest : p.apart q = true ∧ p.firstIn l = true := by simpa [Place.firstIn, hq] using h
      rw [findPlace, hblk, hit_eq_none_of_apart hi hs1 hrest.1]
      exact ih hrest.2

theorem regAt_of_found {b : Nat} (h : p.found = true) (hblk : decide (16 ≤ b) = (p.blk == .hub)) :
    regAt (b * 0x100000 + (p.base + p.s1 * i)) = (p.inst b i 0).map fun ix => ⟨p.reg, ix, b⟩ := by
  simp only [Place.found, Bool.and_eq_true, decide_eq_true_eq] at h
  obtain ⟨⟨⟨⟨⟨hfirst, hn2⟩, hbase⟩, hstride⟩, hs1⟩, hend⟩ := h
  have hin : p.base + p.s1 * i < 2 ^ 20 := (Place.offset_lt hi hs1).trans_le hend
  have hword : p.s1 * i % 8 = 0 := by rw [Nat.mul_mod, hstride, Nat.zero_mul, Nat.zero_mod]
  have haligned : (b * 0x100000 + (p.base + p.s1 * i)) % 8 = 0 := by omega
  have hblock : blockOf (b * 0x100000 + (p.base + p.s1 * i)) = b := by unfold blockOf; omega
  have hoff : (b * 0x100000 + (p.base + p.s1 * i)) % 2 ^ 20 = p.base + p.s1 * i := by omega
  rw [regAt, if_pos haligned, hblock, hoff, findPlace_of_firstIn hi hs1 hn2 hblk hfirst]

/-- A register found in hub blocks. -/
theorem regAt_hubAt {h ix : Nat} (hp : p.found = true) (hblk : p.blk = .hub) (hix : p.inst (16 + h) i 0 = some ix) :
    regAt (hubAt h (p.base + p.s1 * i)) = some ⟨p.reg, ix, 16 + h⟩ := by
  have hoff : hubAt h (p.base + p.s1 * i) = (16 + h) * 0x100000 + (p.base + p.s1 * i) := by unfold hubAt; omega
  have hhub : decide (16 ≤ 16 + h) = (p.blk == .hub) := by rw [hblk, decide_eq_true (Nat.le_add_right 16 h)]; rfl
  rw [hoff, regAt_of_found hi hp hhub, hix, Option.map_some]

/-- A register found in die blocks. -/
theorem regAt_dieAt {n ix : Nat} (hn : n < 16) (hp : p.found = true) (hblk : p.blk = .die) (hix : p.inst n i 0 = some ix) :
    regAt (dieAt n (p.base + p.s1 * i)) = some ⟨p.reg, ix, n⟩ := by
  have hdie : decide (16 ≤ n) = (p.blk == .hub) := by rw [hblk, decide_eq_false (Nat.not_le.mpr hn)]; rfl
  rw [dieAt, regAt_of_found hi hp hdie, hix, Option.map_some]

end

/-! ## Which register of a place an offset in a block names -/

section
variable {p : Place} {b i ix : Nat}

theorem inst_modl (hscope : p.scope = .modl) (hix : ix = p.ixBase + i * p.n2) : p.inst b i 0 = some ix := by
  simp only [Place.inst, hscope, hix, Nat.add_zero]

theorem inst_die (hscope : p.scope = .die) (hix : ix = p.ixBase + b * (p.n1 * p.n2) + i * p.n2) : p.inst b i 0 = some ix := by
  simp only [Place.inst, hscope, hix, Nat.add_zero]

theorem inst_hub {h : Nat} (hscope : p.scope = .hub) (hix : ix = p.ixBase + h * (p.n1 * p.n2) + i * p.n2) : p.inst (16 + h) i 0 = some ix := by
  simp only [Place.inst, hscope, hix, Nat.add_zero, Nat.add_sub_cancel_left]

theorem inst_pcie {k : Nat} (hk : k < 2) (hscope : p.scope = .pcie) (hix : ix = p.ixBase + k * (p.n1 * p.n2) + i * p.n2) :
    p.inst (16 + k) i 0 = some ix := by
  simp only [Place.inst, hscope, hix, Nat.add_zero, Nat.add_sub_cancel_left, hk, if_true]

end

/-- Settles O9: each place is the first of the list that holds its offsets, and its instances are numbered from its own. -/
theorem registerPlaces : Obligations.RegisterPlaces := by
  refine ⟨?ring, ?time, ?part, ?faultQueue, ?stack, ?service, ?peer, ?check, ?corox, ?tilus⟩
  case ring =>
    intro h _ r hr
    exact regAt_hubAt (p := ⟨.RING_CTRL, .hub, .modl, 0x4000, 0x40, 256, 8, 1, 0⟩) hr (by decide +kernel) rfl
      (inst_modl rfl (by dsimp only; omega))
  case time =>
    intro h _
    refine ⟨regAt_hubAt (p := ⟨.TIME_CTRL, .hub, .modl, 0x2010, 0x8, 1, 8, 1, 0⟩) Nat.one_pos ?_ rfl (inst_modl rfl rfl),
      regAt_hubAt (p := ⟨.TIME_DEALER_SET, .hub, .modl, 0x2018, 0x8, 1, 8, 1, 0⟩) Nat.one_pos ?_ rfl (inst_modl rfl rfl),
      regAt_hubAt (p := ⟨.TLS_NODE, .hub, .modl, 0xD000, 0x8, 1, 8, 1, 0⟩) Nat.one_pos ?_ rfl (inst_modl rfl rfl)⟩ <;> decide +kernel
  case part =>
    intro h _ p hp
    exact ⟨regAt_hubAt (p := ⟨.MEM_PMAP, .hub, .modl, 0x8000, 0x8, 16, 8, 1, 0⟩) hp (by decide +kernel) rfl
        (inst_modl rfl (by dsimp only; omega)),
      regAt_hubAt (p := ⟨.PWR_IDLE, .hub, .modl, 0xE040, 0x8, 16, 8, 1, 0⟩) hp (by decide +kernel) rfl (inst_modl rfl (by dsimp only; omega))⟩
  case faultQueue =>
    intro h _ q hq
    exact regAt_hubAt (p := ⟨.XL_FQ_CTRL, .hub, .modl, 0x9088, 0x20, 17, 8, 1, 0⟩) hq (by decide +kernel) rfl
      (inst_modl rfl (by dsimp only; omega))
  case stack =>
    intro n hn j hj
    exact ⟨regAt_dieAt (p := ⟨.CLR_CTRL, .die, .die, 0x6000, 0x40, 2, 8, 1, 0⟩) hj hn (by decide +kernel) rfl
        (inst_die rfl (by dsimp only; omega)),
      regAt_dieAt (p := ⟨.MEM_CTRL, .die, .die, 0x8000, 0x400, 2, 8, 1, 0⟩) hj hn (by decide +kernel) rfl
        (inst_die rfl (by dsimp only; omega))⟩
  case service =>
    intro n hn
    have hix : n = 0 + n * (1 * 1) + 0 * 1 := by omega
    refine ⟨regAt_dieAt (p := ⟨.XL_SVC_CTRL, .die, .die, 0x9008, 0x8, 1, 8, 1, 0⟩) Nat.one_pos hn ?_ rfl (inst_die rfl hix),
      regAt_dieAt (p := ⟨.XL_SVC_CONS, .die, .die, 0x9018, 0x8, 1, 8, 1, 0⟩) Nat.one_pos hn ?_ rfl (inst_die rfl hix),
      regAt_dieAt (p := ⟨.XL_SVC_REPLY, .die, .die, 0x9020, 0x8, 1, 8, 1, 0⟩) Nat.one_pos hn ?_ rfl (inst_die rfl hix)⟩ <;> decide +kernel
  case peer =>
    intro k hk i hi
    exact regAt_hubAt (p := ⟨.PCI_PEER, .hub, .pcie, 0xA100, 0x20, 16, 8, 1, 0⟩) hi (by decide +kernel) rfl
      (inst_pcie hk rfl (by dsimp only; omega))
  case check =>
    intro h _ u hu
    exact ⟨regAt_hubAt (p := ⟨.CHK_CTRL, .hub, .hub, 0xB028, 0x40, 8, 8, 1, 0⟩) hu (by decide +kernel) rfl
        (inst_hub rfl (by dsimp only; omega)),
      regAt_hubAt (p := ⟨.CRX_CTRL, .hub, .hub, 0xC000, 0x40, 8, 8, 1, 144⟩) hu (by decide +kernel) rfl
        (inst_hub rfl (by dsimp only; omega))⟩
  case corox =>
    intro n hn m hm
    exact regAt_dieAt (p := ⟨.CRX_CTRL, .die, .die, 0xC000, 0x40, 9, 8, 1, 0⟩) hm hn (by decide +kernel) rfl
      (inst_die rfl (by dsimp only; omega))
  case tilus =>
    intro p _
    have hport : p % 4 < 4 := Nat.mod_lt p (by decide)
    exact regAt_hubAt (p := ⟨.TLS_PCTRL, .hub, .hub, 0xD100, 0x40, 4, 8, 1, 0⟩) hport (by decide +kernel) rfl
      (inst_hub rfl (by dsimp only; omega))

/-! ## Reserved space and absent blocks (R310) -/

/-- A read of a word that reads zero is zero, whole or half. -/
theorem readCtl_of_zero {s : State} {off : Nat} (who : Who) (size : Nat) (h : s.blockWord (off / 8 * 8) = 0) : s.readCtl who off size = 0 := by
  have hhalf : ∀ lo w, bitsOf 0 lo w = 0 := fun lo w => by rw [bitsOf, Nat.zero_div, Nat.zero_mod]
  simp only [State.readCtl, h, hhalf, ite_self]

theorem blockOf_aligned (off : Nat) : blockOf (off / 8 * 8) = blockOf off := by unfold blockOf; omega

theorem blockWord_of_absent {s : State} {off : Nat} (h : s.blockHere (blockOf off) = false) : s.blockWord off = 0 := by
  simp only [State.blockWord, h, Bool.not_false, if_true]

/-- Beside the distance table, a word of no register reads zero. -/
theorem blockWord_of_reserved {s : State} {off : Nat} (hreg : regAt off = none) (hdist : off % 2 ^ 20 < 0x800 ∨ 0x1200 ≤ off % 2 ^ 20) :
    s.blockWord off = 0 := by
  have hdies : (decide (0x800 ≤ off % 2 ^ 20) && decide (off % 2 ^ 20 < 0x1000)) = false := by
    rw [Bool.and_eq_false_iff, decide_eq_false_iff_not, decide_eq_false_iff_not]
    omega
  have hhubs : (decide (0x1000 ≤ off % 2 ^ 20) && decide (off % 2 ^ 20 < 0x1200)) = false := by
    rw [Bool.and_eq_false_iff, decide_eq_false_iff_not, decide_eq_false_iff_not]
    omega
  simp only [State.blockWord, hreg, hdies, hhubs, Bool.false_eq_true, if_false, ite_self]

theorem writeCtl_of_absent {s : State} {off : Nat} (who : Who) (size val : Nat) (h : s.blockHere (blockOf off) = false) :
    s.writeCtl who off size val = s := by
  simp only [State.writeCtl, h, Bool.not_false, Bool.or_true, Bool.true_or, if_true]

theorem writeCtl_of_reserved (s : State) {off : Nat} (who : Who) (size val : Nat) (h : regAt (off / 8 * 8) = none) :
    s.writeCtl who off size val = s := by
  simp only [State.writeCtl, h, ite_self]

/-- No block lies past the last hub's. -/
theorem blockHere_of_ge (s : State) {b : Nat} (h : 20 ≤ b) : s.blockHere b = false := by
  have hdie : ¬ b < 16 := by omega
  have hhub : ¬ b < 20 := by omega
  simp only [State.blockHere, hdie, hhub, if_false, decide_false, Bool.false_and]

/-- Settles O56: the word of an absent block, or of no register, is zero, and its write finds nothing to write. -/
theorem reservedSpaceIgnored : Obligations.ReservedSpaceIgnored := by
  intro s who off size v hwho hoff h
  have hrow : exec (.registerWrite who off size v) s = s.becomes (s.writeCtl who off size v.toNat) :=
    run_of (c := .registerWrite who off size v) (by rw [Instr.wellFormed, hwho, decide_eq_true hoff, Bool.and_self]) s _
  obtain habsent | ⟨hreg, hdist⟩ := h
  · exact ⟨readCtl_of_zero who size (blockWord_of_absent (by rw [blockOf_aligned, habsent])),
      by rw [hrow, writeCtl_of_absent who size v.toNat habsent]⟩
  · refine ⟨readCtl_of_zero who size ?_, by rw [hrow, writeCtl_of_reserved s who size v.toNat hreg]⟩
    by_cases hblock : blockOf off < 20
    · have haway := hdist hblock
      exact blockWord_of_reserved hreg (by omega)
    · exact blockWord_of_absent (by rw [blockOf_aligned, blockHere_of_ge s (Nat.not_lt.mp hblock)])

/-! ## Fields of a write (R6, R8) -/

/-- The write of an RW field of one value. -/
theorem putF_rw (s : State) (w : Wr) (ix : Nat) {x : Fld} (hacc : x.info.acc = .rw) (hreps : x.info.reps = 1) :
    s.putF w ix x = s.setF x ix (s.newF w x ix) := by
  simp only [State.putF, hacc, hreps, List.range_one, List.foldl_cons, List.foldl_nil, Nat.mul_one, Nat.add_zero]

/-- What an RW field of one value holds after a write of it. -/
theorem newF_one (s : State) (w : Wr) (ix : Nat) {x : Fld} (hreps : x.info.reps = 1) :
    s.newF w x ix = if reservedCode x (andNot (s.f x ix) (w.bits x) + (w.fld x &&& w.bits x)) then s.f x ix
      else andNot (s.f x ix) (w.bits x) + (w.fld x &&& w.bits x) := by
  simp only [State.newF, hreps, Nat.mul_one, Nat.add_zero]

theorem newF_congr {s t : State} (w : Wr) {x : Fld} {ix : Nat} (hreps : x.info.reps = 1) (h : t.f x ix = s.f x ix) :
    t.newF w x ix = s.newF w x ix := by
  rw [newF_one t w ix hreps, newF_one s w ix hreps, h]

section
variable {w : Wr} {ix : Nat} (hix : ix < 2 ^ 20)
include hix

/-- A field outside the list, or the same field of another index, reads as before. -/
theorem f_putFs_of_not_written {fs : List Fld} (hfs : ∀ y ∈ fs, y.info.acc = .rw ∧ y.info.reps = 1) (s : State) {y : Fld} {j : Nat}
    (hj : j < 2 ^ 20) (h : y ∉ fs ∨ j ≠ ix) : (s.putFs w ix fs).f y j = s.f y j := by
  induction fs generalizing s with
  | nil => rfl
  | cons x fs ih =>
    obtain ⟨hacc, hreps⟩ := hfs x List.mem_cons_self
    have hrest : y ∉ fs ∨ j ≠ ix := h.imp_left fun hy hmem => hy (List.mem_cons_of_mem x hmem)
    have hother : y ≠ x ∨ j ≠ ix := h.imp_left fun hy heq => hy (heq ▸ List.mem_cons_self)
    calc ((s.putF w ix x).putFs w ix fs).f y j = (s.putF w ix x).f y j := ih (fun z hz => hfs z (List.mem_cons_of_mem x hz)) _ hrest
      _ = s.f y j := by rw [putF_rw s w ix hacc hreps, State.f_setF_ne s _ hix hj hother]

/-- A field of the list reads the low bits of what its write makes of it: the other fields are written beside it. -/
theorem f_putFs_of_mem {fs : List Fld} (hfs : ∀ y ∈ fs, y.info.acc = .rw ∧ y.info.reps = 1) (hnodup : fs.Nodup) (s : State) {x : Fld}
    (hx : x ∈ fs) : (s.putFs w ix fs).f x ix = s.newF w x ix % 2 ^ x.info.width := by
  induction fs generalizing s with
  | nil => cases hx
  | cons y fs ih =>
    obtain ⟨hacc, hreps⟩ := hfs y List.mem_cons_self
    obtain ⟨hnew, hnodup'⟩ := List.nodup_cons.mp hnodup
    have hfs' : ∀ z ∈ fs, z.info.acc = .rw ∧ z.info.reps = 1 := fun z hz => hfs z (List.mem_cons_of_mem y hz)
    have hput := putF_rw s w ix hacc hreps
    obtain rfl | hmem := List.mem_cons.mp hx
    · exact (f_putFs_of_not_written hix hfs' (s.putF w ix x) hix (.inl hnew)).trans
        (by rw [hput, State.f_setF_same])
    · have hne : x ≠ y := fun hxy => hnew (hxy ▸ hmem)
      have hsame : (s.putF w ix y).f x ix = s.f x ix := by rw [hput, State.f_setF_ne s _ hix hix (.inl hne)]
      exact (ih hfs' hnodup' _ hmem).trans (by rw [newF_congr w (hfs' x hmem).2 hsame])

end

/-- Settles O12: a field is written from its own old value, and one whose new code is reserved is written with that value again. -/
theorem reservedEncodingLeavesField : Obligations.ReservedEncodingLeavesField := by
  intro s w ix fs hix hnodup hfs hwidth
  refine ⟨fun x hx => ?_, fun y j hj h => f_putFs_of_not_written hix hfs s hj h⟩
  rw [f_putFs_of_mem hix hfs hnodup s hx, newF_one s w ix (hfs x hx).2]
  split
  · exact Nat.mod_eq_of_lt (hwidth x ix)
  · rfl

end Sys2Proof.Machine
end

-- Proofs of the statements about the management and test ports.
section
/-!
SUPPORT. The I3C management port and the test access ports (R476 to R478): the effect of each row, and what none of them changes.
-/

namespace Sys2Proof.Machine

open Sys2Proof

/-! ## What the rows of the ports leave alone -/

/-- `k` is `s` but for the ports' own state and the count of free values, and without auxiliary power it is `s`. -/
structure PortsOnly (s k : State) : Prop where
  eq : k = { s with mgmt := k.mgmt, free := k.free }
  off : s.rst.vaux = false → k = s

theorem PortsOnly.refl (s : State) : PortsOnly s s := ⟨rfl, fun _ => rfl⟩

theorem PortsOnly.of_powered {s : State} (hon : s.rst.vaux = true) (m : Mgmt) (n : Nat) : PortsOnly s { s with mgmt := m, free := n } :=
  ⟨rfl, fun hoff => absurd (hon.symm.trans hoff) Bool.noConfusion⟩

theorem powered_of_onChain {s : State} {d : TapDev} (h : s.onChain d = true) : s.rst.vaux = true :=
  (Bool.and_eq_true_iff.mp h).1

theorem portsOnly_effRead64 (off : Nat) (s : State) : PortsOnly s (effRead64 off s) := by
  unfold effRead64
  split
  · next hon => exact .of_powered hon _ s.free
  · exact .refl s

theorem portsOnly_effEntdaa (a : Nat) (s : State) : PortsOnly s (effEntdaa a s) := by
  unfold effEntdaa
  split
  · next hgo => exact .of_powered (Bool.and_eq_true_iff.mp hgo).1 _ s.free
  · exact .refl s

theorem portsOnly_effSetdasa (sa a : Nat) (s : State) : PortsOnly s (effSetdasa sa a s) := by
  unfold effSetdasa
  split
  · next hgo => exact .of_powered (Bool.and_eq_true_iff.mp (Bool.and_eq_true_iff.mp hgo).1).1 _ s.free
  · exact .refl s

section
variable (d : TapDev) (s : State)

theorem portsOnly_effBypass : PortsOnly s (effBypass d s) := by
  unfold effBypass
  split
  · next hon => exact .of_powered (powered_of_onChain hon) _ s.free
  · exact .refl s

theorem portsOnly_effIdcode : PortsOnly s (effIdcode d s) := by
  unfold effIdcode
  split
  · next hon => exact .of_powered (powered_of_onChain hon) _ s.free
  · exact .refl s

theorem portsOnly_effSamplePreload (l : Option (List Bool)) : PortsOnly s (effSamplePreload d l s) := by
  cases hon : s.onChain d with
  | false => simpa only [effSamplePreload, hon, Bool.not_false, if_true] using PortsOnly.refl s
  | true =>
    have hpower := powered_of_onChain hon
    simp only [effSamplePreload, hon, Bool.not_true, Bool.false_eq_true, if_false]
    cases l with
    | none => exact .of_powered hpower _ (s.free + 1)
    | some b => exact .of_powered hpower _ (s.free + 1)

theorem portsOnly_effExtest : PortsOnly s (effExtest d s) := by
  cases hon : s.onChain d with
  | false => simpa only [effExtest, hon, Bool.not_false, if_true] using PortsOnly.refl s
  | true =>
    have hpower := powered_of_onChain hon
    simp only [effExtest, hon, Bool.not_true, Bool.false_eq_true, if_false]
    split
    · exact .of_powered hpower _ (s.free + 1)
    · exact .of_powered hpower _ s.free

theorem portsOnly_effClamp : PortsOnly s (effClamp d s) := by
  cases hon : s.onChain d with
  | false => simpa only [effClamp, hon, Bool.not_false, if_true] using PortsOnly.refl s
  | true =>
    have hpower := powered_of_onChain hon
    simp only [effClamp, hon, Bool.not_true, Bool.false_eq_true, if_false]
    split
    · exact .of_powered hpower _ s.free
    · exact .of_powered hpower _ s.free

end

/-- The next state of a row is its effect, with the queue and the fuses of before. -/
theorem eq_kept_of_runIf {ok : Bool} {s k t : State} (h : runIf ok s k = .next t) : t = s.kept k := by
  cases ok with
  | false => cases h
  | true => exact (Host.Outcome.next.inj h).symm

/-- Every row of the ports but GETSTATUS. -/
theorem portsOnly_of_row {s t : State} {c : Instr} (hc : (∃ off, c = .read64 off) ∨ (∃ d, c = .bypass d) ∨ (∃ d, c = .idcode d) ∨
    (∃ d l, c = .samplePreload d l) ∨ (∃ d, c = .extest d) ∨ (∃ d, c = .clamp d) ∨ (∃ a, c = .entdaa a) ∨ (∃ d a, c = .setdasa d a))
    (h : exec c s = .next t) : PortsOnly s t := by
  have hrow : ∃ k, t = s.kept k ∧ PortsOnly s k := by
    obtain ⟨off, rfl⟩ | ⟨d, rfl⟩ | ⟨d, rfl⟩ | ⟨d, l, rfl⟩ | ⟨d, rfl⟩ | ⟨d, rfl⟩ | ⟨a, rfl⟩ | ⟨sa, a, rfl⟩ := hc
    · exact ⟨_, eq_kept_of_runIf h, portsOnly_effRead64 off s⟩
    · exact ⟨_, eq_kept_of_runIf h, portsOnly_effBypass d s⟩
    · exact ⟨_, eq_kept_of_runIf h, portsOnly_effIdcode d s⟩
    · exact ⟨_, eq_kept_of_runIf h, portsOnly_effSamplePreload d s l⟩
    · exact ⟨_, eq_kept_of_runIf h, portsOnly_effExtest d s⟩
    · exact ⟨_, eq_kept_of_runIf h, portsOnly_effClamp d s⟩
    · exact ⟨_, eq_kept_of_runIf h, portsOnly_effEntdaa a s⟩
    · exact ⟨_, eq_kept_of_runIf h, portsOnly_effSetdasa sa a s⟩
  obtain ⟨k, rfl, heq, hoff⟩ := hrow
  refine ⟨?_, fun h0 => by rw [hoff h0]; rfl⟩
  rw [heq]
  rfl

/-- GETSTATUS clears the note of a lost REFCLK. -/
theorem eq_of_getstatus {s t : State} (h : exec .getstatus s = .next t) :
    (s.rst.vaux = false → t = s) ∧ ∃ m b, t = { s with mgmt := m, rst := { s.rst with refclkLost := b } } := by
  obtain rfl := eq_kept_of_runIf (ok := true) (k := effGetstatus s) h
  cases hon : s.rst.vaux with
  | false =>
    have heff : effGetstatus s = s := by simp only [effGetstatus, hon, Bool.not_false, if_true]
    rw [heff]
    exact ⟨fun _ => rfl, s.mgmt, s.rst.refclkLost, rfl⟩
  | true =>
    refine ⟨Bool.noConfusion, ?_⟩
    simp only [effGetstatus, hon, Bool.not_true, Bool.false_eq_true, if_false]
    exact ⟨_, false, rfl⟩

/-- Settles O60: GETSTATUS writes the ports' state and one note of the reset state, every other row the ports' state alone. -/
theorem managementPortsWriteNothing : Obligations.ManagementPortsWriteNothing := by
  intro s t c hc h
  by_cases hget : c = .getstatus
  · subst hget
    obtain ⟨hoff, m, b, heq⟩ := eq_of_getstatus h
    refine ⟨?_, ?_, ?_, ?_, ?_, ?_, ?_, ?_, ?_, ?_, ?_, fun hne => absurd rfl hne, ?_, hoff⟩ <;> rw [heq]
  · have hother : (∃ off, c = .read64 off) ∨ (∃ d, c = .bypass d) ∨ (∃ d, c = .idcode d) ∨ (∃ d l, c = .samplePreload d l) ∨
        (∃ d, c = .extest d) ∨ (∃ d, c = .clamp d) ∨ (∃ a, c = .entdaa a) ∨ (∃ d a, c = .setdasa d a) :=
      hc.imp_right fun hrest => hrest.resolve_left hget
    obtain ⟨heq, hoff⟩ := portsOnly_of_row hother h
    refine ⟨?_, ?_, ?_, ?_, ?_, ?_, ?_, ?_, ?_, ?_, ?_, fun _ => ?_, ?_, hoff⟩ <;> rw [heq]

/-! ## What each row does -/

section
variable {s : State}

theorem effGetstatus_of_powered (hon : s.rst.vaux = true) : effGetstatus s =
    { s.setMgmt { s.mgmt with status := b2n s.rst.refclkLost * 2 ^ 6 + b2n s.rst.coolAt.isSome * 2 ^ 7 } with
      rst := { s.rst with refclkLost := false } } := by
  simp only [effGetstatus, hon, Bool.not_true, Bool.false_eq_true, if_false]

theorem effEntdaa_of_unaddressed (addr : Nat) (hon : s.rst.vaux = true) (hnone : s.mgmt.addr = none) :
    effEntdaa addr s = s.setMgmt { s.mgmt with addr := some addr, pid := some (s.fuse.serial % 2 ^ 32) } := by
  simp only [effEntdaa, hon, hnone, Option.isNone_none, Bool.and_self, if_true]

theorem effSetdasa_of_unaddressed (addr sa : Nat) (hon : s.rst.vaux = true) (hnone : s.mgmt.addr = none) :
    effSetdasa sa addr s = if sa = 0x3A then s.setMgmt { s.mgmt with addr := some addr } else s := by
  simp only [effSetdasa, hon, hnone, i3cStatic, Option.isNone_none, Bool.and_self, Bool.true_and, beq_iff_eq]

theorem effEntdaa_of_addressed (addr : Nat) {a : Nat} (hsome : s.mgmt.addr = some a) : effEntdaa addr s = s := by
  simp only [effEntdaa, hsome, Option.isNone_some, Bool.and_false, Bool.false_eq_true, if_false]

theorem effSetdasa_of_addressed (sa addr : Nat) {a : Nat} (hsome : s.mgmt.addr = some a) : effSetdasa sa addr s = s := by
  simp only [effSetdasa, hsome, Option.isNone_some, Bool.and_false, Bool.false_and, Bool.false_eq_true, if_false]

end

section
variable {s : State} {d : TapDev} (hon : s.onChain d = true)
include hon

/-- SAMPLE/PRELOAD selects the boundary register, whose cells it preloads and which captures the levels of the pins. -/
theorem effSamplePreload_of_onChain (l : Option (List Bool)) :
    ∃ v m, effSamplePreload d l s = { s with free := s.free + 1, mgmt := m } ∧ m.ir = s.mgmt.ir.fput (tapIx d) 2 1 ∧
      m.shifted = s.mgmt.shifted.fput (tapIx d) v 0 ∧
      m.boundary = l.elim s.mgmt.boundary fun b => s.mgmt.boundary.fput (tapIx d) b [] := by
  simp only [effSamplePreload, hon, Bool.not_true, Bool.false_eq_true, if_false]
  cases l with
  | none => exact ⟨_, _, rfl, rfl, rfl, rfl⟩
  | some b => exact ⟨_, _, rfl, rfl, rfl, rfl⟩

theorem effExtest_of_early (hearly : s.f .RST_STATUS_PHASE < 2) :
    effExtest d s = (s.sample d).2.tapIr d 3 (s.sample d).1 := by
  simp only [effExtest, hon, hearly, Bool.not_true, Bool.false_eq_true, if_false, if_true]

theorem effClamp_of_early (hearly : s.f .RST_STATUS_PHASE < 2) : effClamp d s = s.tapIr d 4 0 := by
  simp only [effClamp, hon, hearly, Bool.not_true, Bool.false_eq_true, if_false, if_true]

theorem effExtest_of_late (hlate : 2 ≤ s.f .RST_STATUS_PHASE) : effExtest d s = effBypass d s := by
  simp only [effExtest, effBypass, hon, Nat.not_lt.mpr hlate, Bool.not_true, Bool.false_eq_true, if_false, if_true]

theorem effClamp_of_late (hlate : 2 ≤ s.f .RST_STATUS_PHASE) : effClamp d s = effBypass d s := by
  simp only [effClamp, effBypass, hon, Nat.not_lt.mpr hlate, Bool.not_true, Bool.false_eq_true, if_false, if_true]

end

/-- The instruction that a state holds for a device. -/
theorem irOf_eq {s : State} {d : TapDev} {m : FMap Nat} {i : Nat} (h : s.mgmt.ir = m.fput (tapIx d) i 1) : s.irOf d = i := by
  rw [State.irOf, h, FMap.fget_fput_self]

/-- Boundary scan drives the pins under EXTEST (3) and CLAMP (4) in AUX and COOL. -/
theorem pinsDriven_of_selected {s : State} {d : TapDev} (hearly : s.f .RST_STATUS_PHASE < 2) (h : s.irOf d = 3 ∨ s.irOf d = 4) :
    s.pinsDriven d = some (s.cells d) := by
  have hgo : (decide (s.f .RST_STATUS_PHASE < 2) && (s.irOf d == 3 || s.irOf d == 4)) = true := by
    rw [Bool.and_eq_true_iff, decide_eq_true_eq, Bool.or_eq_true, beq_iff_eq, beq_iff_eq]
    exact ⟨hearly, h⟩
  rw [State.pinsDriven, hgo, if_pos rfl]

theorem pinsDriven_of_sampling {s : State} {d : TapDev} (h : s.irOf d = 2) : s.pinsDriven d = none := by
  rw [State.pinsDriven, h]
  exact if_neg (by simp)

/-- Settles O45: with auxiliary power each row is its own write of the ports' state. -/
theorem managementPortsRun : Obligations.ManagementPortsRun := by
  refine ⟨?read, ?status, ?address, ?addressed, ?select, ?sample, ?drive, ?late⟩
  case read =>
    intro off s hoff hon
    exact ⟨exec_eq_becomes (decide_eq_true hoff) rfl (if_pos hon), fun hready => if_pos hready⟩
  case status =>
    intro s hon
    refine ⟨_, (exec_eq_becomes rfl rfl (effGetstatus_of_powered hon)).trans (becomes_eq_next s _), ?_, rfl, rfl, rfl⟩
    change b2n s.rst.refclkLost * 2 ^ 6 + b2n s.rst.coolAt.isSome * 2 ^ 7 = _
    cases s.rst.refclkLost <;> cases s.rst.coolAt.isSome <;> rfl
  case address =>
    intro addr s haddr hon hnone
    have hset : ∀ sa < 128, (decide (sa < 128) && decide (addr < 128)) = true := fun sa hsa => by
      rw [decide_eq_true hsa, decide_eq_true haddr, Bool.and_self]
    refine ⟨exec_eq_becomes (decide_eq_true haddr) rfl (effEntdaa_of_unaddressed addr hon hnone),
      exec_eq_becomes (hset 0x3A (by decide)) rfl ((effSetdasa_of_unaddressed addr 0x3A hon hnone).trans (if_pos rfl)), fun sa hsa hne =>
      exec_eq_becomes (hset sa hsa) rfl ((effSetdasa_of_unaddressed addr sa hon hnone).trans (if_neg hne))⟩
  case addressed =>
    intro addr a sa s haddr hsa hsome
    have hset : (decide (sa < 128) && decide (addr < 128)) = true := by rw [decide_eq_true hsa, decide_eq_true haddr, Bool.and_self]
    exact ⟨exec_eq_becomes (decide_eq_true haddr) rfl (effEntdaa_of_addressed addr hsome),
      exec_eq_becomes hset rfl (effSetdasa_of_addressed sa addr hsome)⟩
  case select =>
    intro d s hd hon
    refine ⟨exec_eq_becomes hd rfl (if_pos hon), exec_eq_becomes hd rfl ((if_pos hon).trans ?_)⟩
    cases d <;> rfl
  case sample =>
    intro d l s hd hon
    obtain ⟨v, m, heff, hir, hshifted, hboundary⟩ := effSamplePreload_of_onChain hon l
    exact ⟨_, v, (exec_eq_becomes (c := .samplePreload d l) hd rfl heff).trans (becomes_eq_next s _), hir, hshifted, hboundary.trans (by cases l <;> rfl), rfl, rfl,
      pinsDriven_of_sampling (irOf_eq (s := s.kept { s with free := s.free + 1, mgmt := m }) hir)⟩
  case drive =>
    intro d s hd hon hearly
    exact ⟨⟨_, (exec_eq_becomes (c := .extest d) hd rfl (effExtest_of_early hon hearly)).trans (becomes_eq_next s _), rfl,
        pinsDriven_of_selected hearly (.inl (irOf_eq rfl)), rfl⟩,
      ⟨_, (exec_eq_becomes (c := .clamp d) hd rfl (effClamp_of_early hon hearly)).trans (becomes_eq_next s _), rfl,
        pinsDriven_of_selected hearly (.inr (irOf_eq rfl)), rfl⟩⟩
  case late =>
    intro d s hd hon hlate
    exact ⟨congrArg (runIf d.ok s) (effExtest_of_late hon hlate), congrArg (runIf d.ok s) (effClamp_of_late hon hlate)⟩

end Sys2Proof.Machine
end

-- Proofs of the statements about results, counters and performance states.
section
/-!
SUPPORT. The end of a command (R428), counter reads and die counters (R455 to R458), and the state to which a die moves (R386 to R388).
-/

namespace Sys2Proof.Machine

open Sys2Proof

/-! ## The end of a command -/

/-- The result an entry ends with: a DONE of a re-execution becomes REPLAYED. -/
theorem Entry.finalResult_eq (e : Entry) (x : Result) :
    e.finalResult x = if e.retried = true ∧ x.status = stDONE then { x with status := stREPLAYED } else x := by
  simp only [Entry.finalResult, Bool.and_eq_true, beq_iff_eq]

theorem Entry.ended_of_result (x : Result) {e : Entry} {y : Result} (hres : e.res = some y) : e.ended x = e := if_pos (by rw [hres]; rfl)

/-- A position without an entry gets none. -/
theorem entry?_finish_none {s : State} {r pos : Nat} (x : Result) (he : s.entry? r pos = none) : (s.finish r pos x).entry? r pos = none := by
  rw [finish_eq_modEntry, entry?_modEntry _ r pos _ (Entry.ended_pos x), entry?_keepStall, he, Option.map_none]

theorem stall_none_of_all {o : Option Entry} (h : o.all (fun e => e.stall.isNone) = true) : o.bind (·.stall) = none := by
  cases o with
  | none => rfl
  | some e => exact Option.isNone_iff_eq_none.mp h

/-- Settles O15: the end of a command changes its own entry, and there only an entry without a result. -/
theorem finalResultGivenOnce : Obligations.FinalResultGivenOnce := by
  intro s r pos x y
  refine ⟨fun e he hres => ⟨e.ended x, entry?_finish he x, ?_⟩, fun e he hres => ?_, fun p hp => entry?_finish_ne s r x hp,
    fun q hq => ring_finish_ne s pos x hq, entry?_finish_none x, fun hnone => finish_regs (stall_none_of_all hnone) x, finish_mem s r pos x⟩
  · rw [Entry.ended_of_open x hres]
    exact ⟨congrArg some (e.finalResult_eq x), rfl, rfl⟩
  · rw [entry?_finish he x, Entry.ended_of_result x hres]

/-! ## The counter-read instruction (R458) -/

theorem sget_sput_same (x : Group) (n v : Nat) : (x.sput n v).sget n = v % 2 ^ 64 := FMap.fget_fput_self _ _ _ _

/-- A counter read whose MOD names no counter of the unit faults. -/
theorem effCounterRead_of_high {s t : State} {g : Nat} {w : IWord} (hmod : 4 ≤ w.mod) (h : s.issued g 11 none w (fun _ _ => true) = some t) :
    effCounterRead g w s = t.kfault g kfILLEGAL := by
  have hbad : syncOk 2 w = false := by
    have hhigh : ¬ w.mod < 2 ^ 2 := by omega
    simp only [syncOk, modOk, hhigh, decide_false, Bool.and_false]
  have hrow : effCounterRead g w s = s.issueOk g 11 none w (fun _ _ => true) fun u => u.kfault g kfILLEGAL := by
    simp only [effCounterRead, State.issueOk, hbad, Bool.false_and, Bool.false_eq_true, if_false, if_true]
  rw [hrow, issueOk_of_issued _ h]

/-- Settles O49: the instruction writes s[D] of its group when a lane executes, and the event it counts writes no selection. -/
theorem counterReadTakesOwnUnit : Obligations.CounterReadTakesOwnUnit := by
  refine ⟨?own, ?high⟩
  case own =>
    intro g w s t h
    have hg := group_lt_of_issued h
    have hmod : w.mod < 4 := by
      have haccepts := issued_accepts h
      simp only [syncOk, modOk, Bool.and_eq_true, decide_eq_true_eq] at haccepts
      obtain ⟨⟨-, hmod⟩, -⟩ := haccepts
      exact hmod
    have hexec : exec (.counterRead g w) s = s.becomes (t.writeS g w (t.f .CTR_UVAL_VALUE (4 * unitOf g + w.mod))) :=
      exec_eq_becomes_of_issued h id rfl rfl
    have hframe := kept_retire_frame s t 11 ((if (t.group g).exec w = 0 then t.group g
      else (t.group g).sput w.d (t.f .CTR_UVAL_VALUE (4 * unitOf g + w.mod))).next w) hg rfl
    obtain ⟨-, -, -, -, -, -, -, -, -, -, -, -, hfields⟩ := hframe
    refine ⟨hmod, _, hexec.trans (becomes_eq_next s _), ?_, fun i hi =>
      ⟨hfields _ i hi (by decide) (by decide) (by decide) (by decide), hfields _ i hi (by decide) (by decide) (by decide) (by decide)⟩⟩
    rw [group_kept, State.writeS, group_retire t 11 _ hg]
    split
    · rfl
    · exact sget_sput_same _ _ _
  case high =>
    intro g w s t hmod h
    exact exec_eq_becomes (ok_of_issued h) rfl (effCounterRead_of_high hmod h)

/-! ## One-bit fields that hold no bit

A field holds what is stored for it. Every write stores as many bits as the field has (`State.f_setF_same`), and the model takes a one-bit field
for set when it reads 1 (`State.fb`); the statements speak of every `State`, also of one in which a one-bit field holds 2. -/

/-- After reset, but for a one-bit field of index 0 that holds 2. -/
def heldTwo (x : Fld) : State := { State.reset with regs := [(x.key 0, 2)] }

/-- A die counter whose ENABLE holds 2 does not count an event that its selection names. -/
theorem heldTwo_counts_nothing : (heldTwo .CTR_SEL_ENABLE).f .CTR_SEL_ENABLE 0 = 2 ∧
    selHits ((heldTwo .CTR_SEL_ENABLE).f .CTR_SEL_SEL 0) 0 0 0 = true ∧ (heldTwo .CTR_SEL_ENABLE).f .CTR_VAL_VALUE 0 = 0 ∧
    ((heldTwo .CTR_SEL_ENABLE).evDie 0 0 0 1).f .CTR_VAL_VALUE 0 = 0 := by
  decide +kernel

/-- Refutes O59: a die counter whose ENABLE holds 2 is taken for disabled, though its ENABLE is not 0. -/
theorem not_dieCountersCount : ¬ Obligations.DieCountersCount := by
  intro h
  obtain ⟨henable, hsel, hbefore, hafter⟩ := heldTwo_counts_nothing
  obtain ⟨hcounters, -⟩ := h (heldTwo .CTR_SEL_ENABLE) 0 0 0 1 (by decide) (by decide)
  obtain ⟨hcounts, -⟩ := hcounters 0 (by decide)
  obtain ⟨hvalue, -⟩ := hcounts ⟨fun hzero => absurd (henable.symm.trans hzero) (by decide), hsel⟩
  have hone : (0 : Nat) = (0 + 1) % 2 ^ 64 := hafter.symm.trans (hvalue.trans (by rw [hbefore]))
  exact absurd hone (by decide)

/-- A die whose FORCED holds 2 moves to its requested state. -/
theorem heldTwo_not_forced : (heldTwo .PWR_DIE_FORCED).f .PWR_DIE_FORCED 0 = 2 ∧ (heldTwo .PWR_DIE_FORCED).pTarget 0 = 0 := by
  decide +kernel

/-- Refutes O57: a die whose FORCED holds 2 is taken for not forced, though its FORCED is not 0. -/
theorem not_performanceStateFollowsUnits : ¬ Obligations.PerformanceStateFollowsUnits := by
  rintro ⟨-, htarget, -⟩
  obtain ⟨hforced, hzero⟩ := heldTwo_not_forced
  have hseven := htarget (heldTwo .PWR_DIE_FORCED) 0 (by decide)
  rw [hzero, hforced] at hseven
  exact absurd hseven (by decide)

end Sys2Proof.Machine
end

-- Proofs of the statements about copies and check units.
section
/-!
SUPPORT. Copies, fills and their engines (R319 to R323), and check units (R329 to R333): the effect of each row once its checks have passed.
-/

namespace Sys2Proof.Machine

open Sys2Proof

/-! ## Copies and fills (R319 to R323) -/

section
variable {t : State} {r pos : Nat} {e : Entry} (hmover : (t.movers.any fun m => m.ring == r && m.pos == pos) = false)
  (hqueued : (t.engines.any fun (x : Nat × Engine) => x.2.queue.contains (r, pos)) = false)
include hmover hqueued

/-- A transfer of no bytes ends at once. -/
theorem startXfer_of_empty (hcheck : e.xferCheck = some stDONE) : t.startXfer r pos e = t.doneWith r pos 0 0x3F := by
  simp only [State.startXfer, hmover, hqueued, hcheck, Bool.or_self, Bool.false_eq_true, if_false, if_true]

/-- A transfer whose ends translate joins the queue of the engine picked: `u` has the source's translation, `v` the destination's too. -/
theorem startXfer_of_picked {u v w : State} {src : Option Loc} {l : Loc} {n : Nat} (hcheck : e.xferCheck = none)
    (hw : w = if e.checks then t.chkBegin r pos 0 else t)
    (hsrc : (e.xfer.src = none ∧ src = none ∧ u = w) ∨
      ∃ a m, e.xfer.src = some a ∧ w.cmdXlate (w.cmdCache r) r a 1 = (.ok m, u) ∧ src = some m)
    (hdst : u.cmdXlate (w.cmdCache r) r e.xfer.dst 2 = (.ok l, v)) (hpick : v.pickEngine (v.candidates src l) = some n)
    (hsome : v.candidates src l ≠ []) :
    t.startXfer r pos e = (v.chkHub r pos (if n < 32 then some (n / 8) else none)).setEngine n
      { v.engine n with queue := (v.engine n).queue ++ [(r, pos)] } := by
  subst hw
  obtain ⟨hnone, rfl, rfl⟩ | ⟨a, m, hfrom, hxlate, rfl⟩ := hsrc
  · simp only [State.startXfer, hmover, hqueued, hcheck, hnone, hdst, hpick, hsome, Bool.or_self, Bool.false_eq_true, if_false]
  · simp only [State.startXfer, hmover, hqueued, hcheck, hfrom, hxlate, hdst, hpick, hsome, Bool.or_self, Bool.false_eq_true, if_false]

end

/-- COPY, FILL and COPY_STRIDED are the start of a transfer. -/
theorem exec_xfer_of_begun {c : Nat → Nat → Instr} {r pos o : Nat} {s t k : State} {e : Entry}
    (hc : (c = Instr.copy ∧ o = 0x10) ∨ (c = Instr.fill ∧ o = 0x12) ∨ (c = Instr.copyStrided ∧ o = 0x13))
    (h : s.begun r pos o = some (t, e)) (hstart : t.startXfer r pos e = k) : exec (c r pos) s = s.becomesR k := by
  obtain ⟨rfl, rfl⟩ | ⟨rfl, rfl⟩ | ⟨rfl, rfl⟩ := hc
  · exact exec_eq_becomesR_of_begun h rfl rfl hstart
  · exact exec_eq_becomesR_of_begun h rfl rfl hstart
  · exact exec_eq_becomesR_of_begun h rfl rfl hstart

/-! ## Engines and spans (R320, R324) -/

section
variable {s u : State} {n : Nat} (hu : s.freeEngine n = u) (hworks : u.engineWorks n = true)
include hu hworks

theorem effCopyEngineStart_of_queued {r pos : Nat} {l : List (Nat × Nat)} (hidle : (u.engine n).run = none)
    (hqueue : u.liveQueue n = (r, pos) :: l) :
    effCopyEngineStart n s =
      (let t := u.setEngine n { run := some (r, pos), queue := l }
       let t := if n < 32 then t else t.wakeDie ((n - 32) / 2)
       { t with movers := (t.movers.filter fun m => m.engine != n) ++ [{ ring := r, pos := pos, engine := n }] }) := by
  simp only [effCopyEngineStart, hu, hidle, hworks, hqueue, Option.isSome_none, Bool.not_true, Bool.or_self, Bool.false_eq_true, if_false]

/-- A running transfer that waits for no window moves its next span, and ends when that was the last. -/
theorem effCopySpan_of_running {t : State} {m m' : Mover} {y y' : Entry} (hmover : u.movers.find? (fun m => m.engine == n) = some m)
    (hentry : u.entry? m.ring m.pos = some y) (hactive : y.active = true) (htag : u.tagHeld m.ring m.pos = false) (hfwd : y.fwd = [])
    (hopen : y.remoteOpen = 0) (hmore : m.off < y.xfer.size) (ht : t = u.moveSpan m y.xfer)
    (hmover' : t.movers.find? (fun m => m.engine == n) = some m') (hentry' : t.entry? m.ring m.pos = some y') :
    effCopySpan n s = if y.xfer.size ≤ m'.off && y'.active && y'.remoteOpen == 0 && y'.fwd == [] then t.endXfer m' y' y.xfer else t := by
  have hgo : (!u.engineWorks n || !y.active || u.tagHeld m.ring m.pos) = false := by rw [hworks, hactive, htag]; rfl
  simp only [effCopySpan, hu, hmover, hentry, hgo, hfwd, hopen, Nat.not_le.mpr hmore, ← ht, hmover', hentry', bne_self_eq_false, ne_eq,
    not_true_eq_false, Bool.false_and, Bool.false_eq_true, if_false]

end

/-! ## Binding of check units (R329, R330) -/

/-- The checks of the body of a CHECK_BIND that binds unit `u` to a source of kind `kind`. -/
theorem checkBind_bodyOk {e : Entry} (hu : e.body 24 1 < 32) (hkind : e.body 25 1 < 3) (hzero : e.zero 18 2 = true)
    (hnode : if e.body 25 1 = 2 then bitsOf (e.body 20 4) 20 11 = 0 else e.body 20 4 = 0) (hcrc : e.body 26 1 < 2) (hany : e.body 28 1 < 2)
    (hrest : e.zero 29 35 = true) (hlog : e.body 27 1 = 0 ∨ (4 ≤ e.body 27 1 ∧ e.body 27 1 ≤ 16))
    (haddr : e.body 27 1 = 0 → e.body 0 8 = 0) :
    (decide (32 ≤ e.body 24 1) || bitsOf (e.body 25 1) 2 5 != 0 || e.body 25 1 == 3 || !e.zero 18 2 ||
      (if e.body 25 1 == 2 then bitsOf (e.body 20 4) 20 11 != 0 else e.body 20 4 != 0) || decide (2 ≤ e.body 26 1) ||
      decide (2 ≤ e.body 28 1) || !e.zero 29 35 || (e.body 27 1 != 0 && (decide (e.body 27 1 < 4) || decide (16 < e.body 27 1))) ||
      (e.body 27 1 == 0 && e.body 0 8 != 0)) = false := by
  have hbits : bitsOf (e.body 25 1) 2 5 = 0 := by unfold bitsOf; omega
  have hne : e.body 25 1 ≠ 3 := by omega
  have hplace : (if e.body 25 1 == 2 then bitsOf (e.body 20 4) 20 11 != 0 else e.body 20 4 != 0) = false := by
    by_cases hflow : e.body 25 1 = 2 <;> simpa [hflow] using hnode
  have hring : (e.body 27 1 != 0 && (decide (e.body 27 1 < 4) || decide (16 < e.body 27 1))) = false := by
    simp only [Bool.and_eq_false_iff, Bool.or_eq_false_iff, bne_eq_false_iff_eq, decide_eq_false_iff_not]
    omega
  have hnone : (e.body 27 1 == 0 && e.body 0 8 != 0) = false := by
    simp only [Bool.and_eq_false_iff, beq_eq_false_iff_ne, bne_eq_false_iff_eq]
    omega
  rw [hplace, hring, hnone]
  simp [hbits, hne, hzero, hrest, Nat.not_le.mpr hu, Nat.not_le.mpr hcrc, Nat.not_le.mpr hany]

/-- The unit bound as a CHECK_BIND asks, before its registers are set. -/
def State.bindUnit (t : State) (r : Nat) (e : Entry) : State :=
  let u := e.body 24 1
  let held : Held := ⟨t.ringPart r, t.ringAsid r, e.body 0 8, if t.ringModule r then some (.host (t.ringPort r) (e.body 0 8)) else none⟩
  t.setChk u { loc := held, log2 := e.body 27 1, start := e.body 8 8, anyStart := bitOf (e.body 28 1) 0, node := e.body 20 4 % 2 ^ 20
               anyNode := bitOf (e.body 20 4) 31, asid := t.ringAsid r, since := t.nextKernel
               skip := if e.body 25 1 ≠ 2 then [] else (t.xl.midMsg.filter fun y => y.1 == 256 * t.ringPart r + e.body 16 2).map (·.2) }

/-- The registers of the unit bound: cleared, and naming the source. -/
def State.bindRegs (t : State) (r : Nat) (e : Entry) : State :=
  let u := e.body 24 1
  let v := ((t.resetReg .CHK_BIND u).resetReg .CHK_MSGS u).resetReg .CHK_SEQ u
  let v := (((v.setF .CHK_BIND_BOUND u 1).setF .CHK_BIND_KIND u (e.body 25 1)).setF .CHK_BIND_CRC64 u (e.body 26 1)).setF .CHK_BIND_SOURCE u
    (e.body 16 2)
  if v.ringModule r then v.setF .CHK_BIND_MODULE u 1 else v.setF .CHK_BIND_PART u (v.ringPart r)

section
variable {s t : State} {r pos : Nat} {e : Entry} (h : s.begun r pos 0x28 = some (t, e)) (hu : e.body 24 1 < 32)
include h hu

theorem exec_checkBind_of_release (hrelease : e.body 25 1 = 0x80) (hlow : e.zero 0 24 = true) (hhigh : e.zero 26 38 = true)
    (hbound : t.fb .CHK_BIND_BOUND (e.body 24 1) = true) (hmine : t.chkMine r (e.body 24 1) = true) :
    exec (.checkBind r pos) s = s.becomesR
      ((if (t.chkUnit (e.body 24 1)).quiet then t.unbind (e.body 24 1)
        else t.setChk (e.body 24 1) { t.chkUnit (e.body 24 1) with stopping := true }).doneWith r pos) := by
  have hbit : bitOf (e.body 25 1) 7 = true := by rw [hrelease]; decide
  have hlegal : (decide (32 ≤ e.body 24 1) || e.body 25 1 != 0x80 || !e.zero 0 24 || !e.zero 26 38) = false := by
    simp [hrelease, hlow, hhigh, hu]
  exact exec_eq_becomesR_of_begun h rfl rfl (by
    simp only [hbit, hlegal, Nat.mod_eq_of_lt hu, hbound, hmine, Bool.not_true, Bool.false_eq_true, if_false, if_true])

theorem exec_checkBind_of_bind (hkind : e.body 25 1 < 3) (hzero : e.zero 18 2 = true)
    (hsource : if e.body 25 1 = 2 then bitsOf (e.body 20 4) 20 11 = 0 ∧ t.ringModule r = false ∧ e.body 16 2 < 256 else
      e.body 20 4 = 0 ∧ e.body 16 2 < 256 ∧ t.ringModule (e.body 16 2) = t.ringModule r ∧
        (t.ringModule r = false → t.ringPart (e.body 16 2) = t.ringPart r))
    (hcrc : e.body 26 1 < 2) (hany : e.body 28 1 < 2) (hrest : e.zero 29 35 = true)
    (hlog : e.body 27 1 = 0 ∨ (4 ≤ e.body 27 1 ∧ e.body 27 1 ≤ 16))
    (haddr : e.body 27 1 = 0 → e.body 0 8 = 0)
    (hfree : t.fb .CHK_BIND_BOUND (e.body 24 1) = false) (haligned : e.body 0 8 % 64 = 0) (hhub : t.hubPresent (e.body 24 1 / 8) = true) :
    exec (.checkBind r pos) s = s.becomesR (((t.bindUnit r e).bindRegs r e).doneWith r pos) := by
  have hbit : bitOf (e.body 25 1) 7 = false := Nat.testBit_lt_two_pow (by omega)
  have hmod : e.body 25 1 % 4 = e.body 25 1 := Nat.mod_eq_of_lt (by omega)
  have hlegal := checkBind_bodyOk hu hkind hzero (by split at hsource <;> simp_all) hcrc hany hrest hlog haddr
  have hrights : (e.body 25 1 != 2 && (decide (256 ≤ e.body 16 2) || t.ringModule (e.body 16 2) != t.ringModule r ||
      (!t.ringModule r && t.ringPart (e.body 16 2) != t.ringPart r))) = false := by
    split at hsource
    · next hflow => simp [hflow]
    · obtain ⟨-, hring, hmodule, hpart⟩ := hsource
      cases hm : t.ringModule r <;> simp_all
  have hparam : (t.fb .CHK_BIND_BOUND (e.body 24 1) || (e.body 25 1 == 2 && (t.ringModule r || decide (256 ≤ e.body 16 2))) ||
      e.body 0 8 % 64 != 0 || !t.hubPresent (e.body 24 1 / 8)) = false := by
    split at hsource
    · obtain ⟨-, hmodule, hwindow⟩ := hsource
      simp [hfree, hmodule, haligned, hhub, hwindow]
    · next hflow => simp [hfree, hflow, haligned, hhub]
  have hfirst : (t.fb .CHK_BIND_BOUND (e.body 24 1) && !t.chkMine r (e.body 24 1)) = false := by rw [hfree, Bool.false_and]
  exact exec_eq_becomesR_of_begun h rfl rfl (by
    simp only [hbit, hmod, hlegal, Nat.mod_eq_of_lt hu, hfirst, hrights, hparam, Bool.false_eq_true, if_false]
    simp only [bne_iff_ne]
    rfl)

end

/-! ## The judging of a message (R331) -/

theorem effCheckMessage_of_next {s : State} {h v u k key tag : Nat} {m : ChkMsg} (hu : u = 8 * h + v) (hbound : s.fb .CHK_BIND_BOUND u = true)
    (hworks : s.hubWorks h = true) (hnext : s.nextMsg u = some m) (hkind : s.f .CHK_BIND_KIND u = k) (hkey : m.key = (key, tag)) :
    effCheckMessage h v k key tag s =
      (let l := (s.chkUnit u).msgs
       let t := (s.setChk u { s.chkUnit u with msgs := if k = 2 then l.erase m else l.drop 1 }).judgeMsg u m
       if (t.chkUnit u).stopping && (t.chkUnit u).quiet then t.unbind u else t) := by
  simp only [effCheckMessage, ← hu, hbound, hworks, hnext, hkind, hkey, ne_eq, not_true_eq_false, decide_false, Bool.not_true, Bool.or_self,
    Bool.false_eq_true, if_false]

/-- Events of a hub, like those of a die, write the values and WRAPPED bits of counters alone. -/
theorem countedFrom_evHub (s : State) {h : Nat} (src qual part k : Nat) (hh : h < 4) : CountedFrom s (s.evHub h src qual part k) := by
  unfold State.evHub
  split
  · exact .refl s
  · refine .trans ?_ (.foldl (fun t c hc => ?_) _)
    · unfold State.hubEventEnergy
      split
      · exact countedFrom_unless s _ _
      · exact countedFrom_unless s _ _
    · have hlt := List.mem_range.mp hc
      exact countedFrom_seeCtr t src qual part k (by omega)

theorem CountedFrom.chkUnit {s t : State} (h : CountedFrom s t) (u : Nat) : t.chkUnit u = s.chkUnit u := by rw [h.eq]; rfl

@[simp] theorem chkUnit_setF (s : State) (x : Fld) (i v u : Nat) : (s.setF x i v).chkUnit u = s.chkUnit u := rfl
@[simp] theorem chkUnit_incF (s : State) (x : Fld) (i n u : Nat) : (s.incF x i n).chkUnit u = s.chkUnit u := rfl

theorem chkUnit_satF_if (s : State) (c : Prop) [Decidable c] (x : Fld) (i n u : Nat) :
    (if c then s.satF x i n else s).chkUnit u = s.chkUnit u := by
  split <;> rfl

/-- A whole message of 16 bytes or more is judged: its counter and the CRC of its text are kept, and the unit counts it. -/
theorem judgeMsg_of_whole {s : State} {u : Nat} {m : ChkMsg} (hu : u < 32) (hseen : m.seen = true) (hended : m.ended = some false)
    (hlen : 16 ≤ m.bytes.length) :
    (s.judgeMsg u m).f .CHK_LAST_LAST u = fldB m.bytes (m.bytes.length - 16) 8 % 2 ^ 64 ∧
    (s.judgeMsg u m).f .CHK_CRC_CRC u =
      (if s.fb .CHK_BIND_CRC64 u then crc64 (m.bytes.take (m.bytes.length - 8)) else crc32c (m.bytes.take (m.bytes.length - 8))) % 2 ^ 64 ∧
    ((s.judgeMsg u m).chkUnit u).count = (s.chkUnit u).count + 1 ∧ ((s.judgeMsg u m).chkUnit u).first = false := by
  have hshort : (m.seen && (m.ended == some true || decide (m.bytes.length < 16))) = false := by
    rw [hended, decide_eq_false (Nat.not_lt.mpr hlen)]
    simp
  have hix : u < 2 ^ 20 := by omega
  obtain ⟨t, k, hjudged, hcount, hfirst⟩ : ∃ t k, s.judgeMsg u m = State.evHub ((State.setF t .CHK_LAST_LAST u
        (fldB m.bytes (m.bytes.length - 16) 8)).setF .CHK_CRC_CRC u
        (if s.fb .CHK_BIND_CRC64 u then crc64 (m.bytes.take (m.bytes.length - 8)) else crc32c (m.bytes.take (m.bytes.length - 8))))
        (u / 8) 0x29 (u % 8) 0 k ∧ (t.chkUnit u).count = (s.chkUnit u).count + 1 ∧ (t.chkUnit u).first = false := by
    unfold State.judgeMsg
    extract_lets x msg n short judged text crc bad ctr want free skip rep flags source entry s1 y s2 s3 s4 s5 s6 s7 s8 s9
    have hwhole : judged = true := by
      change (m.seen && !(m.seen && (m.ended == some true || decide (m.bytes.length < 16)))) = true
      rw [hshort, hseen]
      rfl
    have hlast : s9 = (s8.setF .CHK_LAST_LAST u ctr).setF .CHK_CRC_CRC u crc := if_pos hwhole
    have hunit : s8.chkUnit u = { y with count := x.count + 1, first := x.first && !judged } :=
      calc s8.chkUnit u = s5.chkUnit u := chkUnit_satF_if s5 (skip = true) .CHK_SEQ_SKIPS u (ctr - want) u
        _ = _ := State.setChk_chkUnit s1 u _
    refine ⟨s8, b2n (bad || skip || rep), congrArg (fun t => State.evHub t (u / 8) 0x29 (u % 8) 0 (b2n (bad || skip || rep))) hlast, ?_, ?_⟩
    · rw [hunit]
    · rw [hunit, hwhole, Bool.not_true, Bool.and_false]
  have hevent := countedFrom_evHub (State.setF (State.setF t .CHK_LAST_LAST u (fldB m.bytes (m.bytes.length - 16) 8)) .CHK_CRC_CRC u
    (if s.fb .CHK_BIND_CRC64 u then crc64 (m.bytes.take (m.bytes.length - 8)) else crc32c (m.bytes.take (m.bytes.length - 8))))
    0x29 (u % 8) 0 k (show u / 8 < 4 by omega)
  rw [hjudged]
  refine ⟨?_, ?_, ?_, ?_⟩
  · rw [hevent.fields _ u hix (by decide), State.f_setF_ne _ _ hix hix (.inl (by decide))]
    exact State.f_setF_same t _ u _
  · rw [hevent.fields _ u hix (by decide)]
    exact State.f_setF_same _ _ u _
  · rw [hevent.chkUnit, chkUnit_setF, chkUnit_setF, hcount]
  · rw [hevent.chkUnit, chkUnit_setF, chkUnit_setF, hfirst]

/-! ## The statement about copies and check units -/

/-- Settles O17: a transfer whose checks pass is queued, an engine's row moves the command it runs, and a check unit binds or judges. -/
theorem copiesAndCheckUnits : Obligations.CopiesAndCheckUnits := by
  refine ⟨?queued, ?empty, ?start, ?span, ?release, ?bind, ?message, ?judged⟩
  case queued =>
    intro c r pos s t u v e o src l n hc hbegun hmover hqueued hcheck
    dsimp only
    intro hsrc hdst hpick hsome
    refine exec_xfer_of_begun hc hbegun (startXfer_of_picked hmover hqueued hcheck rfl ?_ hdst hpick hsome)
    cases hfrom : e.xfer.src with
    | none =>
      rw [hfrom] at hsrc
      exact .inl ⟨rfl, hsrc⟩
    | some a =>
      rw [hfrom] at hsrc
      obtain ⟨m, hxlate, hm⟩ := hsrc
      exact .inr ⟨a, m, rfl, hxlate, hm⟩
  case empty =>
    intro c r pos s t e o hc hbegun hmover hqueued hcheck
    exact exec_xfer_of_begun hc hbegun (startXfer_of_empty hmover hqueued hcheck)
  case start =>
    intro e s r pos l he hidle hworks hqueue
    exact exec_eq_becomesR (decide_eq_true he) rfl (effCopyEngineStart_of_queued rfl hworks hidle hqueue)
  case span =>
    intro e s t m n y y' he hmover hentry hworks hactive htag hfwd hopen hmore ht hmover' hentry'
    exact exec_eq_becomesR (decide_eq_true he) rfl
      (effCopySpan_of_running rfl hworks hmover hentry hactive htag hfwd hopen hmore ht hmover' hentry')
  case release =>
    intro r pos s t e hbegun hrelease hu hlow hhigh hbound hmine
    exact exec_checkBind_of_release hbegun hu hrelease hlow hhigh hbound hmine
  case bind =>
    intro r pos s t e
    dsimp only
    intro hbegun hu hkind hzero hsource hcrc hany hrest hlog haddr hfree haligned hhub
    exact exec_checkBind_of_bind hbegun hu hkind hzero hsource hcrc hany hrest hlog haddr hfree haligned hhub
  case message =>
    intro h v u k key tag m s hh hv hk hu hbound hworks hnext hkind hkey
    have hwf : (decide (h < 4) && decide (v < 8) && decide (k < 3)) = true := by
      rw [decide_eq_true hh, decide_eq_true hv, decide_eq_true hk]; rfl
    exact exec_eq_becomesR hwf rfl (effCheckMessage_of_next hu hbound hworks hnext hkind hkey)
  case judged =>
    intro u m s hu hseen hended hlen
    exact judgeMsg_of_whole hu hseen hended hlen

end Sys2Proof.Machine
end

-- Proofs of the statements about the PCIe ports.
section
/-!
SUPPORT. The PCIe ports (R309 to R317, R326, R413): inbound requests, configuration, link and function events, completions and peers: the effect
of each row in each case.
-/

namespace Sys2Proof.Machine

open Sys2Proof

/-! ## Inbound requests (R312, R313, R315) -/

section
variable {s t : State} {k rid bar off len : Nat} (ht : s.evHub k 0x22 0 0 len = t) (hserves : s.portServes k = true)
include ht hserves

theorem effInboundRead_of_undecoded (hout : t.memServes k = false ∨ t.barBytes k bar < off + len) :
    effInboundRead k rid bar off len s = t.answerIn k 1 [] := by
  have hgo : (!t.memServes k || decide (t.barBytes k bar < off + len)) = true := by simpa using hout
  simp only [effInboundRead, hserves, ht, hgo, Bool.not_true, Bool.false_eq_true, if_false, if_true]

/-- A decoded read goes by the requester's right. -/
theorem effInboundRead_of_decoded (hmem : t.memServes k = true) (hbar : off + len ≤ t.barBytes k bar) :
    effInboundRead k rid bar off len s =
      if t.inboundOk k rid bar off len false = true then
        if bar = 0 then t.answerIn k 0 (leBytes len (t.readCtl .host off len)) else t.inboundMemRead k (t.aperture k off) len
      else (t.incF .PCI_INBOUND_UR k).answerIn k 1 [] := by
  have hgo : (!t.memServes k || decide (t.barBytes k bar < off + len)) = false := by simp [hmem, hbar]
  cases hok : t.inboundOk k rid bar off len false <;>
    simp only [effInboundRead, hserves, ht, hgo, hok, Bool.not_true, Bool.not_false, Bool.false_eq_true, if_false, if_true]

end

section
variable {s t : State} {k rid bar off : Nat} {d : Bytes} {poisoned : Bool} (ht : s.evHub k 0x22 0 0 d.length = t)
  (hserves : s.portServes k = true)
include ht hserves

theorem effInboundWrite_of_undecoded (hout : t.memServes k = false ∨ t.barBytes k bar < off + d.length) :
    effInboundWrite k rid bar off d poisoned s = t := by
  have hgo : (!t.memServes k || decide (t.barBytes k bar < off + d.length)) = true := by simpa using hout
  simp only [effInboundWrite, hserves, ht, hgo, Bool.not_true, Bool.false_eq_true, if_false, if_true]

/-- A decoded write goes by the requester's right and by its poison. -/
theorem effInboundWrite_of_decoded (hmem : t.memServes k = true) (hbar : off + d.length ≤ t.barBytes k bar) :
    effInboundWrite k rid bar off d poisoned s =
      if poisoned = true ∨ t.inboundOk k rid bar off d.length true = false then t.incF .PCI_INBOUND_UR k
      else if bar = 0 then t.writeCtl .host off d.length (leNat d) else t.inboundMemWrite k (t.aperture k off) d := by
  have hgo : (!t.memServes k || decide (t.barBytes k bar < off + d.length)) = false := by simp [hmem, hbar]
  simp only [effInboundWrite, hserves, ht, hgo, Bool.not_true, Bool.or_eq_true, Bool.not_eq_true', Bool.false_eq_true, if_false]

end

theorem evHub_frame (s : State) {h : Nat} (src qual part k : Nat) (hh : h < 4) :
    let t := s.evHub h src qual part k
    t.mem = s.mem ∧ t.hostMem = s.hostMem ∧ t.rings = s.rings := by
  dsimp only
  have hevent : (s.evHub h src qual part k) = { s with regs := (s.evHub h src qual part k).regs, power := (s.evHub h src qual part k).power } :=
    (countedFrom_evHub s src qual part k hh).eq
  rw [hevent]
  exact ⟨rfl, rfl, rfl⟩

/-- The operands of an inbound request are in range. -/
theorem inboundRead_wellFormed {k rid bar off len : Nat} (hk : k < 2) (hrid : rid < 65536) (hbar : bar = 0 ∨ bar = 2) (hlen : len ≤ 4096) :
    (Instr.inboundRead k rid bar off len).wellFormed = true := by
  simp [Instr.wellFormed, hk, hrid, hbar, hlen]

theorem inboundWrite_wellFormed {k rid bar off : Nat} {d : Bytes} (poisoned : Bool) (hk : k < 2) (hrid : rid < 65536) (hbar : bar = 0 ∨ bar = 2)
    (hlen : d.length ≤ 512) : (Instr.inboundWrite k rid bar off d poisoned).wellFormed = true := by
  simp [Instr.wellFormed, hk, hrid, hbar, hlen]

/-- Settles O38: a port that serves answers a request by what its function decodes and by the requester's right. -/
theorem inboundRequestsRun : Obligations.InboundRequestsRun := by
  refine ⟨?read, ?write⟩
  case read =>
    intro k rid bar off len s t hk hrid hbar hlen hserves
    have hwf := inboundRead_wellFormed (off := off) hk hrid hbar hlen
    refine ⟨fun hmem hin hok => exec_eq_becomesR hwf rfl ?_, fun hmem hin hno => exec_eq_becomesR hwf rfl ?_,
      fun hout => exec_eq_becomesR hwf rfl (effInboundRead_of_undecoded rfl hserves hout)⟩
    · exact (effInboundRead_of_decoded rfl hserves hmem hin).trans (if_pos hok)
    · exact (effInboundRead_of_decoded rfl hserves hmem hin).trans (if_neg (Bool.eq_false_iff.mp hno))
  case write =>
    intro k rid bar off d poisoned s t hk hrid hbar hlen hserves
    have hwf := inboundWrite_wellFormed (off := off) poisoned hk hrid hbar hlen
    refine ⟨fun hmem hin hclean hok => exec_eq_becomesR hwf rfl ?_,
      fun hout => exec_eq_becomesR hwf rfl (effInboundWrite_of_undecoded rfl hserves hout),
      fun hmem hin hbad => ⟨exec_eq_becomesR hwf rfl ?_, evHub_frame s 0x22 0 0 d.length (by omega)⟩⟩
    · refine (effInboundWrite_of_decoded rfl hserves hmem hin).trans (if_neg ?_)
      rw [hclean, hok]
      simp
    · exact (effInboundWrite_of_decoded rfl hserves hmem hin).trans (if_pos hbad)

/-! ## Configuration (R311, R413) -/

section
variable {s : State} {k : Nat} {reg : CfgReg} {w : Option Nat}

theorem configRequest_wellFormed (hk : k < 2) (hreg : CfgReg.ok reg = true) (hw : ∀ v, w = some v → v < 2 ^ 32) :
    (Instr.configRequest ⟨k, reg, w⟩).wellFormed = true := by
  have hvalue : (w.all fun v => decide (v < 2 ^ 32)) = true := by
    cases w with
    | none => rfl
    | some v => exact decide_eq_true (hw v rfl)
  simp only [Instr.wellFormed, hk, hreg, hvalue, decide_true, Bool.and_self]

theorem effConfigRequest_of_early (hearly : s.f .RST_STATUS_PHASE ≠ 5) :
    effConfigRequest ⟨k, reg, w⟩ s = s.setPort k { s.port k with retryStatus := (s.port k).retryStatus + 1 } := if_pos hearly

theorem effConfigRequest_read (hready : s.f .RST_STATUS_PHASE = 5) :
    effConfigRequest ⟨k, reg, none⟩ s = (let t := s.takeFree.2
      t.setPort k { t.port k with cfgReads := (reg, t.cfgValue k (s.takeFree.1 % 2 ^ 32) reg) :: (t.port k).cfgReads }) :=
  if_neg (not_not.mpr hready)

theorem effConfigRequest_write (hready : s.f .RST_STATUS_PHASE = 5) (v : Nat) : effConfigRequest ⟨k, reg, some v⟩ s = s.cfgWrite k v reg :=
  if_neg (not_not.mpr hready)

end

/-! ## Completions (R316, R317, R326) -/

/-- What a read lost with `detail` does: the command's other reads on the port are forgotten, and it ends with HOST_LOST. -/
def State.readsLost (t : State) (k r pos detail : Nat) : State :=
  let p : PciPort := { t.port k with
    reads := (t.port k).reads.filter fun (x : Nat × PRead) => !(x.2.ring == r && x.2.pos == pos)
    queued := (t.port k).queued.filter fun x => !(x.1 == r && x.2.1 == pos) }
  ((t.setPort k p).pumpReads k 1024).loseHost k detail r pos

theorem readLost_of_user {s : State} {k r pos : Nat} {e : Entry} (detail : Nat) (he : s.entry? r pos = some e)
    (hst : e.st = .running ∨ e.st = .finished) (huses : s.usesPort k r e = true) : s.readLost k r pos detail = s.readsLost k r pos detail := by
  have hgo : ((e.st == .running || e.st == .finished) && s.usesPort k r e) = true := by
    rw [huses, Bool.and_true]
    simpa using hst
  simp only [State.readLost, he, hgo, if_true]
  rfl

theorem ok_and_okPos {k r pos : Nat} (hk : k < 2) (hpos : okPos r pos = true) :
    (decide (k < 2) && decide (r < 256) && decide (pos < 2 ^ 64)) = true := by
  rw [Bool.and_assoc, decide_eq_true hk, Bool.true_and]
  exact hpos

section
variable {s : State} {k tag addr : Nat} {d : Bytes} (hok : s.portOk k = true)
include hok

theorem effPcieCompletion_of_data (hdata : ((s.port k).reads.fget tag ⟨0, 0, false, 0, 0⟩).flush = false) :
    effPcieCompletion k tag addr d s =
      { s with hostMem := (List.range d.length).foldl (fun m i => FMap.fput m (hostKey k ((addr + i) % 2 ^ 64)) (d.getD i 0) 0) s.hostMem } := by
  unfold effPcieCompletion
  rw [if_neg (by rw [hok]; exact Bool.false_ne_true)]
  exact if_pos (congrArg (!·) hdata)

theorem effPcieCompletion_of_flush (hflush : ((s.port k).reads.fget tag ⟨0, 0, false, 0, 0⟩).flush = true) :
    effPcieCompletion k tag addr d s =
      (let x := (s.port k).reads.fget tag ⟨0, 0, false, 0, 0⟩
       let t := { s with hostMem := (List.range d.length).foldl (fun m i => FMap.fput m (hostKey k ((addr + i) % 2 ^ 64)) (d.getD i 0) 0) s.hostMem }
       let u := t.setPort k { t.port k with reads := (t.port k).reads.fput tag ⟨0, 0, false, 0, 0⟩ ⟨0, 0, false, 0, 0⟩ }
       ((u.pumpReads k 1).modEntry x.ring x.pos fun e => { e with flush := e.flush.erase k }).afterFlush x.ring x.pos) := by
  unfold effPcieCompletion
  rw [if_neg (by rw [hok]; exact Bool.false_ne_true)]
  exact if_neg (by
    change ¬ (!((s.port k).reads.fget tag ⟨0, 0, false, 0, 0⟩).flush) = true
    rw [hflush]
    exact Bool.false_ne_true)

end

/-! ## Peers (R314) -/

/-- The verification of a peer reads the second place when the first ID_PART is zero, and accepts this design and the serial expected. -/
theorem effPeerVerifyDone_of_verifying {s : State} {k i : Nat} {first second : PeerIdent} (hstate : s.f .PCI_PEER_STATE (16 * k + i) = 1) :
    effPeerVerifyDone k i first second s =
      (let again := !first.failed && first.part == 0
       let c := if again then second else first
       let t := if again then s.setPort k { s.port k with idReads := s.peerBlock (16 * k + i) 1 :: (s.port k).idReads } else s
       t.setF .PCI_PEER_STATE (16 * k + i)
         (if c.failed = false ∧ bitsOf c.part.toNat 16 16 = 9 ∧ c.serial.toNat = s.f .PCI_PEER_SERIAL_SERIAL (16 * k + i) then 2 else 3)) := by
  unfold effPeerVerifyDone
  rw [if_neg (not_not.mpr hstate)]
  cases hagain : (!first.failed && first.part == 0)
  · simp only [Bool.and_eq_true, Bool.not_eq_true', beq_iff_eq, and_assoc, Bool.false_eq_true, if_false]
  · simp only [Bool.and_eq_true, Bool.not_eq_true', beq_iff_eq, and_assoc, if_true]
    rfl

/-- Settles O39: each event of a port under its condition. -/
theorem pciePortEventsRun : Obligations.PciePortEventsRun := by
  refine ⟨?config, ?linkUp, ?events, ?bmeCleared, ?completion, ?lost, ?lostByTime, ?verified, ?verifiedLate⟩
  case config =>
    intro k reg w s hk hreg hw
    have hwf := configRequest_wellFormed hk hreg hw
    refine ⟨fun hearly => exec_eq_becomes hwf rfl (effConfigRequest_of_early hearly), fun hready hnone => ?_, fun v hready hsome => ?_⟩
    · subst hnone
      exact exec_eq_becomes hwf rfl (effConfigRequest_read hready)
    · subst hsome
      exact exec_eq_becomes hwf rfl (effConfigRequest_write hready v)
  case linkUp =>
    intro k sp w fl s hok hdown hworks
    exact exec_eq_becomes (c := .pcieLinkUp k sp w fl) hok rfl
      (by simp only [effPcieLinkUp, hdown, hworks, Bool.not_true, Bool.or_self, Bool.false_eq_true, if_false])
  case events =>
    intro k s hk hup
    have hwf := decide_eq_true hk
    exact ⟨exec_eq_becomes (c := .pcieLinkDown k) hwf rfl (if_pos hup), exec_eq_becomes (c := .pcieHotReset k) hwf rfl (if_pos hup),
      exec_eq_becomes (c := .pcieFlr k) hwf rfl (if_pos hup), exec_eq_becomes (c := .pcieRetrain k) hwf rfl (if_pos hup),
      exec_eq_becomes (c := .busMasterEnableSet k) hwf rfl (if_pos hup),
      fun hready => exec_eq_becomes (c := .perstDeassert k) hwf rfl ((if_pos hready).trans (if_pos hup))⟩
  case bmeCleared =>
    intro k s hk hbme
    exact exec_eq_becomes (c := .busMasterEnableCleared k) (decide_eq_true hk) rfl (if_pos hbme)
  case completion =>
    intro k tag addr d s x t hk hport
    have hwf := decide_eq_true hk
    exact ⟨fun hdata => exec_eq_becomes (c := .pcieCompletion k tag addr d) hwf rfl (effPcieCompletion_of_data hport hdata),
      fun hflush => exec_eq_becomes (c := .pcieCompletion k tag addr d) hwf rfl (effPcieCompletion_of_flush hport hflush)⟩
  case lost =>
    intro k r pos e s hk hpos he hst huses
    have hwf := ok_and_okPos hk hpos
    exact ⟨exec_eq_becomes (c := .completionUr k r pos) hwf rfl (readLost_of_user 6 he hst huses),
      exec_eq_becomes (c := .completionCa k r pos) hwf rfl (readLost_of_user 7 he hst huses),
      exec_eq_becomes (c := .poisonedCompletion k r pos) hwf rfl (readLost_of_user 8 he hst huses)⟩
  case lostByTime =>
    intro k r pos dt s hk hpos hlate
    exact exec_eq_becomes (c := .completionTimeout k r pos dt) (ok_and_okPos hk hpos) rfl (if_pos hlate)
  case verified =>
    intro k i first second s hk hi hstate
    exact exec_eq_becomes (c := .peerVerifyDone k i first second) (by simp [Instr.wellFormed, hk, hi]) rfl
      (effPeerVerifyDone_of_verifying hstate)
  case verifiedLate =>
    intro k i dt s t hk hi hstate hlate
    exact exec_eq_becomes (c := .peerVerifyTimeout k i dt) (by simp [Instr.wellFormed, hk, hi]) rfl
      (if_pos (Bool.and_eq_true_iff.mpr ⟨decide_eq_true hstate, decide_eq_true hlate⟩))

end Sys2Proof.Machine
end

-- Proofs of the statement about keys, guests' admission, attestation and boot release.
section
/-!
SUPPORT. The security commands (R354 to R359, R442 to R451): what the body of each does once its checks have passed.
-/

namespace Sys2Proof.Machine

open Sys2Proof

/-! ## BOOT_RELEASE (R450, R451) -/

/-- The image that BOOT_RELEASE has read is judged by its signature alone when no root key is programmed. -/
theorem bootJudge_of_noRoot {s : State} {r pos p : Nat} {e : Entry} {img pk sig : Bytes} (hroot : s.keeper.rootHash = none) :
    s.bootJudge r pos p e img pk sig =
      (let t := { s with keeper := { s.keeper with bootHash := s.keeper.bootHash.fput p (leNat (shake256 img 32)) 0 } }
       if xmssVerify pk sig img = true then t.startCores r pos p (e.body 8 8) (fldB img 16 8) (fldB img 4 4)
       else t.bootFail r pos p stTAG 2 true) := by
  cases hsig : xmssVerify pk sig img <;>
    simp only [State.bootJudge, hroot, hsig, Option.isSome_none, Bool.false_and, Bool.not_true, Bool.not_false, Bool.false_eq_true, if_false,
      if_true]

/-- Settles O25: each security command, its checks passed. -/
theorem securityCommandsRun : Obligations.SecurityCommandsRun := by
  refine ⟨?install, ?retire, ?firewall, ?admission, ?expel, ?attest, ?signed, ?boot⟩
  case install =>
    intro r pos s t e
    dsimp only
    intro h hi hscope hrights hrights' hwrap hz hz' hstate
    refine exec_eq_becomes_of_begun (c := .keyInstall r pos) h rfl rfl ?_
    have hstate' : ((t.keySlot (e.body 0 1)).state == 1) = false := beq_eq_false_iff_ne.mpr hstate
    simp only [Nat.not_le.mpr hi, Nat.not_le.mpr hscope, Nat.not_le.mpr hrights', Nat.not_le.mpr hwrap, hz, hz', hstate, hstate',
      Nat.pos_iff_ne_zero.mp hrights, decide_false, Bool.not_true, Bool.or_self, Bool.and_false, Bool.false_and, Bool.false_eq_true, if_false]
  case retire =>
    intro r pos s t e
    dsimp only
    intro h hi hz hfirst hok
    refine exec_eq_becomes_of_begun (c := .keyRetire r pos) h rfl rfl ?_
    simp only [Nat.not_le.mpr hi, hz, hfirst, hok, decide_false, Bool.not_true, Bool.or_self, Bool.false_and, Bool.false_eq_true, if_false]
  case firewall =>
    intro r pos s t e
    dsimp only
    intro h hk hi hrights hpart hz
    refine ⟨fun hclear hzero hnone hnopart => ?_, fun hset hbase hbase' hsize hsize' hsize'' hsome hvalid hfree => ?_⟩
    · refine exec_eq_becomes_of_begun (c := .firewallSet r pos) h rfl rfl ?_
      simp only [Nat.not_le.mpr hk, Nat.not_le.mpr hi, hz, hclear, hzero, hnone, hnopart, ne_eq, not_true_eq_false, decide_false,
        Bool.not_true, Bool.or_self, Bool.false_eq_true, if_false, if_true]
      rfl
    · refine exec_eq_becomes_of_begun (c := .firewallSet r pos) h rfl rfl ?_
      simp only [Nat.not_le.mpr hk, Nat.not_le.mpr hi, Nat.not_le.mpr hrights, Nat.not_le.mpr hpart, hz, hset, hbase, Nat.not_le.mpr hbase',
        hsize, Nat.not_lt.mpr hsize', Nat.not_lt.mpr hsize'', hsome, hvalid, hfree, ne_eq, not_true_eq_false, decide_false,
        Bool.not_true, Bool.or_self, Bool.false_eq_true, if_false]
      rfl
  case admission =>
    intro r pos s t e
    dsimp only
    intro h hk hkind hout hout' hrate hmodes hz hz' hstate hmode hid
    refine exec_eq_becomes_of_begun (c := .guestAdmit r pos) h rfl rfl ?_
    have hagrees : (!e.zero 8 16 && (e.body 8 8 != t.f .CRX_GID_LO_ID (e.body 0 1) || e.body 16 8 != t.f .CRX_GID_HI_ID (e.body 0 1))) = false := by
      rcases hid with hany | ⟨hlo, hhi⟩
      · rw [hany, Bool.not_true, Bool.false_and]
      · rw [hlo, hhi, bne_self_eq_false, bne_self_eq_false, Bool.or_self, Bool.and_false]
    simp only [Nat.not_le.mpr hk, hkind, hz, hz', Nat.pos_iff_ne_zero.mp hout, Nat.not_lt.mpr hout', Nat.not_lt.mpr hrate, Nat.not_le.mpr hmodes,
      hstate, hmode, hagrees, Nat.lt_irrefl, ne_eq, not_true_eq_false, decide_false, Bool.not_true, Bool.or_self, Bool.false_eq_true, if_false]
    rfl
  case expel =>
    intro r pos s t e
    dsimp only
    intro h hk hkind hz hz' hz'' hz''' hstate
    refine exec_eq_becomes_of_begun (c := .guestAdmit r pos) h rfl rfl ?_
    simp only [Nat.not_le.mpr hk, hkind, hz, hz', hz'', hz''', hstate, decide_false, Bool.not_true, Bool.or_self, Bool.false_eq_true, if_false,
      if_true]
    rfl
  case attest =>
    intro r pos s t e h halign hz hlen hnone hleaves
    refine exec_eq_becomes_of_begun (c := .attest r pos) h rfl rfl ?_
    simp only [halign, hz, Nat.not_lt.mpr hlen, hnone, hleaves, List.length_append, List.length_singleton, ne_eq, not_true_eq_false,
      decide_false, Bool.not_true, Bool.or_self, Bool.false_eq_true, if_false]
  case signed =>
    intro r pos s t e a b x h halign hz hlen hsome
    refine exec_eq_becomes_of_begun (c := .attest r pos) h rfl rfl ?_
    simp only [halign, hz, Nat.not_lt.mpr hlen, hsome, ne_eq, not_true_eq_false, decide_false,
      Bool.not_true, Bool.or_self, Bool.false_eq_true, if_false]
  case boot =>
    intro r pos s t u v w x e h img pk sig
    dsimp only
    intro hbegun hp hflags hz hz' hright hvalid hheld halign hrange hread hver hsize hsize' hentry hentry' hzero hrange' hrangePk hrangeSig himg
      hpk hsig
    have hrun : exec (.bootRelease r pos) s = s.becomes (x.bootJudge r pos (e.body 0 1) e img pk sig) := by
      refine exec_eq_becomes_of_begun (c := .bootRelease r pos) hbegun rfl rfl ?_
      have hmay : (!t.ringModule r && decide (t.ringPart r ≠ e.body 0 1)) = false := by
        rcases hright with hmodule | hpart
        · rw [hmodule, Bool.not_true, Bool.false_and]
        · rw [hpart, decide_eq_false (not_not.mpr rfl), Bool.and_false]
      have hgood : (fldB h 0 4 == 1 && decide (1 ≤ fldB h 8 8) && decide (fldB h 8 8 ≤ 2 ^ 32) && fldB h 16 8 % 4 == 0 &&
          decide (fldB h 16 8 < fldB h 8 8 + 64) && (sliceB h 26 38).all (· == 0)) = true := by
        simp only [hver, hsize, hsize', hentry, hentry', hzero, beq_self_eq_true, decide_true, Bool.and_self]
      simp only [Nat.not_le.mpr hp, Nat.not_le.mpr hflags, hz, hz', hmay, hvalid, hheld, halign, hrange, hread, hgood, hrange', hrangePk,
        hrangeSig, himg, hpk, hsig, ne_eq, not_true_eq_false, decide_false, Bool.not_true, Bool.or_self, Bool.false_eq_true, if_false]
    exact ⟨hrun, fun hroot => hrun.trans (congrArg s.becomes (bootJudge_of_noRoot hroot))⟩

end Sys2Proof.Machine
end

-- Proofs of the statement about power events.
section
/-!
SUPPORT. Power (R386 to R404): performance-state steps, case by case, and the events of windows, alerts, droops, temperatures and NAP.
-/

namespace Sys2Proof.Machine

open Sys2Proof

/-! ## Performance-state steps (R386, R388, R400) -/

section
variable {s t : State} {n dt : Nat} (ht : (s.elapse dt).coolSettle.setReq n = t)
include ht

theorem effPstateStep_of_ended {till st : Nat} (hstep : (t.diePwr n).stepEnd = some (till, st)) (hdue : till ≤ t.eng) :
    effPstateStep n dt s =
      (let w := (t.setF .PWR_DIE_PSTATE n st).setDiePwr n { t.diePwr n with stepEnd := none }
       if st ≠ w.pTarget n then w.beginStep n else w.setSlow n) := by
  simp only [effPstateStep, ht, hstep, hdue, if_true]

variable (hnone : (t.diePwr n).stepEnd = none)
include hnone

/-- A die to be moved, or still slow, that is not forced waits while a droop holds steps; the wait is counted once. -/
theorem effPstateStep_of_held (haway : t.f .PWR_DIE_PSTATE n ≠ t.pTarget n ∨ (t.diePwr n).slow = true) (hfree : t.fb .PWR_DIE_FORCED n = false)
    (hheld : t.stepHeld n = true) :
    effPstateStep n dt s = if (t.diePwr n).waiting then t
      else (t.incF .PWR_DIE_EVT_HELD_STEPS n).setDiePwr n { t.diePwr n with waiting := true } := by
  have hgo : (t.f .PWR_DIE_PSTATE n == t.pTarget n && (t.fb .PWR_DIE_FORCED n || !(t.diePwr n).slow)) = false := by
    rcases haway with hne | hslow
    · rw [beq_eq_false_iff_ne.mpr hne, Bool.false_and]
    · rw [hfree, hslow, Bool.not_true, Bool.or_self, Bool.and_false]
  have hwait : (!t.fb .PWR_DIE_FORCED n && t.stepHeld n) = true := by rw [hfree, hheld, Bool.not_false, Bool.and_self]
  simp only [effPstateStep, ht, hnone, hgo, hwait, Bool.false_eq_true, if_false, if_true]

/-- A die at its target that is forced, not slow or not held stays, and leaves the slow state unless forced. -/
theorem effPstateStep_of_there (hthere : t.f .PWR_DIE_PSTATE n = t.pTarget n)
    (hgo : t.fb .PWR_DIE_FORCED n = true ∨ (t.diePwr n).slow = false ∨ t.stepHeld n = false) :
    effPstateStep n dt s = (t.setDiePwr n { t.diePwr n with waiting := false }).setSlow n := by
  have hsame : (t.f .PWR_DIE_PSTATE n == t.pTarget n) = true := beq_iff_eq.mpr hthere
  cases hforced : t.fb .PWR_DIE_FORCED n with
  | true => simp only [effPstateStep, ht, hnone, hsame, hforced, Bool.true_or, Bool.and_self, if_true]
  | false =>
    cases hslow : (t.diePwr n).slow with
    | false => simp only [effPstateStep, ht, hnone, hsame, hforced, hslow, Bool.not_false, Bool.or_true, Bool.and_self, if_true]
    | true =>
      have hheld : t.stepHeld n = false := by simpa [hforced, hslow] using hgo
      simp only [effPstateStep, ht, hnone, hsame, hforced, hslow, hheld, Bool.not_true, Bool.or_self, Bool.and_false, Bool.false_eq_true,
        if_false, if_true]

theorem effPstateStep_of_away (haway : t.f .PWR_DIE_PSTATE n ≠ t.pTarget n) (hgo : t.fb .PWR_DIE_FORCED n = true ∨ t.stepHeld n = false) :
    effPstateStep n dt s = t.beginStep n := by
  have hheld : (!t.fb .PWR_DIE_FORCED n && t.stepHeld n) = false := by
    rcases hgo with hforced | hfree
    · rw [hforced, Bool.not_true, Bool.false_and]
    · rw [hfree, Bool.and_false]
  simp only [effPstateStep, ht, hnone, beq_eq_false_iff_ne.mpr haway, hheld, Bool.false_and, Bool.false_eq_true, if_false]

end

/-! ## The statement -/

/-- Settles O42: each power event under its condition. -/
theorem powerEventsRun : Obligations.PowerEventsRun := by
  refine ⟨?window, ?assert, ?release, ?hold, ?droop, ?clear, ?stretch, ?held, ?step, ?die, ?hub, ?idle, ?nap, ?napExit, ?stackIdle⟩
  case window =>
    intro dt s t hclock hdue
    refine exec_eq_becomes (c := .powerWindow dt) rfl rfl (if_pos ?_)
    simpa [t] using ⟨hclock, hdue⟩
  case assert =>
    intro i dt s t u w hi
    exact exec_eq_becomes (c := .regulatorAlertAssert i dt) (decide_eq_true hi) rfl rfl
  case release =>
    intro i s hi hlow
    exact exec_eq_becomes (c := .regulatorAlertRelease i) (decide_eq_true hi) rfl (if_neg (by rw [hlow]; exact Bool.false_ne_true))
  case hold =>
    intro i dt s t a hi hon hhigh ha hlate
    refine exec_eq_becomes (c := .alertHoldExpiry i dt) (decide_eq_true hi) rfl (if_pos ?_)
    simpa [t, a] using ⟨⟨⟨hon, hhigh⟩, ha⟩, hlate⟩
  case droop =>
    intro n s d hn hquiet
    refine exec_eq_becomes (c := .droopDetect n) (decide_eq_true hn) rfl ((if_neg (by rw [hquiet]; exact Bool.false_ne_true)).trans ?_)
    simp only [bne_iff_ne]
    rfl
  case clear =>
    intro n s d hn hdroop
    exact exec_eq_becomes (c := .droopClear n) (decide_eq_true hn) rfl (if_pos hdroop)
  case stretch =>
    intro n dt s t d c hn hstretch hclear hlate
    refine exec_eq_becomes (c := .stretchEnd n dt) (decide_eq_true hn) rfl (if_pos ?_)
    simpa [t, d] using ⟨⟨hstretch, hclear⟩, hlate⟩
  case held =>
    intro n dt s t d u hn hhold hclear hlate
    refine exec_eq_becomes (c := .stepHoldExpiry n dt) (decide_eq_true hn) rfl ((if_pos ?_).trans ?_)
    · simpa [t, d] using ⟨⟨hhold, hclear⟩, hlate⟩
    · simp only [Bool.and_eq_true, bne_iff_ne]
      rfl
  case step =>
    intro n dt s t u d hn
    have hwf := decide_eq_true hn
    exact ⟨fun till st hstep hdue => exec_eq_becomes (c := .pstateStep n dt) hwf rfl (effPstateStep_of_ended rfl hstep hdue),
      fun hnone haway hfree hheld => exec_eq_becomes (c := .pstateStep n dt) hwf rfl (effPstateStep_of_held rfl hnone haway hfree hheld),
      fun hnone hthere hgo => exec_eq_becomes (c := .pstateStep n dt) hwf rfl (effPstateStep_of_there rfl hnone hthere hgo),
      fun hnone haway hgo => exec_eq_becomes (c := .pstateStep n dt) hwf rfl (effPstateStep_of_away rfl hnone haway hgo)⟩
  case die =>
    intro n temp dt s t u hot w hn htemp
    exact exec_eq_becomes (c := .dieTempSample (.die n) temp dt) (by simp [Instr.wellFormed, TapDev.ok, hn, htemp]) rfl rfl
  case hub =>
    intro h temp dt s t u hot w hh htemp
    exact exec_eq_becomes (c := .dieTempSample (.hub h) temp dt) (by simp [Instr.wellFormed, TapDev.ok, hh, htemp]) rfl rfl
  case idle =>
    intro n s hn hworks hquiet
    exact exec_eq_becomes (c := .dieIdleEntry n) (decide_eq_true hn) rfl (if_pos (by rw [hworks, hquiet]; rfl))
  case nap =>
    intro p dt s t ds u v w x hp hstate
    exact exec_eq_becomes (c := .napEntryDone p dt) (decide_eq_true hp) rfl (if_neg (not_not.mpr hstate))
  case napExit =>
    intro p dt s hp hstate
    exact exec_eq_becomes (c := .napExitDone p dt) (decide_eq_true hp) rfl (if_pos hstate)
  case stackIdle =>
    intro k p dt s t hk howner hnap hwoken hlate
    have hnapping : t.napping k = true := by simp only [State.napping, howner, hnap, beq_self_eq_true]
    refine exec_eq_becomes (c := .napStackIdle k dt) (decide_eq_true hk) rfl (if_pos ?_)
    simpa [t] using ⟨⟨hnapping, hwoken⟩, hlate⟩

end Sys2Proof.Machine
end

-- Proofs of the statement about the Tilus ports.
section
/-!
SUPPORT. The Tilus ports (R363 to R366, R378, R380, R381): frames, training, reserved slots, case by case.
-/

namespace Sys2Proof.Machine

open Sys2Proof

/-! ## Frames (R364 to R366) -/

section
variable {s t : State} {p n : Nat} {f : TFrame} (ht : s.incF .TLS_PERR_FEC_FIXED p n = t) (hup : s.tlsUp p = true)
include ht hup

/-- A frame with a wrong CRC is counted and owes a NAK if it carries data. -/
theorem takeFrame_of_bad (hbad : f.good = false) :
    s.takeFrame p n f = if f.typ = 0 then ((t.incF .TLS_PERR_CRC_ERRORS p).setTls p { t.tls p with nakOut := true }).answerFrame p else t := by
  simp only [State.takeFrame, ht, hup, hbad, Bool.not_true, Bool.not_false, Bool.false_eq_true, if_false, if_true]

variable (hgood : f.good = true)
include hgood

theorem takeFrame_of_data (hdata : f.typ = 0) : s.takeFrame p n f = ((t.frameControl p f).takeData p f).answerFrame p := by
  have hkind : ¬ 3 ≤ f.typ := by omega
  simp only [State.takeFrame, ht, hup, hgood, hkind, Bool.not_true, Bool.false_eq_true, if_false]
  exact if_pos hdata

/-- Idle and beacon frames carry control alone. -/
theorem takeFrame_of_control (hcontrol : f.typ = 1 ∨ f.typ = 2) : s.takeFrame p n f = (t.frameControl p f).pumpPort p := by
  have hkind : ¬ 3 ≤ f.typ := by omega
  have hdata : f.typ ≠ 0 := by omega
  simp only [State.takeFrame, ht, hup, hgood, hkind, hdata, Bool.not_true, Bool.false_eq_true, if_false]

theorem takeFrame_of_reserved (hreserved : 3 ≤ f.typ) : s.takeFrame p n f = t := by
  simp only [State.takeFrame, ht, hup, hgood, hreserved, Bool.not_true, Bool.false_eq_true, if_false, if_true]

end

/-! ## Training (R363) -/

theorem effTilusPortTrain_of_due {s t : State} {p lanes dt : Nat} (ht : s.elapse dt = t) (henable : t.fb .TLS_PCTRL_ENABLE p = true)
    (hstate : t.f .TLS_PSTAT_STATE p = 1 ∨ t.f .TLS_PSTAT_STATE p = 4) (hhub : t.hubWorks (p / 4) = true)
    (hdue : (t.tls p).lastTry = 0 ∨ (t.tls p).lastTry + 1000000 ≤ t.eng) :
    effTilusPortTrain p lanes dt s =
      (let width := if lanes = 255 then 3 else if lanes % 16 = 15 then 1 else if lanes / 16 = 15 then 2 else 0
       if width = 0 then t.setTls p { t.tls p with lastTry := max t.eng 1 }
       else (((t.setF .TLS_PSTAT_STATE p 2).setF .TLS_PSTAT_WIDTH p width).setF .TIME_PORT_LOST p 0).setTls p
         { lastTry := max t.eng 1, lastBeacon := t.eng, prioAt := t.eng }) := by
  subst ht
  refine if_pos ?_
  simpa using ⟨⟨⟨henable, hstate⟩, hhub⟩, hdue⟩

/-! ## Reserved slots (R378) -/

/-- The deal whose slot a reservation in force, with no slot open, is due to open. -/
theorem slotDeal_eq_some {s : State} {p r k : Nat} (hvalid : s.resValid p r = true) (hhub : s.hubWorks (p / 4) = true)
    (hclosed : (s.resvOf (resIx p r)).openUntil = none) (hoff : s.f .TLS_RES_OFFSET_NS (resIx p r) ≤ s.now)
    (hdeal : (s.resSched p r).current (s.now - s.f .TLS_RES_OFFSET_NS (resIx p r)) = some k) (hfirst : (s.resvOf (resIx p r)).firstDeal ≤ k)
    (hnext : (s.resvOf (resIx p r)).nextDeal ≤ k) (hsince : (s.resvOf (resIx p r)).since < (s.resSched p r).boundary k)
    (hcount : (s.resvOf (resIx p r)).count = 0 ∨ k < (s.resvOf (resIx p r)).firstDeal + (s.resvOf (resIx p r)).count) :
    s.slotDeal p r = some k := by
  have hkept : (decide ((s.resvOf (resIx p r)).firstDeal ≤ k) && decide ((s.resvOf (resIx p r)).nextDeal ≤ k) &&
      decide ((s.resvOf (resIx p r)).since < (s.resSched p r).boundary k) &&
      ((s.resvOf (resIx p r)).count == 0 || decide (k < (s.resvOf (resIx p r)).firstDeal + (s.resvOf (resIx p r)).count))) = true := by
    simpa using ⟨⟨⟨hfirst, hnext⟩, hsince⟩, hcount⟩
  simp only [State.slotDeal, hvalid, hhub, hclosed, Nat.not_lt.mpr hoff, hdeal, Option.isSome_none, decide_false, Bool.not_true, Bool.or_self,
    Bool.false_eq_true, if_false, Option.filter_some, hkept, if_true]

theorem effReservedSlotOpen_of_deal {s t : State} {p r k dt : Nat} (ht : s.elapse dt = t) (hdeal : t.slotDeal p r = some k)
    (horder : t.inOrder ((t.resSched p r).boundary k + t.f .TLS_RES_OFFSET_NS (resIx p r)) = true) :
    effReservedSlotOpen p r dt s = (t.setResv (resIx p r) { t.resvOf (resIx p r) with
      openUntil := some (t.now + t.f .TLS_RES_SLOT_NS (resIx p r)), deal := k, nextDeal := k + 1 }).pumpPort p := by
  simp only [effReservedSlotOpen, ht, hdeal, State.slotTime, Option.map_some, Option.all_some, horder, if_true]

section
variable {s t : State} {p r dt : Nat} (ht : s.elapse dt = t) (hvalid : t.resValid p r = true)
include ht hvalid

/-- An open slot closes at its end; a reservation with deals to come stays. -/
theorem effReservedSlotClose_of_open {till : Nat} (hopen : (t.resvOf (resIx p r)).openUntil = some till) (hend : till ≤ t.now)
    (hmore : (t.resvOf (resIx p r)).count = 0 ∨ t.now < (t.resSched p r).boundary ((t.resvOf (resIx p r)).firstDeal +
      (t.resvOf (resIx p r)).count - 1) + t.f .TLS_RES_OFFSET_NS (resIx p r) + t.f .TLS_RES_SLOT_NS (resIx p r)) :
    effReservedSlotClose p r dt s = t.setResv (resIx p r) { t.resvOf (resIx p r) with openUntil := none } := by
  simp only [effReservedSlotClose, ht, hvalid, hopen, hend, Bool.not_true, Bool.false_eq_true, if_false, if_true]
  refine if_neg fun hlast => ?_
  rw [Bool.and_eq_true, Bool.and_eq_true, decide_eq_true_iff, decide_eq_true_iff] at hlast
  obtain ⟨⟨hcount, -⟩, hover⟩ := hlast
  rcases hmore with hzero | hlater
  · exact hcount hzero
  · exact absurd hover (Nat.not_le.mpr hlater)

theorem effReservedSlotClose_of_over (hclosed : (t.resvOf (resIx p r)).openUntil = none) (hcount : (t.resvOf (resIx p r)).count ≠ 0)
    (hover : (t.resSched p r).boundary ((t.resvOf (resIx p r)).firstDeal + (t.resvOf (resIx p r)).count - 1) +
      t.f .TLS_RES_OFFSET_NS (resIx p r) + t.f .TLS_RES_SLOT_NS (resIx p r) ≤ t.now) :
    effReservedSlotClose p r dt s = t.release p r := by
  have hgo : decide ((t.resvOf (resIx p r)).count ≠ 0) = true := decide_eq_true hcount
  simp only [effReservedSlotClose, ht, hvalid, hclosed, hgo, hover, Option.isNone_none, decide_true, Bool.and_self, Bool.not_true,
    Bool.false_eq_true, if_false, if_true]

end

/-! ## The statement -/

/-- Settles O37: each event of a port under its condition. -/
theorem tilusPortsRun : Obligations.TilusPortsRun := by
  refine ⟨?frame, ?retrain, ?retrainEnd, ?retrainLate, ?train, ?lost, ?fail, ?slotOpen, ?slotClose, ?slotOver, ?prio⟩
  case frame =>
    intro p n b s f t u v hp hlen hup
    have hwf : (Instr.tilusFrame p ⟨n, b⟩).wellFormed = true := by simp [Instr.wellFormed, hp, hlen]
    exact ⟨fun hbad => exec_eq_becomes hwf rfl (takeFrame_of_bad rfl hup hbad),
      fun hgood hdata => exec_eq_becomes hwf rfl (takeFrame_of_data rfl hup hgood hdata),
      fun hgood hcontrol => exec_eq_becomes hwf rfl (takeFrame_of_control rfl hup hgood hcontrol),
      fun hgood hreserved => exec_eq_becomes hwf rfl (takeFrame_of_reserved rfl hup hgood hreserved)⟩
  case retrain =>
    intro p s hp hup hnaks
    exact exec_eq_becomes (c := .tilusRetrain p) (decide_eq_true hp) rfl (if_pos (Bool.and_eq_true_iff.mpr ⟨hup, decide_eq_true hnaks⟩))
  case retrainEnd =>
    intro p dt s t hp hstate hhub
    exact exec_eq_becomes (c := .tilusRetrainEnd p dt) (decide_eq_true hp) rfl (if_pos (Bool.and_eq_true_iff.mpr ⟨decide_eq_true hstate, hhub⟩))
  case retrainLate =>
    intro p dt at_ s t hp hdown hstate hlate
    refine exec_eq_becomes (c := .tilusRetrainTimeout p dt) (decide_eq_true hp) rfl ?_
    have hgo : (decide (t.f .TLS_PSTAT_STATE p ≠ 2) && decide (at_ + 1000000 ≤ t.eng)) = true := by
      rw [decide_eq_true hstate, decide_eq_true hlate, Bool.and_self]
    have ht : s.elapse dt = t := rfl
    simp only [effTilusRetrainTimeout, ht, hdown, hgo, if_true]
  case train =>
    intro p lanes dt s t width hp hlanes henable hstate hhub hdue
    have hwf : (Instr.tilusPortTrain p lanes dt).wellFormed = true := by simp [Instr.wellFormed, hp, hlanes]
    have heff := effTilusPortTrain_of_due (lanes := lanes) rfl henable hstate hhub hdue
    exact ⟨fun hwidth => exec_eq_becomes hwf rfl (heff.trans (if_neg hwidth)), fun hwidth => exec_eq_becomes hwf rfl (heff.trans (if_pos hwidth))⟩
  case lost =>
    intro p dt s t hp hstate hlate
    refine exec_eq_becomes (c := .tilusPortLost p dt) (decide_eq_true hp) rfl (if_pos ?_)
    simpa [t] using ⟨hstate, hlate⟩
  case fail =>
    intro p s hp hhub hstate
    exact exec_eq_becomes (c := .tilusPortFail p) (decide_eq_true hp) rfl (if_pos (Bool.and_eq_true_iff.mpr ⟨hhub, decide_eq_true hstate⟩))
  case slotOpen =>
    intro p r dt k s t ix x off hp hr hvalid hhub hclosed hoff hdeal hfirst hnext hsince hcount horder
    exact exec_eq_becomes (c := .reservedSlotOpen p r dt) (by simp [Instr.wellFormed, hp, hr]) rfl
      (effReservedSlotOpen_of_deal rfl (slotDeal_eq_some hvalid hhub hclosed hoff hdeal hfirst hnext hsince hcount) horder)
  case slotClose =>
    intro p r dt till s t ix x hp hr hvalid hopen hend hmore
    exact exec_eq_becomes (c := .reservedSlotClose p r dt) (by simp [Instr.wellFormed, hp, hr]) rfl
      (effReservedSlotClose_of_open rfl hvalid hopen hend hmore)
  case slotOver =>
    intro p r dt s t ix x hp hr hvalid hclosed hcount hover
    exact exec_eq_becomes (c := .reservedSlotClose p r dt) (by simp [Instr.wellFormed, hp, hr]) rfl
      (effReservedSlotClose_of_over rfl hvalid hclosed hcount hover)
  case prio =>
    intro p dt s t hp hlate
    exact exec_eq_becomes (c := .prioInterval p dt) (decide_eq_true hp) rfl (if_pos hlate)

end Sys2Proof.Machine
end

-- Proofs of the statement about Corox links.
section
/-!
SUPPORT. Corox links (R338 to R350): flits that arrive, windows and their end, and what stays of the buffers of a module that goes down.
-/

namespace Sys2Proof.Machine

open Sys2Proof

/-! ## The ends of guests -/

theorem eq_guestEnd_of_endGuest {e k : Nat} (h : endGuest e = some k) : e = guestEnd k ∧ k < 2 := by
  unfold endGuest at h
  split at h
  · cases h
    exact ⟨‹_›, by decide⟩
  · split at h
    · cases h
      exact ⟨‹_›, by decide⟩
    · cases h

theorem crxPeer_guestEnd {k : Nat} (hk : k < 2) : crxPeer (guestEnd k) = none := by
  match k, hk with
  | 0, _ => rfl
  | 1, _ => rfl

/-- An end with another end that has registers is not one of a guest's hub. -/
theorem endGuest_of_crxPeer {e y : Nat} (h : crxPeer e = some y) : endGuest e = none := by
  cases hguest : endGuest e with
  | none => rfl
  | some k =>
    obtain ⟨rfl, hk⟩ := eq_guestEnd_of_endGuest hguest
    rw [crxPeer_guestEnd hk] at h
    cases h

/-! ## Flits that arrive (R343, R344) -/

section
variable {s t : State} {e : Nat} {b : Bytes}
  (ht : s.setCrxE e { s.crxE e with lastFlit := s.eng, phase := ((s.crxE e).phase + 1) % 3 } = t)
include ht

theorem takeFlit_of_badData (htyp : (flitOf b).typ = 0) (hbad : (flitOf b).good = false) :
    s.takeFlit e b = (t.incF .CRX_ERR_CRC_ERRORS e).discardFlit e (badSeq (((t.crxE e).rxSeq + 1) % 4096) (flitOf b).seq) (s.crxE e).phase b := by
  simp only [State.takeFlit, ht, htyp, hbad, zero_ne_one, Bool.not_false, if_false, if_true]

theorem takeFlit_of_idle (htyp : (flitOf b).typ = 1) (hgood : (flitOf b).good = true) :
    s.takeFlit e b = (t.noteIdle e (s.crxE e).phase b).takeControl e (flitOf b) := by
  simp only [State.takeFlit, ht, htyp, hgood, Bool.not_true, Bool.false_eq_true, if_false, if_true]
  rfl

theorem takeFlit_of_marker (htyp : (flitOf b).typ = 2) (hgood : (flitOf b).good = true) : s.takeFlit e b = t.takeControl e (flitOf b) := by
  simp only [State.takeFlit, ht, htyp, hgood, Bool.not_true, Bool.false_eq_true, if_false]
  rfl

/-- A good data flit is delivered in sequence, dropped when it was delivered before, discarded else. -/
theorem takeFlit_of_goodData (htyp : (flitOf b).typ = 0) (hgood : (flitOf b).good = true) :
    s.takeFlit e b =
      (let c := t.takeControl e (flitOf b)
       if (flitOf b).seq = ((t.crxE e).rxSeq + 1) % 4096 then c.deliverFlit e (flitOf b).seq b
       else if ((c.crxE e).rxSeq + 4096 - (flitOf b).seq) % 4096 < 2048 then c else c.discardFlit e (flitOf b).seq (s.crxE e).phase b) := by
  simp only [State.takeFlit, ht, htyp, hgood, Bool.not_true, Bool.false_eq_true, if_false]
  rfl

end

/-! ## The NAK of a discarded flit (R343) -/

/-- An event of a module's end only counts. -/
theorem countedFrom_evEnd (s : State) (e src k : Nat) : CountedFrom s (s.evEnd e src k) := by
  unfold State.evEnd
  split
  · exact countedFrom_evDie s src (e % 9) k (by omega)
  · split
    · exact countedFrom_evHub s src ((e - 144) % 8) 0 k (by omega)
    · exact .refl s

theorem CountedFrom.crxE {s t : State} (h : CountedFrom s t) (e : Nat) : t.crxE e = s.crxE e := by rw [h.eq]; rfl

/-- What a hub sends its guest leaves the NAK that it owes. -/
theorem sendGuestFlit_nakOut (s : State) (k : Nat) :
    ((s.sendGuestFlit k).crxE (guestEnd k)).nakOut = (s.crxE (guestEnd k)).nakOut := by
  have hfar : guestEnd k ≠ 176 + k := by unfold guestEnd hubEnd; omega
  unfold State.sendGuestFlit
  extract_lets e x g l ret units seq b y y' far t
  have hkept : (t.crxE e).nakOut = x.nakOut := by
    have ht : t.crxE e = y' := (State.setCrxE_crxE_ne _ _ hfar).trans (State.setCrxE_crxE _ _ _)
    rw [ht]
    by_cases hl : l = []
    · simp only [y', hl, if_true, y]
    · simp only [y', hl, if_false, y]
  split
  · exact hkept
  · rw [(countedFrom_evEnd t e 0x13 1).crxE]
    exact hkept

theorem discardFlit_nakOut (s : State) (e q ph : Nat) (b : Bytes) : ((s.discardFlit e q ph b).crxE e).nakOut = true := by
  unfold State.discardFlit State.sendControl
  dsimp only
  cases hguest : endGuest e with
  | none => exact congrArg CrxEnd.nakOut (State.setCrxE_crxE _ _ _)
  | some k =>
    obtain ⟨rfl, -⟩ := eq_guestEnd_of_endGuest hguest
    exact (sendGuestFlit_nakOut _ k).trans (congrArg CrxEnd.nakOut (State.setCrxE_crxE _ _ _))

/-! ## Windows (R345, R347 to R349) -/

theorem effCoroxWindow_of_due {s t : State} {e dt : Nat} (ht : s.elapse dt = t)
    (hstate : t.f .CRX_STATUS_STATE e = 2 ∨ t.f .CRX_STATUS_STATE e = 4) (hpending : t.fb .CRX_STATUS_PENDING e = true)
    (hdue : ((t.crxE e).forced || (if t.fb .CRX_CTRL_WIN_SCHED e && (t.sched (schedKey 16 (t.f .CRX_CTRL_SCHEDULE e))).defined then
      (t.sched (schedKey 16 (t.f .CRX_CTRL_SCHEDULE e))).due t.now (t.crxE e).nextDeal else decide ((t.crxE e).pendAt + 1000000 ≤ t.eng))) = true)
    (hfree : t.crxBlocked e = false) (hworks : ∀ x ∈ crxEnds e, t.endPartWorks x = true) (horder : (t.crxWinTime e).all t.inOrder = true) :
    effCoroxWindow e dt s = t.startCrxWindow e := by
  have hruns : (t.f .CRX_STATUS_STATE e == 2 || t.f .CRX_STATUS_STATE e == 4) = true := by simpa using hstate
  simp only [effCoroxWindow, ht, hruns, hpending, hdue, hfree, List.all_eq_true.mpr hworks, horder, Bool.not_false, Bool.and_self, if_true]

/-- A module's state and widths are registers alone. -/
theorem setModule_eq (s : State) (e st : Nat) : ∃ r, s.setModule e st = { s with regs := r } := by
  unfold State.setModule
  generalize crxEnds e = l
  induction l generalizing s with
  | nil => exact ⟨s.regs, rfl⟩
  | cons x l ih =>
    rw [List.foldl_cons]
    obtain ⟨r, hr⟩ := ih (let t := s.setF .CRX_STATUS_STATE x st
      if st = 3 then t
      else (t.setF .CRX_STATUS_WIDTH_RX x (if st = 2 then t.rxWidth x else 0)).setF .CRX_STATUS_WIDTH_TX x (if st = 2 then t.txWidth x else 0))
    refine ⟨r, hr.trans ?_⟩
    dsimp only
    split <;> rfl

/-- The replay buffer of an end emptied. -/
def State.dropReplay (s : State) (e : Nat) : State := s.setCrxE e { s.crxE e with replay := [] }

/-- The steps of a module's end that goes down empty its replay buffer and fill none. -/
theorem setCrxE_replay_nil {s : State} {x z : Nat} {c : CrxEnd} (hc : c.replay = []) (h : z = x ∨ (s.crxE z).replay = []) :
    ((s.setCrxE x c).crxE z).replay = [] := by
  by_cases hz : z = x
  · rw [hz, State.setCrxE_crxE, hc]
  · rw [State.setCrxE_crxE_ne _ _ hz]
    exact h.resolve_left hz

theorem foldl_replay_nil {f : State → Nat → State} (hf : ∀ s x z, z = x ∨ (s.crxE z).replay = [] → ((f s x).crxE z).replay = [])
    (l : List Nat) (s : State) (z : Nat) (h : z ∈ l ∨ (s.crxE z).replay = []) : ((l.foldl f s).crxE z).replay = [] := by
  induction l generalizing s with
  | nil => exact h.resolve_left (List.not_mem_nil)
  | cons x l ih =>
    refine ih (f s x) ?_
    rcases h with hmem | hnil
    · exact (List.mem_cons.mp hmem).symm.imp_right fun hz => hf s x z (.inl hz)
    · exact .inr (hf s x z (.inr hnil))

theorem dropReplay_replay (s : State) (x z : Nat) (h : z = x ∨ (s.crxE z).replay = []) : ((s.dropReplay x).crxE z).replay = [] :=
  setCrxE_replay_nil rfl h

theorem disableEnd_replay (s : State) (x z : Nat) (h : z = x ∨ (s.crxE z).replay = []) : ((s.disableEnd x).crxE z).replay = [] :=
  setCrxE_replay_nil (s := s) rfl h

/-- An end with nothing in its replay buffer has nothing to send by other routes. -/
theorem disableEnd_crxMoved {s : State} {x : Nat} (h : (s.crxE x).replay = []) : (s.disableEnd x).out.crxMoved = s.out.crxMoved := by
  have hnone : s.undelivered x = [] := by simp only [State.undelivered, h, List.drop_nil, ite_self]
  simp only [State.disableEnd, hnone]
  rfl

theorem foldl_disableEnd_crxMoved (l : List Nat) (s : State) (h : ∀ z ∈ l, (s.crxE z).replay = []) :
    (l.foldl State.disableEnd s).out.crxMoved = s.out.crxMoved := by
  induction l generalizing s with
  | nil => rfl
  | cons x l ih =>
    rw [List.foldl_cons, ih _ fun z hz => disableEnd_replay s x z (.inr (h z (List.mem_cons_of_mem x hz)))]
    exact disableEnd_crxMoved (h x List.mem_cons_self)

theorem foldl_dropReplay_out (l : List Nat) (s : State) : (l.foldl State.dropReplay s).out = s.out := by
  induction l generalizing s with
  | nil => rfl
  | cons x l ih => exact ih (s.dropReplay x)

section
variable {e : Nat} (hguest : endGuest e = none) (s : State)
include hguest

theorem endWindow_of_disabled : s.endWindow e 4 = (crxEnds e).foldl State.disableEnd (s.setModule e 4) := by
  simp only [State.endWindow, hguest, Option.map_none, Option.toList_none, List.append_nil]
  rfl

theorem endWindow_of_failed : s.endWindow e 5 = (crxEnds e).foldl State.disableEnd ((crxEnds e).foldl State.dropReplay (s.setModule e 5)) := by
  simp only [State.endWindow, hguest, Option.map_none, Option.toList_none, List.append_nil, Option.getD_none, Nat.reduceEqDiff, if_false, if_true]
  rfl

end

/-- A FAILED module's flits are lost. -/
theorem endWindow_failed_crxMoved {e : Nat} (hguest : endGuest e = none) (s : State) :
    (s.endWindow e 5).out.crxMoved = s.out.crxMoved := by
  obtain ⟨r, hr⟩ := setModule_eq s e 5
  rw [endWindow_of_failed hguest, foldl_disableEnd_crxMoved _ _ fun z hz => foldl_replay_nil dropReplay_replay _ _ z (.inl hz),
    foldl_dropReplay_out, hr]

/-! ## The statement -/

/-- Settles O40: flits, windows and failures of the modules. -/
theorem coroxLinksRun : Obligations.CoroxLinksRun := by
  refine ⟨?flit, ?arrive, ?forced, ?silent, ?forget, ?stuck, ?window, ?windowEnd, ?up, ?down⟩
  case flit =>
    intro e b errs s he hlen hup
    have hwf : (Instr.flit e ⟨b, errs⟩).wellFormed = true := by simp [Instr.wellFormed, he, hlen]
    refine ⟨fun t ht => exec_eq_becomes hwf rfl ?_, fun hnone => exec_eq_becomes hwf rfl ?_⟩
    · cases hguest : endGuest e <;> simp only [effFlit, ne_eq, hup, not_true_eq_false, if_false, ht, hguest]
    · simp only [effFlit, ne_eq, hup, not_true_eq_false, if_false, hnone]
  case arrive =>
    intro e b s f ph t c next
    exact ⟨fun htyp hbad => takeFlit_of_badData rfl htyp hbad,
      fun htyp hgood hseq => (takeFlit_of_goodData rfl htyp hgood).trans (if_pos hseq),
      fun htyp hgood hseq => (takeFlit_of_goodData rfl htyp hgood).trans (if_neg hseq),
      fun htyp hgood => takeFlit_of_idle rfl htyp hgood,
      fun htyp hgood => takeFlit_of_marker rfl htyp hgood,
      fun _ => discardFlit_nakOut s e next ph b⟩
  case forced =>
    intro e s u t he hup hnaks
    exact exec_eq_becomes (c := .coroxForcedWindow e) (decide_eq_true he) rfl
      (if_pos (Bool.and_eq_true_iff.mpr ⟨decide_eq_true hup, decide_eq_true hnaks⟩))
  case silent =>
    intro e dt s t he hup hlate
    exact exec_eq_becomes (c := .coroxModuleFail e dt) (decide_eq_true he) rfl
      (congrArg State.settleReach (if_pos (Bool.and_eq_true_iff.mpr ⟨hup, decide_eq_true hlate⟩)))
  case forget =>
    intro dt s t
    exact exec_eq_becomes (c := .transactionMemoryExpiry dt) rfl rfl rfl
  case stuck =>
    intro e l s x he hl hup hrun
    exact exec_eq_becomes (c := .coroxLaneStuck e l) (by simp [Instr.wellFormed, he, hl]) rfl
      (if_pos (Bool.and_eq_true_iff.mpr ⟨decide_eq_true hup, decide_eq_true hrun⟩))
  case window =>
    intro e dt s t c he hstate hpending hdue hfree hworks horder
    refine exec_eq_becomes (c := .coroxWindow e dt) (decide_eq_true he) rfl (effCoroxWindow_of_due rfl hstate hpending ?_ hfree hworks horder)
    rcases hdue with hforced | ⟨hsched, hdefined, hdue⟩ | ⟨hfree, hlate⟩
    · exact Bool.or_eq_true_iff.mpr (.inl hforced)
    · exact Bool.or_eq_true_iff.mpr (.inr ((if_pos (Bool.and_eq_true_iff.mpr ⟨hsched, hdefined⟩)).trans hdue))
    · refine Bool.or_eq_true_iff.mpr (.inr ((if_neg fun hboth => ?_).trans (decide_eq_true hlate)))
      obtain ⟨hsched, hdefined⟩ := Bool.and_eq_true_iff.mp hboth
      rcases hfree with hnot | hnot
      · exact absurd (hnot.symm.trans hsched) Bool.false_ne_true
      · exact absurd (hnot.symm.trans hdefined) Bool.false_ne_true
  case windowEnd =>
    intro e dt s t goal dead he hstate
    exact exec_eq_becomes (c := .coroxWindowEnd e dt) (decide_eq_true he) rfl (congrArg State.settleReach (if_neg (not_not.mpr hstate)))
  case up =>
    intro e s
    rfl
  case down =>
    intro e x y s he hpeer hx
    have hguest := endGuest_of_crxPeer hpeer
    have hmem : x ∈ crxEnds e := by simpa only [crxEnds, hpeer, Option.toList_some, List.mem_cons, List.not_mem_nil, or_false] using hx
    refine ⟨?_, ?_, endWindow_failed_crxMoved hguest s⟩
    · rw [endWindow_of_disabled hguest]
      exact foldl_replay_nil disableEnd_replay _ _ x (.inl hmem)
    · rw [endWindow_of_failed hguest]
      exact foldl_replay_nil disableEnd_replay _ _ x (.inl hmem)

end Sys2Proof.Machine
end

-- Proofs of the statement about guests.
section
/-!
SUPPORT. Guest sites (R351 to R360): packets, the judgement of a request, training, and the requests that wait.
-/

namespace Sys2Proof.Machine

open Sys2Proof

/-! ## Packets (R352, R353) -/

section
variable {s : State} {k op : Nat} {p : GPacket} (hup : s.f .CRX_STATUS_STATE (guestEnd k) = 2) (hhub : s.hubWorks (2 + k) = true)
  (hwhole : p.whole = true)
include hup hhub hwhole

/-- A whole packet of a guest that is UP waits without credit; else it spends credit, fills the hub's buffers and is judged. -/
theorem guestPacket_eq :
    s.guestPacket k op p =
      (let t := s.pumpGuest k 64
       if !(t.crxE (176 + k)).maySend p.units then t
       else
         let u := t.setCrxE (176 + k) { t.crxE (176 + k) with credit := spendUnits (t.crxE (176 + k)).credit p.units }
         ((u.setCrxE (guestEnd k) { u.crxE (guestEnd k) with
           held := (List.range 5).map fun v => (u.crxE (guestEnd k)).held.getD v 0 + p.units.count v }).guestRequest k op p).pumpGuest k 64) := by
  refine if_neg ?_
  simp only [hup, hhub, hwhole, bne_self_eq_false, Bool.not_true, Bool.or_self, Bool.false_eq_true, not_false_eq_true]

end

/-! ## The judgement of a request (R353, Table 13-7) -/

/-- The first rule of a site that holds a request whole. -/
def State.ruleFor (s : State) (k : Nat) (p : GPacket) : Option Nat :=
  (List.range 16).find? fun i => s.ruleValid k i && decide (s.ruleBase k i ≤ p.addr) && decide (p.addr + p.span ≤ s.ruleBase k i + s.ruleSize k i)

section
variable {s t : State} {k op : Nat} {p : GPacket} (ht : (if op = 0x40 then s else s.meterGuest k p.span) = t)
  (hnew : ((t.guest k).waiting.any fun (x : Nat × GPacket) => x.2.tag == p.tag) = false)
include ht hnew

theorem guestRequest_of_notAdmitted (hstate : t.f .CRX_GSTAT_STATE k ≠ 3) : s.guestRequest k op p = t.denyGuest k p 1 := by
  simp only [State.guestRequest, ht, hnew, hstate, ne_eq, not_false_eq_true, Bool.false_eq_true, if_false, if_true]

variable (hstate : t.f .CRX_GSTAT_STATE k = 3)
include hstate

theorem guestRequest_of_malformed (hbad : p.op ≠ op ∨ p.ok k = false ∨ t.f .CRX_GSTAT_MAX_OUT k ≤ (t.guest k).waiting.length) :
    s.guestRequest k op p = t.denyGuest k p 7 := by
  have hgo : (decide (p.op ≠ op) || !p.ok k || decide (t.f .CRX_GSTAT_MAX_OUT k ≤ (t.guest k).waiting.length)) = true := by
    simpa [or_assoc] using hbad
  simp only [State.guestRequest, ht, hnew, hstate, ne_eq, not_true_eq_false, Bool.false_eq_true, if_false]
  exact if_pos hgo

variable (hop : p.op = op) (hok : p.ok k = true) (hroom : (t.guest k).waiting.length < t.f .CRX_GSTAT_MAX_OUT k)
include hop hok hroom

theorem guestRequest_of_noRule (hrule : t.ruleFor k p = none) : s.guestRequest k op p = t.denyGuest k p 2 := by
  unfold State.ruleFor at hrule
  simp only [State.guestRequest, ht, hnew, hstate, hop, hok, Nat.not_le.mpr hroom, hrule, ne_eq, not_true_eq_false, decide_false,
    Bool.not_true, Bool.or_self, Bool.false_eq_true, if_false]

/-- A well-formed request of an admitted site for which there is room goes by the rule that holds it. -/
theorem guestRequest_of_rule {i : Nat} (hrule : t.ruleFor k p = some i) :
    s.guestRequest k op p =
      (let q := t.f .CRX_GRULE_SIZE_PART (ruleIx k i)
       if p.need &&& t.f .CRX_GRULE_SIZE_RIGHTS (ruleIx k i) ≠ p.need then t.denyGuest k p 3
       else if t.f .RST_PART_STATE q = 0 || t.f .RST_PART_STATE q = 2 || t.f .RST_PART_STATE q = 3 then t.denyGuest k p 8
       else if t.guestHole q p then t.denyGuest k p 4
       else (t.setWaiting k ((t.guest k).waiting ++ [(q, p)])).serveGuest k false) := by
  unfold State.ruleFor at hrule
  simp only [State.guestRequest, ht, hnew, hstate, hop, hok, Nat.not_le.mpr hroom, hrule, ne_eq, not_true_eq_false, decide_false,
    Bool.not_true, Bool.or_self, Bool.false_eq_true, if_false]

end

/-! ## The requests that wait (R353) -/

/-- The only request that waits is performed when all are, or when its free value says so. -/
theorem serveGuest_of_one {s : State} {k q : Nat} {p : GPacket} {all : Bool} (hwaiting : (s.guest k).waiting = [(q, p)])
    (hgo : all = true ∨ bitOf (Config.freeBits s.free).toNat 0 = true) :
    s.serveGuest k all = (State.setWaiting { s with free := s.free + 1 } k []).performGuest k q p := by
  have hwaiting' : (State.guest { s with free := s.free + 1 } k).waiting = [(q, p)] := hwaiting
  have hnow : (all || bitOf (Config.freeBits s.free).toNat 0) = true := by simpa using hgo
  simp only [State.serveGuest, hwaiting, List.foldl_cons, List.foldl_nil, State.takeFree, hwaiting', hnow, List.takeWhile_cons,
    bne_self_eq_false, Bool.false_eq_true, if_false, List.any_nil, Bool.not_false, Bool.and_self, if_true, List.erase_cons_head]

/-! ## Training (R351, R360) -/

theorem effGuestTrainRetry_of_due {s t : State} {k dt : Nat} (g : GuestOffer) (ht : s.elapse dt = t) (hstate : t.f .CRX_GSTAT_STATE k = 1)
    (hhub : t.hubWorks (2 + k) = true) (htrain : t.f .CRX_STATUS_STATE (guestEnd k) = 1) (hdue : (t.guest k).lastTry + 1000000 ≤ t.eng) :
    effGuestTrainRetry k g dt s =
      (let u := t.setGuest k { t.guest k with lastTry := t.eng }
       if guestMode g = 0 then u else u.trainGuest k g) := by
  subst ht
  refine if_pos ?_
  simpa using ⟨⟨⟨hstate, hhub⟩, htrain⟩, hdue⟩

/-! ## The statement -/

/-- Settles O41: requests, training, identity, loss and expulsion of guests. -/
theorem guestCommandsRun : Obligations.GuestCommandsRun := by
  refine ⟨?packet, ?judged, ?served, ?train, ?identity, ?down, ?expelled⟩
  case packet =>
    intro k b op s c p t far e hk hup hhub hwhole hop
    have hrun : exec c s = s.becomes (s.guestPacket k op p) := by
      have hwf := decide_eq_true hk
      rcases hop with ⟨rfl, rfl⟩ | ⟨rfl, rfl⟩ | ⟨rfl, rfl⟩
      · exact exec_eq_becomes (c := .gRead k b) hwf rfl rfl
      · exact exec_eq_becomes (c := .gWrite k b) hwf rfl rfl
      · exact exec_eq_becomes (c := .gAtomic k b) hwf rfl rfl
    have hpacket := guestPacket_eq (op := op) hup hhub hwhole
    refine ⟨fun hcredit => hrun.trans (congrArg s.becomes (hpacket.trans (if_neg ?_))),
      fun hnone => hrun.trans (congrArg s.becomes (hpacket.trans (if_pos ?_)))⟩
    · rw [hcredit]; exact Bool.false_ne_true
    · rw [hnone]; rfl
  case judged =>
    intro k op p s t open_ rule hnew
    refine ⟨guestRequest_of_notAdmitted rfl hnew, fun hstate => guestRequest_of_malformed rfl hnew hstate, fun hstate hop hok hroom => ?_⟩
    refine ⟨fun hnone => guestRequest_of_noRule rfl hnew hstate hop hok hroom hnone, ?_⟩
    intro i q st granted hrule
    have hjudged := guestRequest_of_rule rfl hnew hstate hop hok hroom hrule
    have hruns : (st ≠ 0 ∧ st ≠ 2 ∧ st ≠ 3) → (decide (st = 0) || decide (st = 2) || decide (st = 3)) ≠ true := by
      rintro ⟨h0, h2, h3⟩
      simp [h0, h2, h3]
    refine ⟨fun hlacks => hjudged.trans (if_pos hlacks), fun hgranted hstopped => ?_, fun hgranted hworks hhole => ?_,
      fun hgranted hworks hhole => ?_⟩
    · exact hjudged.trans ((if_neg (not_not.mpr hgranted)).trans (if_pos (by simpa [or_assoc] using hstopped)))
    · exact hjudged.trans ((if_neg (not_not.mpr hgranted)).trans ((if_neg (hruns hworks)).trans (if_pos hhole)))
    · exact hjudged.trans ((if_neg (not_not.mpr hgranted)).trans ((if_neg (hruns hworks)).trans (if_neg (Bool.eq_false_iff.mp hhole))))
  case served =>
    intro k q p all s hwaiting hgo
    exact serveGuest_of_one hwaiting hgo
  case train =>
    intro k g dt s t e mode hk hwidth hrates hstate hhub htrain hdue
    refine exec_eq_becomes (c := .guestTrainRetry k g dt) (by simp [Instr.wellFormed, hk, hwidth, hrates]) rfl
      ((effGuestTrainRetry_of_due g rfl hstate hhub htrain hdue).trans ?_)
    have hmode : guestMode g = mode := rfl
    simp only [hmode, State.trainGuest, Bool.or_eq_true, decide_eq_true_iff]
    rfl
  case identity =>
    intro k lo hi s hk hstate hup
    exact exec_eq_becomes (c := .guestIdentity k lo hi) (decide_eq_true hk) rfl
      (if_pos (Bool.and_eq_true_iff.mpr ⟨decide_eq_true hstate, hup⟩))
  case down =>
    intro k s hk hup
    exact exec_eq_becomes (c := .guestLinkDown k) (decide_eq_true hk) rfl (if_pos hup)
  case expelled =>
    intro k r pos s u t hk hexpel hstate hactive
    refine exec_eq_becomes (c := .guestExpelDone k) (decide_eq_true hk) rfl ?_
    have ht : (s.serveGuest k true).setGuest k { (s.serveGuest k true).guest k with expel := none } = t := rfl
    have hactive' : (t.setF .CRX_GSTAT_STATE k 2).isActive r pos = true := hactive
    simp only [effGuestExpelDone, hexpel, ht, hstate, hactive', if_true]

end Sys2Proof.Machine
end
